-- ==== Sys2Proof/Word.lean ====
section
/-! DEFINITION. The word types of the LND-4820 and the indices of its parts. -/

namespace Sys2Proof

/-- A byte of memory, of a queue entry or of a frame. -/
abbrev Byte := BitVec 8

/-- A register is 32 bits wide (R6). -/
abbrev Word := BitVec 32

/-- A device physical address is 52 bits (R5). -/
abbrev Dpa := BitVec 52

/-- Die numbers: C0-C15 are 0-15, L0 and L1 are 16 and 17, K0 and K1 are 18 and 19 (R14). -/
abbrev Die := Fin 20

/-- Compute dies C0-C15 (R14). -/
abbrev CDie := Fin 16

/-- Link dies L0 and L1 (R14). -/
abbrev LDie := Fin 2

/-- Control dies K0 and K1, and the host link each carries (R14, R339). -/
abbrev KDie := Fin 2

/-- Physical sprigs 0-271 of a compute die (R23). -/
abbrev Phys := Fin 272

/-- Arrays 0-3 of a sprig (R71). -/
abbrev ArrIx := Fin 4

/-- Queues 0-63 of a sprig (R160). -/
abbrev QIx := Fin 64

/-- Link ports 0-15: L0 holds 0-7 and L1 holds 8-15 (R300). -/
abbrev Port := Fin 16

/-- Mailbox channels 0-31 of a host link (R345). -/
abbrev Chan := Fin 32

/-- A register offset within the register space of a die (R5, R234). -/
abbrev RegOff := BitVec 28

def CDie.die (c : CDie) : Die := ⟨c.val, by omega⟩
def LDie.die (l : LDie) : Die := ⟨16 + l.val, by omega⟩
def KDie.die (k : KDie) : Die := ⟨18 + k.val, by omega⟩

end Sys2Proof
end

