-- ==== Sys2Proof/Syntax.lean ====
section
/-! DEFINITION. The commands of the block: one constructor per row of spec/opcode_table.json, in the table's order.
The operands say where the row happens and what comes from outside the block with it: a host's data, a sensor's
reading, another module's partial values, the placer's choice (R296). -/

namespace Sys2Proof

/-- The readers that own a counter holding register (R12): a host function, one of the four cores of a control
processor complex, a die supervisor (compute dies 0-15, link dies 16-17). -/
inductive Agent where
  | host (l : KDie)
  | ctl (k : KDie) (core : Fin 4)
  | sup (d : Fin 18)
  deriving DecidableEq, Repr

/-- The engines that follow R178-R181: Table 6.8 queues 48-54. -/
inductive EngineId where
  | chv | ats | nrm | emb | lay | upd | fnl
  deriving DecidableEq, Repr

/-- What DRAINING applies to (R174, R181). -/
inductive DrainTarget where
  | sprig (d : CDie) (p : Phys)
  | queue (d : CDie) (p : Phys) (q : QIx)
  | engine (d : CDie) (e : EngineId)
  deriving DecidableEq, Repr

/-- A protected memory of a compute die (R244, R247). -/
inductive MemSpace where
  | dram | shared
  | sprig (p : Phys)
  | acc (p : Phys)
  | queue (p : Phys)
  deriving DecidableEq, Repr

/-- The arbiters of R262. -/
inductive Arbiter where
  | channel (d : CDie) (ch : Fin 32)
  | sharedBank (d : CDie) (bank : Nat)
  | bridge (d : CDie) (port : Fin 4)
  deriving DecidableEq, Repr

/-- A flipped symbol of a stored codeword: the symbol's number and the bits that flipped. -/
abbrev Upset := List (Nat × BitVec 16)

/-- Another replica's exchange buffer as XREDUCE meets it (R324): its module, the MBIDs it holds, its sum words. -/
structure PeerSum where
  module : Nat
  mbids : List Nat
  sums : List Int
  deriving DecidableEq, Repr

/-- What another module sends into RECRED (R326): its records, its tree nodes (R467), its CRC-32 pairs. -/
structure PeerRecs where
  module : Nat
  records : List (List Byte)
  nodes : List (Nat × Bool × Nat × Nat × Word)
  ruleCrc : Word
  freezeCrc : Word
  planCrc : Word
  deriving DecidableEq, Repr

/-- A slot entry of a variant (R293). -/
structure SlotEntry where
  tmpl : Nat
  mbid : BitVec 16
  tickBase : BitVec 24
  bias : BitVec 64
  deriving DecidableEq, Repr

/-- A template command with its side word (R293). -/
structure TemplateCmd where
  bytes : List Byte
  side : BitVec 16
  deriving DecidableEq, Repr

/-- The placer's fallback routine of a sprig for one row group (R122, R123; log 84): the tensor and the group's first row, where
the sprig that rotates the group puts its Q16 codes, the operator's scale-tag entry and the fallback entry, the expanded N8
commands of the group, and the M16 commands in their place with their queues. -/
structure FallbackRoutine where
  tid : BitVec 24
  row : BitVec 32
  dst : Option (BitVec 52)
  tag : Fin 64
  ftag : Fin 64
  n8 : List (List Byte)
  m16 : List TemplateCmd
  deriving DecidableEq, Repr

/-- A scale-tag entry of a sprig for a phase (R110, R111; log 96): the entry, and the tensors of its streamed, stationary and output
scale words. -/
structure TagPlan where
  entry : Fin 64
  a : BitVec 24
  b : BitVec 24
  o : BitVec 24
  deriving DecidableEq, Repr

/-- A die's part of a variant for one logical sprig (R293), with its fallback routines (R122) and its scale-tag entries (R110). -/
structure VariantPart where
  die : CDie
  logical : Fin 256
  templates : List (List TemplateCmd)
  slots : List SlotEntry
  routines : List FallbackRoutine
  tags : List TagPlan
  deriving DecidableEq, Repr

/-- What the placer hands to job load (R254, R276, R277, R281, R291): its choices and the group's CRC-32 pair. -/
structure LoadPlan where
  variants : Nat
  longestStep : Nat
  groupPlan : Word
  groupMax : Word
  groupMin : Word
  fits : Bool
  parBase : BitVec 10
  parBlocks : BitVec 21
  stgBase : BitVec 10
  groupLock : Bool
  old : List (BitVec 10) := []
  shards : List (BitVec 10 × BitVec 24 × Nat) := []
  deriving DecidableEq, Repr

/-- A part of an LND-2400 module's shard that reaches this module (R386, R387): the whole copy, one of the 8 fragments, or the
reduced gradients of a step. -/
inductive ShardPart where
  | whole
  | fragment (i : Fin 8)
  | gradient (step : Nat)
  deriving DecidableEq, Repr

/-- The module and the tensor of the shard, which part, and its bytes. -/
structure PeerShard where
  module : BitVec 10
  tid : BitVec 24
  part : ShardPart
  bytes : List Byte
  deriving DecidableEq, Repr

/-- A data unit of a row of a parity group that a survivor sends to the row's parity member (R332). -/
structure PeerUnit where
  module : BitVec 10
  row : Nat
  bytes : List Byte
  deriving DecidableEq, Repr

/-- Configuration requests of a host link (R339-R341). -/
inductive CfgReq where
  | deviceId
  | classCode
  | serial
  | powerState
  | setPowerState (d3 : Bool)
  | extCaps
  | payload
  | msix
  | aer
  | clearAer (mask : BitVec 2)
  deriving DecidableEq, Repr

/-- What a TYPE 0x3 frame says (R319, R381). -/
inductive BarrierMsg where
  | arrival (id : BitVec 28) (time : Nat)
  | release (id : BitVec 28) (time : Nat)
  | abort (time : Nat)
  deriving DecidableEq, Repr

/-- The four times of a Thyme exchange in units of 1/16 ns (R317), when the exchange is complete. -/
structure SyncTimes where
  t1 : Nat
  t2 : Nat
  t3 : Nat
  t4 : Nat
  deriving DecidableEq, Repr

/-- A request waiting at an arbiter (R262): its requester and whether it is of the low-priority class. -/
structure ArbReq where
  requester : Nat
  low : Bool
  deriving DecidableEq, Repr

/-- A group member's report at the end of a reshard (R336). -/
structure ReshardPlan where
  complete : Bool
  fits : Bool
  groupPlan : Word
  groupMax : Word
  groupMin : Word
  deriving DecidableEq, Repr

/-- What comes from outside at the end of an update phase: a reshard's report (R336), and parts of LND-2400 shards (R386). -/
structure PhaseEnd where
  reshard : ReshardPlan
  shards : List PeerShard
  deriving DecidableEq, Repr

/-- What hardware sets in the cycle of a register write (R10): bits, and the three words that a capture records (R90, R264). -/
structure HwSet where
  bits : Word
  capture : Option (Word × Word × Word)
  deriving DecidableEq, Repr

/-- A maximum or minimum that the group forms at a boundary: of the drop lists' CRC-32s (R374) and of the group plans' (R277). -/
structure GroupWords where
  drops : Word
  plan : Word
  deriving DecidableEq, Repr

/-- A module that is lost, with the data units of its group's rows and the parts of its LND-2400 shards that the survivors send
(R332, R387). -/
structure LostModule where
  module : BitVec 10
  units : List PeerUnit
  shards : List PeerShard
  deriving DecidableEq, Repr

inductive Instr where
  -- registers and bridges
  | registerWrite (ag : Agent) (d : Die) (off : RegOff) (val : Word) (hwSet : HwSet) (hwClr : Word)
  | counterLowerRead (ag : Agent) (d : Die) (off : RegOff)
  | counterUpperRead (ag : Agent) (d : Die) (off : RegOff)
  | bridgeWireFail (bridge : Fin 30) (dir : Bool) (group : Fin 64) (wire : Fin 128)
  -- arrays
  | issueUnitPlace (d : CDie) (p : Phys) (a : ArrIx)
  | arrLds (d : CDie) (p : Phys) (a : ArrIx)
  | arrMm (d : CDie) (p : Phys) (a : ArrIx)
  | arrDrain (d : CDie) (p : Phys) (a : ArrIx)
  | arrRamp (d : CDie) (p : Phys) (a : ArrIx)
  | arrWait (d : CDie) (p : Phys) (a : ArrIx)
  | arrSwap (d : CDie) (p : Phys) (a : ArrIx)
  | accLoad (d : CDie) (p : Phys) (a : ArrIx)
  | accStore (d : CDie) (p : Phys) (a : ArrIx)
  | slotAccessStart (d : CDie) (p : Phys) (a : ArrIx)
  | stationaryColumnWrite (d : CDie) (p : Phys) (a : ArrIx)
  | streamedRowIssue (d : CDie) (p : Phys) (a : ArrIx)
  | passTokenFlip (d : CDie) (p : Phys) (a : ArrIx) (col : Fin 32)
  | passResultWrite (d : CDie) (p : Phys) (a : ArrIx) (col : Fin 32)
  | drainComplete (d : CDie) (p : Phys) (a : ArrIx)
  | rampStep (d : CDie) (p : Phys) (a : ArrIx)
  | idleHoldExpiry (d : CDie) (p : Phys) (a : ArrIx)
  | operandWatchdog (d : CDie) (p : Phys) (a : ArrIx)
  | outlierSideAdd (d : CDie) (p : Phys) (a : ArrIx) (rec : Dpa) (entry : Fin 64) (row : Fin 32) (slot : Fin 32)
      (wsrc rstride : BitVec 16) (q4 : Bool) (k : Fin 32) (nm1 : Fin 32)
  -- sprig commands
  | arrCommand (d : CDie) (p : Phys)
  | dmaCommand (d : CDie) (p : Phys)
  | dmaTransferStart (d : CDie) (p : Phys)
  | dmaTransferComplete (d : CDie) (p : Phys) (q : Fin 16)
  | engCommand (d : CDie) (p : Phys)
  | queSend (d : CDie) (p : Phys)
  | sendReceive (d : CDie) (p : Phys) (cq : Fin 16) (remoteAccepts : Bool)
  | syncBarrier (d : CDie) (p : Phys)
  | syncWaitq (d : CDie) (p : Phys)
  | scl (d : CDie) (p : Phys)
  | movi (d : CDie) (p : Phys) (rd : Fin 32) (imm : BitVec 16)
  | add (d : CDie) (p : Phys) (rd ra rb : Fin 32)
  | sub (d : CDie) (p : Phys) (rd ra rb : Fin 32)
  | and (d : CDie) (p : Phys) (rd ra rb : Fin 32)
  | or (d : CDie) (p : Phys) (rd ra rb : Fin 32)
  | shl (d : CDie) (p : Phys) (rd ra rb : Fin 32)
  | shr (d : CDie) (p : Phys) (rd ra rb : Fin 32)
  | fadd (d : CDie) (p : Phys) (rd ra rb : Fin 32) (f16 : Bool) (rm : Fin 4)
  | fmul (d : CDie) (p : Phys) (rd ra rb : Fin 32) (f16 : Bool) (rm : Fin 4)
  | ffma (d : CDie) (p : Phys) (rd ra rb rc : Fin 32) (f16 : Bool) (rm : Fin 4)
  | fcvt (d : CDie) (p : Phys) (rd ra : Fin 32) (f16 : Bool) (rm : Fin 4)
  | ld32 (d : CDie) (p : Phys) (rd ra : Fin 32) (off : BitVec 8)
  | st32 (d : CDie) (p : Phys) (rd ra : Fin 32) (off : BitVec 8)
  | ldtag (d : CDie) (p : Phys) (rd ra : Fin 32) (off : BitVec 8)
  | ctxStep (d : CDie) (p : Phys)
  | scheduleFetch (d : CDie) (p : Phys)
  -- sprig and queue states
  | sprigFault (d : CDie) (p : Phys)
  | sprigDisable (d : CDie) (p : Phys)
  | queueDisable (d : CDie) (p : Phys) (q : QIx)
  | drainTimeout (t : DrainTarget)
  | drainEnd (t : DrainTarget)
  | sprigEnable (d : CDie) (p : Phys)
  | queueEnable (d : CDie) (p : Phys) (q : QIx)
  | cancelledCompletionWrite (d : CDie) (p : Phys)
  | eventQueueFullService (d : CDie) (p : Phys) (ev : Fin 8)
  -- engines
  | engineDisable (d : CDie) (e : EngineId)
  | engineEnable (d : CDie) (e : EngineId)
  | engineCompletion (d : CDie) (e : EngineId)
  | chervilRequest (d : CDie)
  | fwd (d : CDie)
  | delta (d : CDie)
  | bwd (d : CDie)
  | emuMm (d : CDie) (e : EngineId)
  | rms (d : CDie)
  | ln (d : CDie)
  | rmsBwd (d : CDie)
  | lnBwd (d : CDie)
  | gather (d : CDie)
  | scatter (d : CDie)
  | fin (d : CDie)
  | move (d : CDie)
  | update (d : CDie)
  | wcopy (d : CDie)
  | gnorm (d : CDie)
  | ortho (d : CDie)
  | pcommit (d : CDie)
  | stagingDelta (src holder : CDie)
  -- Fennel
  | contrib (d : CDie)
  | xreduce (d : CDie) (peers : List PeerSum) (failed : List Nat)
  | recred (d : CDie) (peers : List PeerRecs) (failed : List Nat)
  | ring (d : CDie) (failed : Bool)
  | permute (d : CDie) (failed : List Nat)
  | gpdelta (d : CDie)
  | bcast (d : CDie) (failed : List Nat)
  | ridHoldExpiry (l : LDie)
  | fenceTimeout (rid : BitVec 28) (missing : List Nat)
  -- governor and schedule
  | governorDecide
  | tick (d : CDie)
  | barrierRelease (id : BitVec 28) (mx mn : GroupWords)
  | barrierTimeout (id : BitVec 28)
  | phaseSwitch (ends : PhaseEnd)
  | variantBuild (key : List Byte) (parts : List VariantPart)
  -- memory
  | memoryRead (d : CDie) (sp : MemSpace) (off : BitVec 44) (upset : Upset)
  | partialWrite (d : CDie) (sp : MemSpace) (off : BitVec 44) (data : List Byte) (upset : Upset)
  | scrubBurst (d : CDie) (upsets : List (Fin 64 × Upset))
  | sramScrubBurst (d : CDie) (upsets : List (Fin 128 × Upset))
  | parityRegeneration (first last : Nat)
  | requestUrgent (arb : Arbiter) (req : ArbReq)
  -- host accesses
  | bar4Access (l : KDie) (off : BitVec 38) (wr : Option (List Byte)) (len : Nat)
  | bar0Access (l : KDie) (off : BitVec 26) (wr : Option (List Byte)) (len : Nat) (allBytes : Bool)
  | configRequest (l : KDie) (req : CfgReq)
  -- links
  | frameSend (pt : Port) (slot : Fin 16)
  | idleFrame (pt : Port) (frame : List Byte) (fecOk : Bool)
  | dataFrame (pt : Port) (frame : List Byte) (fecOk : Bool) (time : Nat)
  | thymeSyncFrame (pt : Port) (frame : List Byte) (fecOk : Bool) (times : Option SyncTimes)
  | thymeSyncSend (pt : Port)
  | barrierFrame (pt : Port) (frame : List Byte) (fecOk : Bool) (msg : BarrierMsg)
  | stopFrame (pt : Port) (frame : List Byte) (fecOk : Bool) (stopId : BitVec 26) (target : Nat)
  | laneRepairFrame (pt : Port) (frame : List Byte) (fecOk : Bool) (lane : Fin 8) (codeword : Nat)
  | laneWeak (pt : Port) (lane : Fin 9)
  | laneFail (pt : Port) (lane : Fin 9)
  | ackTimeout (pt : Port)
  | retrain (pt : Port)
  | portUp (pt : Port) (peerMod : BitVec 10) (peerPort : BitVec 4)
  | retrainTimeout (pt : Port)
  | portRetry (pt : Port)
  | ethernetFrame (pt : Port) (frame : List Byte) (fcsOk : Bool)
  | injectionEnable (pt : Port) (val : Word)
  -- mailboxes
  | go (l : KDie) (c : Chan) (seq : BitVec 16)
  | ack (l : KDie) (c : Chan) (val : Word)
  | clr (l : KDie) (c : Chan)
  | poisonedTlp (l : KDie) (c : Chan)
  | requestTake (l : KDie) (c : Chan)
  | eventPost (l : KDie) (c : Chan)
  | completionEvent (tag : BitVec 16)
  | heartbeat
  | getInfo (l : KDie) (c : Chan)
  | evtMask (l : KDie) (c : Chan)
  | cancel (l : KDie) (c : Chan)
  | jobLoad (l : KDie) (c : Chan) (plan : LoadPlan)
  | jobStart (l : KDie) (c : Chan)
  | jobEnd (l : KDie) (c : Chan)
  | jobStatus (l : KDie) (c : Chan)
  | reshard (l : KDie) (c : Chan)
  | dataAppend (l : KDie) (c : Chan)
  | sagePin (l : KDie) (c : Chan)
  | sageUnpin (l : KDie) (c : Chan)
  | sageSetRules (l : KDie) (c : Chan)
  | freezeSet (l : KDie) (c : Chan)
  | ckptSave (l : KDie) (c : Chan)
  | dma (l : KDie) (c : Chan) (descs : List Byte) (hostData : List (List Byte))
  | replayStep (l : KDie) (c : Chan)
  | jrnRead (l : KDie) (c : Chan)
  | gstop (l : KDie) (c : Chan)
  | gresume (l : KDie) (c : Chan)
  | scanout (l : KDie) (c : Chan) (failed : BitVec 20)
  | authChallenge (l : KDie) (c : Chan)
  | authResponse (l : KDie) (c : Chan)
  | authEnd (l : KDie) (c : Chan)
  | powerCap (l : KDie) (c : Chan)
  | warmReset (l : KDie) (c : Chan)
  | fwStage (l : KDie) (c : Chan)
  | fwActivate (l : KDie) (c : Chan) (fault : Bool)
  -- faults and recovery
  | dieTransactionTimeout (d : CDie) (p : Phys) (q : Fin 16) (target : CDie)
  | dieProbeTimeout (d : CDie)
  | moduleLost (m : LostModule)
  | mirrorHeartbeat
  | mirrorHeartbeatTimeout
  | mailboxAcceptedTimeout (l : KDie) (c : Chan)
  | failoverTimeout
  | stepTimeout
  | stepAbort
  | writeAck (pt : Port) (frame : List Byte)
  | data (pt : Port) (frame : List Byte)
  | nack (pt : Port) (frame : List Byte)
  | transferTimeout
  -- resets, clocks and power
  | por (inRange : Bool)
  | modrst (low : Bool)
  | therm (assert : Bool)
  | warm (k : KDie)
  | modwdog
  | ctlwdog (k : KDie) (release : Bool)
  | dswdog (d : Fin 18) (release : Bool)
  | perst (l : KDie)
  | softwareReset (d : Die) (bits : BitVec 25)
  | releaseStep (trained : BitVec 16)
  | stackTrainTimeout (d : CDie)
  | refclkSwitch (finished : Bool)
  | thymeSyncWord (d : Die) (drift : Int)
  | droopTrip (d : CDie) (deep : Bool)
  | stretchEpisodeEnd (d : CDie) (stillTripped : Bool)
  | droopClear (d : CDie)
  | powerCapIteration
  | freqSlewStep
  | energySample (d : Die) (rail stack input : Nat) (activity : List (Nat × Nat × Nat))
  -- counters, stop and debug
  | clear
  | filterWrite (k : KDie) (off : RegOff) (val : Word)
  | breakpointArm (k : KDie) (val : Word)
  | stop (k : KDie) (val : Word)
  | resume (k : KDie) (val : Word)
  | dbgStopN
  | stopFreeze
  | resumeTime
  | authExpiry
  | challengeExpiry
  | lockoutExpiry
  -- management bus
  | i3cDynamicAddress (addr : BitVec 7)
  | setEndpointId (eid : Byte)
  | getEndpointId
  | getEndpointUuid
  | getMctpVersionSupport (msgType : Byte)
  | getMessageTypeSupport
  | getTid
  | setTid (tid : Byte)
  | getPldmVersion (pldmType : Byte)
  | getPldmTypes
  | getPldmCommands (pldmType : Byte)
  | getPdrRepositoryInfo
  | getPdr (handle : Word)
  | getSensorReading (sensor : BitVec 16)
  | getStateSensorReadings (sensor : BitVec 16)
  | setEventReceiver (eid : Byte)
  | setNumericEffecterValue (effecter : BitVec 16) (value : Word)
  | getNumericEffecterValue (effecter : BitVec 16)
  | getFruRecordTableMetadata
  | getFruRecordTable
  | queryDeviceIdentifiers
  | getFirmwareParameters
  | requestUpdate
  | passComponentTable (req : List Byte)
  | updateComponent (size : Nat)
  | activateFirmware (fault : Bool)
  | getStatus
  | cancelUpdateComponent
  | cancelUpdate
  | getVersion
  | getCapabilities
  | negotiateAlgorithms (req : List Byte)
  | getDigests
  | getCertificate (slot : Byte) (offset length : BitVec 16)
  | challenge (slot : Byte) (nonce : List Byte)
  | getMeasurements (index : Byte)
  -- JTAG
  | bypass
  | idcode
  | samplePreload
  | extest
  | clamp
  | highz
  | testLogicReset
  -- further events
  | perstRelease (l : KDie)
  | mirrorSyncComplete
  | portEnable (pt : Port) (val : Word)
  | temperatureWarnCrossing (d : Die) (temp : Byte)
  | stackHot (d : CDie) (hot : Bool)
  | hostLinkError (l : KDie)
  | stackLoss (d : CDie)
  | linkDieFailure (l : LDie)
  | unsupportedManagementMessage (protocol : Byte) (code : Byte)
  | firmwareDataResponse (offset : Nat) (piece : List Byte)
  deriving DecidableEq, Repr

end Sys2Proof
end

