-- ==== Sys2Proof/Machine/Bits.lean ====
section
/-! DEFINITION. Bit fields, byte order and sign extension. Every multi-byte field is little-endian (R132, R153, R265). -/

namespace Sys2Proof.Machine

/-- Bits [hi:lo] of a word, as a number. -/
def bits {n : Nat} (w : BitVec n) (hi lo : Nat) : Nat := (w.toNat >>> lo) % 2 ^ (hi + 1 - lo)

/-- Bit `i` of a word. -/
def bit {n : Nat} (w : BitVec n) (i : Nat) : Bool := w.getLsbD i

/-- A word with bits [hi:lo] replaced. -/
def setBits {n : Nat} (w : BitVec n) (hi lo v : Nat) : BitVec n :=
  let m := BitVec.ofNat n ((2 ^ (hi + 1 - lo) - 1) <<< lo)
  (w &&& ~~~m) ||| (BitVec.ofNat n (v <<< lo) &&& m)

/-- The number a little-endian byte list spells. -/
def leNat : List Byte → Nat
  | [] => 0
  | b :: bs => b.toNat + 256 * leNat bs

/-- A number as `n` little-endian bytes. -/
def natLe : Nat → Nat → List Byte
  | 0, _ => []
  | n + 1, v => BitVec.ofNat 8 v :: natLe n (v / 256)

/-- A number as `n` big-endian bytes. -/
def natBe (n v : Nat) : List Byte := (natLe n v).reverse

/-- The number a big-endian byte list spells. -/
def beNat (bs : List Byte) : Nat := leNat bs.reverse

/-- `n` bytes from byte `i`, filled with zeros where the list ends. -/
def slice (bs : List Byte) (i n : Nat) : List Byte :=
  let t := (bs.drop i).take n
  t ++ List.replicate (n - t.length) 0

/-- The little-endian field of `n` bytes at byte `i`. -/
def fld (bs : List Byte) (i n : Nat) : Nat := leNat (slice bs i n)

/-- Bits [hi:lo] of the little-endian field of `n` bytes at byte `i`. -/
def fldBits (bs : List Byte) (i n hi lo : Nat) : Nat := (fld bs i n >>> lo) % 2 ^ (hi + 1 - lo)

/-- A byte list with `v` written over it from byte `i`. -/
def splice (bs : List Byte) (i : Nat) (v : List Byte) : List Byte :=
  bs.take i ++ v ++ bs.drop (i + v.length)

/-- The two's-complement value of the low `n` bits of a number. -/
def sx (n v : Nat) : Int :=
  let m := v % 2 ^ n
  if m < 2 ^ (n - 1) then (m : Int) else (m : Int) - 2 ^ n

/-- The low `n` bits of an integer. -/
def lowBits (n : Nat) (x : Int) : Nat := (x % (2 ^ n : Int)).toNat

/-- The 32-bit words of a byte list, little-endian. -/
def wordsOf : Nat → List Byte → List Word
  | 0, _ => []
  | n + 1, bs => BitVec.ofNat 32 (fld bs 0 4) :: wordsOf n (bs.drop 4)

/-- The bytes of 32-bit words, little-endian. -/
def bytesOf (ws : List Word) : List Byte := ws.flatMap fun w => natLe 4 w.toNat

/-- The bits set in a number below 2^n, in increasing order. -/
def setBitsOf (n v : Nat) : List Nat := (List.range n).filter fun i => v.testBit i

/-- ⌈a / b⌉. -/
def cdiv (a b : Nat) : Nat := (a + b - 1) / b

/-- The length of a byte list is a whole number of pieces; the pieces. -/
def chunks (n : Nat) : Nat → List Byte → List (List Byte)
  | 0, _ => []
  | k + 1, bs => slice bs 0 n :: chunks n k (bs.drop n)

end Sys2Proof.Machine
end

