-- ==== Sys2Proof/Machine/Numeric.lean ====
section
/-! DEFINITION. Exact rational arithmetic and the one rounding of every narrowing: L16, Q formats, the rounding modes of
Table 2.7, scale words (R35-R51, R109, R111, R112). -/

namespace Sys2Proof.Machine

/-- 2 to an integer power, exact. -/
def pow2 (e : Int) : Rat :=
  if 0 ≤ e then ((2 ^ e.toNat : Nat) : Rat) else 1 / ((2 ^ (-e).toNat : Nat) : Rat)

def ratAbs (x : Rat) : Rat := if x < 0 then -x else x

/-- ⌊log₂ x⌋ for x > 0. -/
def ilog2 (x : Rat) : Int :=
  let d : Int := (Nat.log2 x.num.toNat : Int) - (Nat.log2 x.den : Int)
  if pow2 d ≤ x then d else d - 1

/-- The rounding of a magnitude (Table 2.7), with the random bits of a stochastic rounding (R51). -/
inductive Rnd where
  | rne
  | sr (k r : Nat)
  | rz
  deriving DecidableEq, Repr

/-- A magnitude, in units of the grid step, rounded to a whole number (R51; RNE ties to even). -/
def roundMag (m : Rnd) (x : Rat) : Nat :=
  let t := x.floor.toNat
  let d := x - (t : Rat)
  match m with
  | .rz => t
  | .rne => if d < 1 / 2 then t else if 1 / 2 < d then t + 1 else if t % 2 = 0 then t else t + 1
  | .sr k r =>
    let D := (d * ((2 ^ k : Nat) : Rat)).floor.toNat
    if 2 ^ k - D ≤ r ∧ D ≠ 0 then t + 1 else t

/-- An exact value rounded to an integer, sign restored (R51). -/
def roundInt (m : Rnd) (x : Rat) : Int :=
  let q := roundMag m (ratAbs x)
  if x < 0 then -(q : Int) else (q : Int)

/-- The stochastic bit count of Table 2.8: code 0 is 12. -/
def srBits (srk : Nat) : Nat := if srk = 0 then 12 else srk

/-- Whether a rounding-mode code is reserved (Table 2.7). -/
def rmodeLegal (c : Nat) : Bool := c < 3

/-- Whether a stochastic bit-count code is defined (Table 2.8). -/
def srkLegal (c : Nat) : Bool := c = 0 ∨ (8 ≤ c ∧ c ≤ 16)

/-- L16 POISON (R35). -/
def l16Poison : Nat := 0x8000

/-- The value of an L16 encoding; POISON has none (R35, Table 2.2). -/
def l16Val (e : Nat) : Option Rat :=
  if e = l16Poison then none
  else
    let ex := (e >>> 7) % 256
    let fr := e % 128
    let m : Rat := if ex = 0 then (fr : Rat) * pow2 (-133) else ((128 + fr : Nat) : Rat) * pow2 ((ex : Int) - 134)
    some (if e.testBit 15 then -m else m)

/-- An exact value rounded once to L16, and whether it saturated (R36, R37). -/
def toL16 (m : Rnd) (x : Rat) : Nat × Bool :=
  let a := ratAbs x
  if a = 0 then (0, false)
  else
    let e := max (ilog2 a) (-126)
    let q := roundMag m (a / pow2 (e - 7))
    let mag := (e + 126).toNat * 128 + q
    let s := if x < 0 then 0x8000 else 0
    if 0x7FFF < mag then (0x7FFF + s, true)
    else if mag = 0 then (0, false)
    else (mag + s, false)

/-- An exact magnitude rounded up to an L16 magnitude (R129). -/
def amaxL16 (x : Rat) : Nat :=
  let a := ratAbs x
  if a = 0 then 0
  else
    let e := max (ilog2 a) (-126)
    let q := (a / pow2 (e - 7)).ceil.toNat
    let mag := (e + 126).toNat * 128 + q
    if 0x7FFF < mag then 0x7FFF else mag

/-- The larger of two L16 magnitudes (R39: ordered as encodings with bit 15 cleared). -/
def l16Max (a b : Nat) : Nat := max (a % 0x8000) (b % 0x8000)

/-- The largest code of a Q format of `n` bits that the device produces (Table 2.3). -/
def qMax (n : Nat) : Nat := 2 ^ (n - 1) - 1

/-- Saturation to the symmetric range, and whether it clipped (R40). -/
def satQ (n : Nat) (x : Int) : Int × Bool :=
  if (qMax n : Int) < x then ((qMax n : Int), true)
  else if x < -(qMax n : Int) then (-(qMax n : Int), true)
  else (x, false)

/-- A scale word (Table 2.4). -/
structure Scale where
  e : Int
  m : Nat
  zero : Bool
  deriving DecidableEq, Repr

def scaleOf (w : Nat) : Scale :=
  { e := sx 8 (w >>> 24), m := (w >>> 8) % 65536, zero := w.testBit 7 }

/-- The real value of a unit code under a scale word (R43). -/
def Scale.val (s : Scale) : Rat := if s.zero then 0 else (s.m : Rat) * pow2 (s.e - 15)

/-- A scale word with ZERO clear and m below 0x8000, or with a bit in [3:0], is malformed (R44). -/
def scaleMalformed (w : Nat) : Bool :=
  w % 16 ≠ 0 ∨ (¬ w.testBit 7 ∧ (w >>> 8) % 65536 < 0x8000)

/-- make_scale of R109: the scale word formed from an amax (an exact magnitude), a margin and qmax. -/
def makeScale (a : Rat) (margin qmax : Nat) (warmup : Bool) : Nat :=
  let wu := if warmup then 32 else 0
  if a = 0 then 0x8000 * 256 + 128 + wu
  else
    let t := a * (margin : Rat) / ((qmax * 4096 : Nat) : Rat)
    let e := ilog2 t
    let m := (t * pow2 (15 - e)).ceil.toNat
    let (m, e) := if m = 65536 then (32768, e + 1) else (m, e)
    let (m, e, c) := if 127 < e then (0xFFFF, (127 : Int), 16)
      else if e < -128 then (0x8000, (-128 : Int), 16) else (m, e, 0)
    lowBits 8 e * 2 ^ 24 + m * 256 + c + wu

/-- The rescale parameters M and S of R111 from the streamed, stationary and output scale words. -/
def rescaleParams (sa sb so : Nat) : Nat × Nat :=
  let a := scaleOf sa; let b := scaleOf sb; let o := scaleOf so
  if a.zero ∨ b.zero ∨ o.zero then (0, 0)
  else
    let r := a.val * b.val / o.val
    let S := 30 - ilog2 r
    if 63 < S then (roundMag .rne (r * pow2 63), 63)
    else if S < 0 then (2 ^ 31 - 1, 0)
    else (roundMag .rne (r * pow2 S), S.toNat)

end Sys2Proof.Machine
end

