-- ==== Sys2Proof/Machine/Crc.lean ====
section
/-! DEFINITION. The CRC-32 of the IEEE 802.3 frame check sequence (R141), and the Galois LFSR of R338. -/

namespace Sys2Proof.Machine

/-- Eight shifts of the reflected CRC-32 register. -/
def crcShift : Nat → Word → Word
  | 0, c => c
  | n + 1, c => crcShift n (if c.getLsbD 0 then (c >>> 1) ^^^ 0xEDB88320#32 else c >>> 1)

def crcStep (c : Word) (b : Byte) : Word := crcShift 8 (c ^^^ b.setWidth 32)

/-- CRC-32 of a byte list (R141). -/
def crc32 (bs : List Byte) : Word := ~~~ (bs.foldl crcStep 0xFFFFFFFF#32)

/-- One step of the injection LFSR with taps x^32 + x^22 + x^2 + x + 1 (R338). -/
def lfsrStep (x : Word) : Word := if x.getLsbD 0 then (x >>> 1) ^^^ 0x80200003#32 else x >>> 1

end Sys2Proof.Machine
end

