-- ==== Sys2Proof/Config.lean ====
section
/-! DEFINITION. What an implementation fixes, and the free values: constants without a body, of which Lean
can prove no value. Each is named in the assumption log. -/

namespace Sys2Proof.Config

/-- Undefined or random bytes: byte `n` of the stream that the plain counter `State.fresh` indexes
(R170, R174, R181, R250, R429; log 8). -/
opaque freeByte : Nat → BitVec 8

/-- Undefined accumulator words and tags after an abandoned write (R170; log 8). -/
opaque freeAcc : Nat → BitVec 108

/-- SHL by 64 or more: the spec states no result (R159; log 11). -/
opaque shlBeyond : BitVec 64 → BitVec 64 → BitVec 64

/-- SHR of a value with bit 63 set, or by 64 or more: the spec states no result (R159; log 11). -/
opaque shrBeyond : BitVec 64 → BitVec 64 → BitVec 64

/-- The binary32 weight of a score that is NaN or infinite, under a reference exponent: R187 states none (R191; log 19). -/
opaque expwNonFinite : BitVec 32 → BitVec 32 → BitVec 32

/-- How many frames of a port's retry buffer its peer had received when the port left UP, by port and next sequence number:
firmware learns it over another route (R312; log 53). -/
opaque peerReceived : Nat → Nat → Nat

/-- The codeword number that a lane repair names, by port and Thyme time: the spec states no choice (R302; log 54). -/
opaque repairCodeword : Nat → Nat → Nat

/-- How hard a module slews towards its parent, by offset and Thyme time: R318 states the bound and the direction (log 55). -/
opaque slewRate : Int → Nat → Nat

/-- Whether the security block authenticates a firmware image; its format is not in the spec (R379; log 12). -/
opaque imageAuthentic : List Byte → Bool

/-- Whether an image's mirror-state format is one that the running version reads (R379; log 12). -/
opaque imageMirrorReadable : BitVec 32 → List Byte → Bool

/-- The version word of a firmware image (R379; log 12). -/
opaque imageVersion : List Byte → BitVec 32

/-- The placer version of a firmware image (R278; log 12). -/
opaque imagePlacer : List Byte → BitVec 32

/-- The SHA-384 digest of a firmware image, of the option store or of the repair record as the management
block measures them (R457; log 12). -/
opaque measurement : Nat → List (BitVec 32) → List Byte

/-- The body of a management answer whose bytes an external specification fixes (R455; log 13). -/
opaque mgmtBody : Nat → List Byte → List Byte

/-- The numeric effecter ID of the power cap; the spec numbers no PDR (R455; log 13). -/
opaque capEffecter : BitVec 16

/-- The attribution weights of a die: its calibration in the option store (R425; log 14). -/
opaque energyWeight : Nat → Nat → Nat

/-- The bit of a capture region's flop image; the scan map is not in the spec (R443; log 15). -/
opaque flopByte : Nat → Nat → BitVec 8

/-- The bits in a die's flop image (log 15). -/
opaque flopBits : Nat → BitVec 32

/-- The placer's layout of persistent state (R255, R279, R296): by group plan CRC-32, the stripe dies and the die, the ranges that
the die holds, as tensor ID, first logical element, count of elements and logical data offset in the die's protected region; the
placer chooses them (log 18). -/
opaque persistRanges : BitVec 32 → List Nat → Nat → List (Nat × Nat × Nat × Nat)

/-- The placer's reserve for a relayout (R261): by group plan CRC-32 and the dies that are left, MEM_PAR_BASE, MEM_PAR_BLOCKS and
MEM_STG_BASE; none where no room is left (log 18). -/
opaque parLayout : BitVec 32 → List Nat → Option (Nat × Nat × Nat)

/-- Where the placer puts a row of a lost die between the loss and the relayout (R261): by group plan CRC-32, lost die and row, a
survivor and a 4 KiB block of its DRAM; none where no room is left (log 49). -/
opaque rescue : BitVec 32 → Nat → Nat → Option (Nat × Nat)

/-- The CRC-32 of the group plan that the placer forms from its inputs (R276); nothing is known of it before the placer has built it
(log 90). -/
opaque groupPlan : List (BitVec 8) → BitVec 32

/-- How many frames the receive ring of an Ethernet port takes (R304, R305 give the rings no size; log 118). -/
opaque ringTakes : Nat → Nat

/-- The shard that six fragments with their numbers give; R386 names no generator of its Reed-Solomon code (log 72). -/
opaque snapDecode : List (Nat × List (BitVec 8)) → List (BitVec 8)

/-- The dual-clock queues on a die's frozen paths: write domain index, read domain index and depth; the spec lists none (R437;
log 15). -/
opaque clockQueues : Nat → List (Nat × Nat × Nat)

end Sys2Proof.Config
end

