-- ==== Sys2Proof/Machine/Regs.lean ====
section
/-! DEFINITION. The registers of the device: the offset of each, its fields, the dies that hold it, its access
types and its reset value, from the register descriptions of the spec (R5-R11 and the "registers" sections of
chapters 3 to 15). Names are the spec's own; the four engines of Table 7.7 share the ENG_ names. -/

namespace Sys2Proof.Machine

/-- A field of a register: its register's offset and its bits [hi:lo]. -/
structure Fld where
  off : Nat
  hi : Nat
  lo : Nat
  deriving DecidableEq, Repr

/-- The window of physical sprig p (chapter 6, "Register windows"). -/
def sprigBase (p : Nat) : Nat := 0x2000000 + 0x10000 * p
/-- B: the registers of array a of physical sprig p (chapter 3, "Array registers"). -/
def arrBase (p a : Nat) : Nat := sprigBase p + 0x400 + 0x100 * a
/-- E: scale-tag entry i (chapter 4). -/
def stagBase (p i : Nat) : Nat := sprigBase p + 0x1000 + 0x20 * i
/-- Qb: queue q (Table 6.13). -/
def queueBase (p q : Nat) : Nat := sprigBase p + 0x2000 + 0x40 * q
/-- Eb: engine e of Table 7.7: 0 attention-stream, 1 normalisation, 2 embedding, 3 layout. -/
def engBase (e : Nat) : Nat := 0x70000 + 0x1000 * e
/-- Lb: port k of a link die (chapter 11). -/
def portBase (k : Nat) : Nat := 0xB0000 + 0x400 * k

def Reg.ARR_RAMP_CFG : Nat := 0x30000
def Fld.ARR_RAMP_CFG_IDLE_HOLD : Fld := ⟨Reg.ARR_RAMP_CFG, 7, 0⟩
def Reg.ARR_WDOG_CFG : Nat := 0x30004
def Fld.ARR_WDOG_CFG_LIMIT : Fld := ⟨Reg.ARR_WDOG_CFG, 15, 0⟩
def Reg.ARR_CTL (p a : Nat) : Nat := arrBase p a + 0x0
def Fld.ARR_CTL_TRAP_EN (p a : Nat) : Fld := ⟨Reg.ARR_CTL p a, 0, 0⟩
def Reg.ARR_STATUS (p a : Nat) : Nat := arrBase p a + 0x4
def Fld.ARR_STATUS_RAMP (p a : Nat) : Fld := ⟨Reg.ARR_STATUS p a, 31, 30⟩
def Fld.ARR_STATUS_COLS_ON (p a : Nat) : Fld := ⟨Reg.ARR_STATUS p a, 29, 24⟩
def Fld.ARR_STATUS_MODE (p a : Nat) : Fld := ⟨Reg.ARR_STATUS p a, 23, 21⟩
def Fld.ARR_STATUS_BUSY (p a : Nat) : Fld := ⟨Reg.ARR_STATUS p a, 20, 20⟩
def Fld.ARR_STATUS_TOKEN (p a : Nat) : Fld := ⟨Reg.ARR_STATUS p a, 19, 19⟩
def Fld.ARR_STATUS_STAGED (p a : Nat) : Fld := ⟨Reg.ARR_STATUS p a, 18, 18⟩
def Fld.ARR_STATUS_LDS_WAIT (p a : Nat) : Fld := ⟨Reg.ARR_STATUS p a, 17, 17⟩
def Reg.ARR_ERR (p a : Nat) : Nat := arrBase p a + 0x8
def Fld.ARR_ERR_WDOG (p a : Nat) : Fld := ⟨Reg.ARR_ERR p a, 1, 1⟩
def Fld.ARR_ERR_ILLEGAL (p a : Nat) : Fld := ⟨Reg.ARR_ERR p a, 0, 0⟩
def Reg.ARR_FXC0 (p a : Nat) : Nat := arrBase p a + 0x10
def Fld.ARR_FXC0_VALID (p a : Nat) : Fld := ⟨Reg.ARR_FXC0 p a, 31, 31⟩
def Fld.ARR_FXC0_MORE (p a : Nat) : Fld := ⟨Reg.ARR_FXC0 p a, 30, 30⟩
def Fld.ARR_FXC0_CAUSE (p a : Nat) : Fld := ⟨Reg.ARR_FXC0 p a, 29, 27⟩
def Fld.ARR_FXC0_SLOT (p a : Nat) : Fld := ⟨Reg.ARR_FXC0 p a, 12, 8⟩
def Fld.ARR_FXC0_ELEM (p a : Nat) : Fld := ⟨Reg.ARR_FXC0 p a, 7, 0⟩
def Reg.ARR_FXC1 (p a : Nat) : Nat := arrBase p a + 0x14
def Fld.ARR_FXC1_LAYER (p a : Nat) : Fld := ⟨Reg.ARR_FXC1 p a, 31, 12⟩
def Fld.ARR_FXC1_OPER (p a : Nat) : Fld := ⟨Reg.ARR_FXC1 p a, 11, 0⟩
def Reg.ARR_FXC2 (p a : Nat) : Nat := arrBase p a + 0x18
def Fld.ARR_FXC2_MBID (p a : Nat) : Fld := ⟨Reg.ARR_FXC2 p a, 15, 0⟩
def Reg.ARR_WAIT_ON (p a : Nat) : Nat := arrBase p a + 0x20
def Reg.ARR_ACC_ERR (p a : Nat) : Nat := arrBase p a + 0x40
def Fld.ARR_ACC_ERR_RANGE (p a : Nat) : Fld := ⟨Reg.ARR_ACC_ERR p a, 2, 2⟩
def Fld.ARR_ACC_ERR_IOVF (p a : Nat) : Fld := ⟨Reg.ARR_ACC_ERR p a, 1, 1⟩
def Fld.ARR_ACC_ERR_TAG (p a : Nat) : Fld := ⟨Reg.ARR_ACC_ERR p a, 0, 0⟩
def Reg.ARR_ACC_TAG (p a n : Nat) : Nat := arrBase p a + 0x80 + 4 * n
def Fld.ARR_ACC_TAG_OPEN (p a n : Nat) : Fld := ⟨Reg.ARR_ACC_TAG p a n, 31, 31⟩
def Fld.ARR_ACC_TAG_MODE (p a n : Nat) : Fld := ⟨Reg.ARR_ACC_TAG p a n, 30, 28⟩
def Fld.ARR_ACC_TAG_WIDE (p a n : Nat) : Fld := ⟨Reg.ARR_ACC_TAG p a n, 27, 27⟩
def Fld.ARR_ACC_TAG_STAG (p a n : Nat) : Fld := ⟨Reg.ARR_ACC_TAG p a n, 26, 21⟩
def Fld.ARR_ACC_TAG_DRAINING (p a n : Nat) : Fld := ⟨Reg.ARR_ACC_TAG p a n, 20, 20⟩
def Fld.ARR_ACC_TAG_BUSY (p a n : Nat) : Fld := ⟨Reg.ARR_ACC_TAG p a n, 19, 19⟩
def Reg.ARR_STAG_SA (p i : Nat) : Nat := stagBase p i + 0x0
def Reg.ARR_STAG_SB (p i : Nat) : Nat := stagBase p i + 0x4
def Reg.ARR_STAG_SO (p i : Nat) : Nat := stagBase p i + 0x8
def Reg.ARR_STAG_MUL (p i : Nat) : Nat := stagBase p i + 0xC
def Reg.ARR_STAG_CTL (p i : Nat) : Nat := stagBase p i + 0x10
def Fld.ARR_STAG_CTL_SHIFT (p i : Nat) : Fld := ⟨Reg.ARR_STAG_CTL p i, 31, 26⟩
def Fld.ARR_STAG_CTL_RMODE (p i : Nat) : Fld := ⟨Reg.ARR_STAG_CTL p i, 25, 24⟩
def Fld.ARR_STAG_CTL_SRK (p i : Nat) : Fld := ⟨Reg.ARR_STAG_CTL p i, 23, 19⟩
def Fld.ARR_STAG_CTL_LANE (p i : Nat) : Fld := ⟨Reg.ARR_STAG_CTL p i, 18, 16⟩
def Reg.ARR_STAG_TID (p i : Nat) : Nat := stagBase p i + 0x14
def Fld.ARR_STAG_TID_TID (p i : Nat) : Fld := ⟨Reg.ARR_STAG_TID p i, 23, 0⟩
def Reg.ARR_STAG_IROW_LO (p i : Nat) : Nat := stagBase p i + 0x18
def Reg.ARR_STAG_IROW_HI (p i : Nat) : Nat := stagBase p i + 0x1C
def Fld.ARR_STAG_IROW_HI_IROW_HI (p i : Nat) : Fld := ⟨Reg.ARR_STAG_IROW_HI p i, 7, 0⟩
def Reg.CHV_CTL : Nat := 0x40000
def Fld.CHV_CTL_EN : Fld := ⟨Reg.CHV_CTL, 0, 0⟩
def Reg.CHV_STATUS : Nat := 0x40004
def Fld.CHV_STATUS_STATE : Fld := ⟨Reg.CHV_STATUS, 31, 30⟩
def Fld.CHV_STATUS_QDEPTH : Fld := ⟨Reg.CHV_STATUS, 15, 8⟩
def Fld.CHV_STATUS_BUSY : Fld := ⟨Reg.CHV_STATUS, 0, 0⟩
def Reg.CHV_ERR : Nat := 0x40008
def Fld.CHV_ERR_DRAIN : Fld := ⟨Reg.CHV_ERR, 3, 3⟩
def Fld.CHV_ERR_BLOCK : Fld := ⟨Reg.CHV_ERR, 1, 1⟩
def Fld.CHV_ERR_BADREQ : Fld := ⟨Reg.CHV_ERR, 0, 0⟩
def Reg.CHV_WAIT_ON : Nat := 0x4000C
def Reg.CHV_SEED_LO : Nat := 0x40010
def Reg.CHV_SEED_HI : Nat := 0x40014
def Reg.SAGE_CTL : Nat := 0x50000
def Fld.SAGE_CTL_EN : Fld := ⟨Reg.SAGE_CTL, 0, 0⟩
def Reg.SAGE_STATUS : Nat := 0x50004
def Fld.SAGE_STATUS_OPEN : Fld := ⟨Reg.SAGE_STATUS, 31, 31⟩
def Fld.SAGE_STATUS_BANK : Fld := ⟨Reg.SAGE_STATUS, 30, 30⟩
def Fld.SAGE_STATUS_REDUCING : Fld := ⟨Reg.SAGE_STATUS, 29, 29⟩
def Fld.SAGE_STATUS_RECS : Fld := ⟨Reg.SAGE_STATUS, 13, 0⟩
def Reg.SAGE_ERR : Nat := 0x50008
def Fld.SAGE_ERR_BADREC : Fld := ⟨Reg.SAGE_ERR, 1, 1⟩
def Fld.SAGE_ERR_SAT : Fld := ⟨Reg.SAGE_ERR, 0, 0⟩
def Reg.SAGE_WAIT_ON : Nat := 0x5000C
def Reg.SAGE_REC_BASE : Nat := 0x50010
def Fld.SAGE_REC_BASE_BASE : Fld := ⟨Reg.SAGE_REC_BASE, 25, 20⟩
def Reg.SAGE_GOV_CTL : Nat := 0x50100
def Fld.SAGE_GOV_CTL_POISON_RAISE : Fld := ⟨Reg.SAGE_GOV_CTL, 1, 1⟩
def Fld.SAGE_GOV_CTL_HOLD : Fld := ⟨Reg.SAGE_GOV_CTL, 0, 0⟩
def Reg.SAGE_THR : Nat := 0x50104
def Fld.SAGE_THR_LOST_SHIFT : Fld := ⟨Reg.SAGE_THR, 21, 16⟩
def Fld.SAGE_THR_CLIP_SHIFT : Fld := ⟨Reg.SAGE_THR, 13, 8⟩
def Fld.SAGE_THR_OVF_MIN : Fld := ⟨Reg.SAGE_THR, 7, 0⟩
def Reg.SAGE_QUIET : Nat := 0x50108
def Fld.SAGE_QUIET_QUIET : Fld := ⟨Reg.SAGE_QUIET, 15, 0⟩
def Reg.SAGE_RATIO_LO : Nat := 0x5010C
def Reg.SAGE_RATIO_HI : Nat := 0x50110
def Reg.SAGE_DIGEST : Nat := 0x50114
def Reg.SAGE_DECIDED : Nat := 0x50118
def Reg.SAGE_PINS : Nat := 0x5011C
def Fld.SAGE_PINS_COUNT : Fld := ⟨Reg.SAGE_PINS, 10, 0⟩
def Reg.SPRG_MAP (n : Nat) : Nat := 0x60000 + 4 * n
def Fld.SPRG_MAP_SUBST_EN (n : Nat) : Fld := ⟨Reg.SPRG_MAP n, 31, 31⟩
def Fld.SPRG_MAP_SUBST (n : Nat) : Fld := ⟨Reg.SPRG_MAP n, 27, 24⟩
def Fld.SPRG_MAP_FAILED (n : Nat) : Fld := ⟨Reg.SPRG_MAP n, 16, 0⟩
def Reg.SPRG_DRAIN_TMO : Nat := 0x60040
def Fld.SPRG_DRAIN_TMO_US : Fld := ⟨Reg.SPRG_DRAIN_TMO, 15, 0⟩
def Reg.SPRG_CTL (p : Nat) : Nat := sprigBase p + 0x0
def Fld.SPRG_CTL_EN (p : Nat) : Fld := ⟨Reg.SPRG_CTL p, 0, 0⟩
def Reg.SPRG_STATUS (p : Nat) : Nat := sprigBase p + 0x4
def Fld.SPRG_STATUS_STATE (p : Nat) : Fld := ⟨Reg.SPRG_STATUS p, 31, 30⟩
def Fld.SPRG_STATUS_LOGICAL (p : Nat) : Fld := ⟨Reg.SPRG_STATUS p, 27, 20⟩
def Fld.SPRG_STATUS_MAPPED (p : Nat) : Fld := ⟨Reg.SPRG_STATUS p, 19, 19⟩
def Fld.SPRG_STATUS_TRAP (p : Nat) : Fld := ⟨Reg.SPRG_STATUS p, 18, 18⟩
def Fld.SPRG_STATUS_LASTQ (p : Nat) : Fld := ⟨Reg.SPRG_STATUS p, 5, 0⟩
def Reg.SPRG_ERR (p : Nat) : Nat := sprigBase p + 0x8
def Fld.SPRG_ERR_DRAIN_TMO (p : Nat) : Fld := ⟨Reg.SPRG_ERR p, 2, 2⟩
def Fld.SPRG_ERR_EPOCH (p : Nat) : Fld := ⟨Reg.SPRG_ERR p, 1, 1⟩
def Fld.SPRG_ERR_ILLEGAL (p : Nat) : Fld := ⟨Reg.SPRG_ERR p, 0, 0⟩
def Reg.SPRG_FPSR (p : Nat) : Nat := sprigBase p + 0xC
def Fld.SPRG_FPSR_IV (p : Nat) : Fld := ⟨Reg.SPRG_FPSR p, 4, 4⟩
def Fld.SPRG_FPSR_DZ (p : Nat) : Fld := ⟨Reg.SPRG_FPSR p, 3, 3⟩
def Fld.SPRG_FPSR_OF (p : Nat) : Fld := ⟨Reg.SPRG_FPSR p, 2, 2⟩
def Fld.SPRG_FPSR_UF (p : Nat) : Fld := ⟨Reg.SPRG_FPSR p, 1, 1⟩
def Fld.SPRG_FPSR_NX (p : Nat) : Fld := ⟨Reg.SPRG_FPSR p, 0, 0⟩
def Reg.SPRG_SEED_LO (p : Nat) : Nat := sprigBase p + 0x10
def Reg.SPRG_SEED_HI (p : Nat) : Nat := sprigBase p + 0x14
def Reg.SPRG_STEP (p : Nat) : Nat := sprigBase p + 0x18
def Reg.SPRG_EPOCH (p : Nat) : Nat := sprigBase p + 0x1C
def Fld.SPRG_EPOCH_EPOCH (p : Nat) : Fld := ⟨Reg.SPRG_EPOCH p, 15, 0⟩
def Reg.SPRG_TICK (p : Nat) : Nat := sprigBase p + 0x20
def Fld.SPRG_TICK_TICK (p : Nat) : Fld := ⟨Reg.SPRG_TICK p, 23, 0⟩
def Reg.QUE_CTL (p q : Nat) : Nat := queueBase p q + 0x0
def Fld.QUE_CTL_NOTIFY (p q : Nat) : Fld := ⟨Reg.QUE_CTL p q, 1, 1⟩
def Fld.QUE_CTL_EN (p q : Nat) : Fld := ⟨Reg.QUE_CTL p q, 0, 0⟩
def Reg.QUE_STATUS (p q : Nat) : Nat := queueBase p q + 0x4
def Fld.QUE_STATUS_STATE (p q : Nat) : Fld := ⟨Reg.QUE_STATUS p q, 31, 30⟩
def Fld.QUE_STATUS_FULL (p q : Nat) : Fld := ⟨Reg.QUE_STATUS p q, 29, 29⟩
def Fld.QUE_STATUS_EMPTY (p q : Nat) : Fld := ⟨Reg.QUE_STATUS p q, 28, 28⟩
def Fld.QUE_STATUS_DEPTH (p q : Nat) : Fld := ⟨Reg.QUE_STATUS p q, 22, 16⟩
def Fld.QUE_STATUS_HEAD (p q : Nat) : Fld := ⟨Reg.QUE_STATUS p q, 13, 8⟩
def Fld.QUE_STATUS_TAIL (p q : Nat) : Fld := ⟨Reg.QUE_STATUS p q, 5, 0⟩
def Reg.QUE_HWM (p q : Nat) : Nat := queueBase p q + 0x8
def Fld.QUE_HWM_HWM (p q : Nat) : Fld := ⟨Reg.QUE_HWM p q, 6, 0⟩
def Reg.QUE_WAIT_ON (p q : Nat) : Nat := queueBase p q + 0xC
def Reg.QUE_TICKBASE (p q : Nat) : Nat := queueBase p q + 0x28
def Fld.QUE_TICKBASE_BASE (p q : Nat) : Fld := ⟨Reg.QUE_TICKBASE p q, 23, 0⟩
def Reg.ENG_CTL (e : Nat) : Nat := engBase e + 0x0
def Fld.ENG_CTL_EN (e : Nat) : Fld := ⟨Reg.ENG_CTL e, 0, 0⟩
def Reg.ENG_STATUS (e : Nat) : Nat := engBase e + 0x4
def Fld.ENG_STATUS_STATE (e : Nat) : Fld := ⟨Reg.ENG_STATUS e, 31, 30⟩
def Fld.ENG_STATUS_QDEPTH (e : Nat) : Fld := ⟨Reg.ENG_STATUS e, 15, 8⟩
def Fld.ENG_STATUS_EMU (e : Nat) : Fld := ⟨Reg.ENG_STATUS e, 1, 1⟩
def Fld.ENG_STATUS_BUSY (e : Nat) : Fld := ⟨Reg.ENG_STATUS e, 0, 0⟩
def Reg.ENG_ERR (e : Nat) : Nat := engBase e + 0x8
def Fld.ENG_ERR_SCALE (e : Nat) : Fld := ⟨Reg.ENG_ERR e, 4, 4⟩
def Fld.ENG_ERR_DRAIN (e : Nat) : Fld := ⟨Reg.ENG_ERR e, 3, 3⟩
def Fld.ENG_ERR_INDEX (e : Nat) : Fld := ⟨Reg.ENG_ERR e, 2, 2⟩
def Fld.ENG_ERR_ORDER (e : Nat) : Fld := ⟨Reg.ENG_ERR e, 1, 1⟩
def Fld.ENG_ERR_BADREQ (e : Nat) : Fld := ⟨Reg.ENG_ERR e, 0, 0⟩
def Reg.ENG_WAIT_ON (e : Nat) : Nat := engBase e + 0xC
def Reg.UPD_CTL : Nat := 0x80000
def Fld.UPD_CTL_EN : Fld := ⟨Reg.UPD_CTL, 0, 0⟩
def Reg.UPD_STATUS : Nat := 0x80004
def Fld.UPD_STATUS_STATE : Fld := ⟨Reg.UPD_STATUS, 31, 30⟩
def Fld.UPD_STATUS_QDEPTH : Fld := ⟨Reg.UPD_STATUS, 15, 8⟩
def Fld.UPD_STATUS_COMMIT : Fld := ⟨Reg.UPD_STATUS, 2, 2⟩
def Fld.UPD_STATUS_BUSY : Fld := ⟨Reg.UPD_STATUS, 0, 0⟩
def Reg.UPD_ERR : Nat := 0x80008
def Fld.UPD_ERR_PARITY : Fld := ⟨Reg.UPD_ERR, 4, 4⟩
def Fld.UPD_ERR_DRAIN : Fld := ⟨Reg.UPD_ERR, 3, 3⟩
def Fld.UPD_ERR_LRSTEP : Fld := ⟨Reg.UPD_ERR, 2, 2⟩
def Fld.UPD_ERR_NONFINITE : Fld := ⟨Reg.UPD_ERR, 1, 1⟩
def Fld.UPD_ERR_BADREQ : Fld := ⟨Reg.UPD_ERR, 0, 0⟩
def Reg.UPD_WAIT_ON : Nat := 0x8000C
def Reg.UPD_LR : Nat := 0x80010
def Reg.UPD_LR_STEP : Nat := 0x80014
def Reg.UPD_FRZ_BASE : Nat := 0x80018
def Fld.UPD_FRZ_BASE_BASE : Fld := ⟨Reg.UPD_FRZ_BASE, 25, 10⟩
def Reg.UPD_FRZ_COUNT : Nat := 0x8001C
def Fld.UPD_FRZ_COUNT_COUNT : Fld := ⟨Reg.UPD_FRZ_COUNT, 6, 0⟩
def Reg.UPD_COMMIT_STEP : Nat := 0x80020
def Reg.UPD_COMMIT_LAYER : Nat := 0x80024
def Fld.UPD_COMMIT_LAYER_LAYER : Fld := ⟨Reg.UPD_COMMIT_LAYER, 19, 0⟩
def Reg.MEM_STATUS : Nat := 0x90000
def Fld.MEM_STATUS_READY : Fld := ⟨Reg.MEM_STATUS, 31, 31⟩
def Fld.MEM_STATUS_SREF : Fld := ⟨Reg.MEM_STATUS, 30, 30⟩
def Fld.MEM_STATUS_HOT : Fld := ⟨Reg.MEM_STATUS, 29, 29⟩
def Fld.MEM_STATUS_REGEN : Fld := ⟨Reg.MEM_STATUS, 28, 28⟩
def Reg.MEM_ERR : Nat := 0x90004
def Fld.MEM_ERR_REBUILD_FAIL : Fld := ⟨Reg.MEM_ERR, 3, 3⟩
def Fld.MEM_ERR_STGMIX : Fld := ⟨Reg.MEM_ERR, 2, 2⟩
def Fld.MEM_ERR_PARWRITE : Fld := ⟨Reg.MEM_ERR, 1, 1⟩
def Fld.MEM_ERR_UNMAPPED : Fld := ⟨Reg.MEM_ERR, 0, 0⟩
def Reg.MEM_PAR_BASE : Nat := 0x90008
def Fld.MEM_PAR_BASE_BASE : Fld := ⟨Reg.MEM_PAR_BASE, 9, 0⟩
def Reg.MEM_PAR_BLOCKS : Nat := 0x9000C
def Fld.MEM_PAR_BLOCKS_BLOCKS : Fld := ⟨Reg.MEM_PAR_BLOCKS, 20, 0⟩
def Reg.MEM_STG_BASE : Nat := 0x90010
def Fld.MEM_STG_BASE_BASE : Fld := ⟨Reg.MEM_STG_BASE, 9, 0⟩
def Reg.MEM_PAR_MASK : Nat := 0x90020
def Fld.MEM_PAR_MASK_MASK : Fld := ⟨Reg.MEM_PAR_MASK, 15, 0⟩
def Reg.MEM_SCRUB_CFG : Nat := 0x90014
def Fld.MEM_SCRUB_CFG_EN : Fld := ⟨Reg.MEM_SCRUB_CFG, 31, 31⟩
def Fld.MEM_SCRUB_CFG_SRAM_PERIOD : Fld := ⟨Reg.MEM_SCRUB_CFG, 23, 16⟩
def Fld.MEM_SCRUB_CFG_PERIOD : Fld := ⟨Reg.MEM_SCRUB_CFG, 15, 0⟩
def Reg.MEM_SCRUB_POS : Nat := 0x90018
def Fld.MEM_SCRUB_POS_POS : Fld := ⟨Reg.MEM_SCRUB_POS, 23, 0⟩
def Reg.MEM_AGE_CFG : Nat := 0x9001C
def Fld.MEM_AGE_CFG_BRIDGE : Fld := ⟨Reg.MEM_AGE_CFG, 23, 16⟩
def Fld.MEM_AGE_CFG_SRAM : Fld := ⟨Reg.MEM_AGE_CFG, 15, 8⟩
def Fld.MEM_AGE_CFG_DRAM : Fld := ⟨Reg.MEM_AGE_CFG, 7, 0⟩
def Reg.MEM_AP_SLOT (n : Nat) : Nat := 0x90100 + 4 * n
def Fld.MEM_AP_SLOT_EN (n : Nat) : Fld := ⟨Reg.MEM_AP_SLOT n, 31, 31⟩
def Fld.MEM_AP_SLOT_RDONLY (n : Nat) : Fld := ⟨Reg.MEM_AP_SLOT n, 30, 30⟩
def Fld.MEM_AP_SLOT_BASE (n : Nat) : Fld := ⟨Reg.MEM_AP_SLOT n, 17, 0⟩
def Reg.ECC_CTL : Nat := 0xA0000
def Fld.ECC_CTL_SRAM_MODE : Fld := ⟨Reg.ECC_CTL, 1, 1⟩
def Fld.ECC_CTL_DRAM_MODE : Fld := ⟨Reg.ECC_CTL, 0, 0⟩
def Reg.ECC_ERR : Nat := 0xA0004
def Fld.ECC_ERR_POISONED : Fld := ⟨Reg.ECC_ERR, 3, 3⟩
def Fld.ECC_ERR_REBUILT : Fld := ⟨Reg.ECC_ERR, 2, 2⟩
def Fld.ECC_ERR_UE : Fld := ⟨Reg.ECC_ERR, 1, 1⟩
def Fld.ECC_ERR_CE : Fld := ⟨Reg.ECC_ERR, 0, 0⟩
def Reg.ECC_LOG0 : Nat := 0xA0008
def Fld.ECC_LOG0_VALID : Fld := ⟨Reg.ECC_LOG0, 31, 31⟩
def Fld.ECC_LOG0_MORE : Fld := ⟨Reg.ECC_LOG0, 30, 30⟩
def Fld.ECC_LOG0_MEM : Fld := ⟨Reg.ECC_LOG0, 29, 28⟩
def Fld.ECC_LOG0_SRC : Fld := ⟨Reg.ECC_LOG0, 27, 26⟩
def Fld.ECC_LOG0_OUTCOME : Fld := ⟨Reg.ECC_LOG0, 25, 24⟩
def Reg.ECC_LOG1 : Nat := 0xA000C
def Reg.ECC_LOG2 : Nat := 0xA0010
def Fld.ECC_LOG2_SPACE : Fld := ⟨Reg.ECC_LOG2, 14, 12⟩
def Fld.ECC_LOG2_OFFSET_HI : Fld := ⟨Reg.ECC_LOG2, 11, 0⟩
def Reg.GLB_TICK_CFG : Nat := 0x800
def Fld.GLB_TICK_CFG_SLACK : Fld := ⟨Reg.GLB_TICK_CFG, 21, 16⟩
def Fld.GLB_TICK_CFG_TICK_LEN : Fld := ⟨Reg.GLB_TICK_CFG, 12, 0⟩
def Reg.GLB_BARRIER_TMO : Nat := 0x804
def Fld.GLB_BARRIER_TMO_GLEAD : Fld := ⟨Reg.GLB_BARRIER_TMO, 31, 16⟩
def Fld.GLB_BARRIER_TMO_TICKS : Fld := ⟨Reg.GLB_BARRIER_TMO, 7, 0⟩
def Reg.GLB_SCHED_STATUS : Nat := 0x808
def Fld.GLB_SCHED_STATUS_PHASE : Fld := ⟨Reg.GLB_SCHED_STATUS, 31, 30⟩
def Fld.GLB_SCHED_STATUS_HELD : Fld := ⟨Reg.GLB_SCHED_STATUS, 29, 29⟩
def Fld.GLB_SCHED_STATUS_VARWAIT : Fld := ⟨Reg.GLB_SCHED_STATUS, 28, 28⟩
def Fld.GLB_SCHED_STATUS_ENTRY : Fld := ⟨Reg.GLB_SCHED_STATUS, 27, 22⟩
def Reg.GLB_SCHED_VAR : Nat := 0x80C
def Reg.GLB_BARRIER_WAIT : Nat := 0x810
def Fld.GLB_BARRIER_WAIT_VALID : Fld := ⟨Reg.GLB_BARRIER_WAIT, 31, 31⟩
def Fld.GLB_BARRIER_WAIT_ID : Fld := ⟨Reg.GLB_BARRIER_WAIT, 27, 0⟩
def Reg.LNK_PORT_CTL (k : Nat) : Nat := portBase k + 0x0
def Fld.LNK_PORT_CTL_EN (k : Nat) : Fld := ⟨Reg.LNK_PORT_CTL k, 31, 31⟩
def Fld.LNK_PORT_CTL_GEN (k : Nat) : Fld := ⟨Reg.LNK_PORT_CTL k, 30, 29⟩
def Fld.LNK_PORT_CTL_RETRAIN (k : Nat) : Fld := ⟨Reg.LNK_PORT_CTL k, 28, 28⟩
def Reg.LNK_PORT_STATUS (k : Nat) : Nat := portBase k + 0x4
def Fld.LNK_PORT_STATUS_STATE (k : Nat) : Fld := ⟨Reg.LNK_PORT_STATUS k, 31, 29⟩
def Fld.LNK_PORT_STATUS_GEN (k : Nat) : Fld := ⟨Reg.LNK_PORT_STATUS k, 28, 27⟩
def Fld.LNK_PORT_STATUS_SPARE_USED (k : Nat) : Fld := ⟨Reg.LNK_PORT_STATUS k, 26, 26⟩
def Fld.LNK_PORT_STATUS_SPARE_FOR (k : Nat) : Fld := ⟨Reg.LNK_PORT_STATUS k, 25, 22⟩
def Fld.LNK_PORT_STATUS_PEER_MOD (k : Nat) : Fld := ⟨Reg.LNK_PORT_STATUS k, 21, 12⟩
def Fld.LNK_PORT_STATUS_PEER_PORT (k : Nat) : Fld := ⟨Reg.LNK_PORT_STATUS k, 11, 8⟩
def Fld.LNK_PORT_STATUS_TMB_PARENT (k : Nat) : Fld := ⟨Reg.LNK_PORT_STATUS k, 0, 0⟩
def Reg.LNK_LANE_STATUS (k : Nat) : Nat := portBase k + 0x8
def Fld.LNK_LANE_STATUS_WEAK (k : Nat) : Fld := ⟨Reg.LNK_LANE_STATUS k, 24, 16⟩
def Fld.LNK_LANE_STATUS_FAILED (k : Nat) : Fld := ⟨Reg.LNK_LANE_STATUS k, 8, 0⟩
def Reg.LNK_ERR (k : Nat) : Nat := portBase k + 0xC
def Fld.LNK_ERR_DENIED (k : Nat) : Fld := ⟨Reg.LNK_ERR k, 5, 5⟩
def Fld.LNK_ERR_WINDOW (k : Nat) : Fld := ⟨Reg.LNK_ERR k, 4, 4⟩
def Fld.LNK_ERR_RETRAIN_FAIL (k : Nat) : Fld := ⟨Reg.LNK_ERR k, 3, 3⟩
def Fld.LNK_ERR_ACK_TMO (k : Nat) : Fld := ⟨Reg.LNK_ERR k, 2, 2⟩
def Fld.LNK_ERR_UNCORR (k : Nat) : Fld := ⟨Reg.LNK_ERR k, 1, 1⟩
def Fld.LNK_ERR_CRC (k : Nat) : Fld := ⟨Reg.LNK_ERR k, 0, 0⟩
def Reg.LNK_RETRY_CFG (k : Nat) : Nat := portBase k + 0x10
def Fld.LNK_RETRY_CFG_RETRAIN_MS (k : Nat) : Fld := ⟨Reg.LNK_RETRY_CFG k, 31, 24⟩
def Fld.LNK_RETRY_CFG_MAXREP (k : Nat) : Fld := ⟨Reg.LNK_RETRY_CFG k, 19, 16⟩
def Fld.LNK_RETRY_CFG_ACK_TMO (k : Nat) : Fld := ⟨Reg.LNK_RETRY_CFG k, 15, 0⟩
def Reg.LNK_TMB_CFG (k : Nat) : Nat := portBase k + 0x14
def Fld.LNK_TMB_CFG_PERIOD (k : Nat) : Fld := ⟨Reg.LNK_TMB_CFG k, 15, 0⟩
def Reg.LNK_TMB_OFFSET (k : Nat) : Nat := portBase k + 0x18
def Reg.LNK_TMB_DELAY (k : Nat) : Nat := portBase k + 0x1C
def Reg.LNK_INJ_CTL (k : Nat) : Nat := portBase k + 0x20
def Fld.LNK_INJ_CTL_EN (k : Nat) : Fld := ⟨Reg.LNK_INJ_CTL k, 31, 31⟩
def Fld.LNK_INJ_CTL_KIND (k : Nat) : Fld := ⟨Reg.LNK_INJ_CTL k, 30, 28⟩
def Fld.LNK_INJ_CTL_WINDOW (k : Nat) : Fld := ⟨Reg.LNK_INJ_CTL k, 27, 24⟩
def Fld.LNK_INJ_CTL_RATE (k : Nat) : Fld := ⟨Reg.LNK_INJ_CTL k, 15, 0⟩
def Reg.LNK_INJ_MASK (k : Nat) : Nat := portBase k + 0x24
def Reg.LNK_INJ_POS (k : Nat) : Nat := portBase k + 0x28
def Fld.LNK_INJ_POS_POS (k : Nat) : Fld := ⟨Reg.LNK_INJ_POS k, 15, 0⟩
def Reg.LNK_INJ_SEED (k : Nat) : Nat := portBase k + 0x2C
def Reg.LNK_MAC_LO (k : Nat) : Nat := portBase k + 0x30
def Reg.LNK_MAC_HI (k : Nat) : Nat := portBase k + 0x34
def Fld.LNK_MAC_HI_PROMISC (k : Nat) : Fld := ⟨Reg.LNK_MAC_HI k, 31, 31⟩
def Fld.LNK_MAC_HI_MAC_HI (k : Nat) : Fld := ⟨Reg.LNK_MAC_HI k, 15, 0⟩
def Reg.FNL_CTL : Nat := 0xC0000
def Fld.FNL_CTL_EN : Fld := ⟨Reg.FNL_CTL, 0, 0⟩
def Reg.FNL_STATUS : Nat := 0xC0004
def Fld.FNL_STATUS_STATE : Fld := ⟨Reg.FNL_STATUS, 31, 30⟩
def Fld.FNL_STATUS_FENCE : Fld := ⟨Reg.FNL_STATUS, 29, 29⟩
def Fld.FNL_STATUS_QDEPTH : Fld := ⟨Reg.FNL_STATUS, 15, 8⟩
def Fld.FNL_STATUS_BUSY : Fld := ⟨Reg.FNL_STATUS, 0, 0⟩
def Reg.FNL_ERR : Nat := 0xC0008
def Fld.FNL_ERR_DRAIN : Fld := ⟨Reg.FNL_ERR, 5, 5⟩
def Fld.FNL_ERR_PERMUTE : Fld := ⟨Reg.FNL_ERR, 4, 4⟩
def Fld.FNL_ERR_FENCE_TMO : Fld := ⟨Reg.FNL_ERR, 3, 3⟩
def Fld.FNL_ERR_EPOCH : Fld := ⟨Reg.FNL_ERR, 2, 2⟩
def Fld.FNL_ERR_PARTIAL : Fld := ⟨Reg.FNL_ERR, 1, 1⟩
def Fld.FNL_ERR_BADREQ : Fld := ⟨Reg.FNL_ERR, 0, 0⟩
def Reg.FNL_WAIT_ON : Nat := 0xC000C
def Reg.FNL_EPOCH : Nat := 0xC0010
def Fld.FNL_EPOCH_EPOCH : Fld := ⟨Reg.FNL_EPOCH, 15, 0⟩
def Reg.FNL_FENCE_TMO : Nat := 0xC0014
def Fld.FNL_FENCE_TMO_MS : Fld := ⟨Reg.FNL_FENCE_TMO, 15, 0⟩
def Reg.FNL_AON : Nat := 0xC0018
def Fld.FNL_AON_POISONED : Fld := ⟨Reg.FNL_AON, 31, 31⟩
def Fld.FNL_AON_RID : Fld := ⟨Reg.FNL_AON, 27, 0⟩
def Reg.MBX_DATA (c n : Nat) : Nat := 0xD0000 + 0x100 * c + 4 * n
def Reg.MBX_GO (c : Nat) : Nat := 0xD0040 + 0x100 * c
def Fld.MBX_GO_GO (c : Nat) : Fld := ⟨Reg.MBX_GO c, 31, 31⟩
def Fld.MBX_GO_SEQ (c : Nat) : Fld := ⟨Reg.MBX_GO c, 15, 0⟩
def Reg.MBX_ACK (c : Nat) : Nat := 0xD0044 + 0x100 * c
def Fld.MBX_ACK_DONE (c : Nat) : Fld := ⟨Reg.MBX_ACK c, 31, 31⟩
def Fld.MBX_ACK_ACCEPTED (c : Nat) : Fld := ⟨Reg.MBX_ACK c, 30, 30⟩
def Fld.MBX_ACK_CODE (c : Nat) : Fld := ⟨Reg.MBX_ACK c, 23, 16⟩
def Fld.MBX_ACK_ECHO (c : Nat) : Fld := ⟨Reg.MBX_ACK c, 15, 0⟩
def Reg.MBX_STAT (c : Nat) : Nat := 0xD0048 + 0x100 * c
def Fld.MBX_STAT_GEN (c : Nat) : Fld := ⟨Reg.MBX_STAT c, 31, 30⟩
def Fld.MBX_STAT_OVR (c : Nat) : Fld := ⟨Reg.MBX_STAT c, 29, 29⟩
def Fld.MBX_STAT_STATE (c : Nat) : Fld := ⟨Reg.MBX_STAT c, 2, 0⟩
def Reg.MBX_CTL (c : Nat) : Nat := 0xD004C + 0x100 * c
def Fld.MBX_CTL_GEN (c : Nat) : Fld := ⟨Reg.MBX_CTL c, 31, 30⟩
def Fld.MBX_CTL_CLR (c : Nat) : Fld := ⟨Reg.MBX_CTL c, 2, 2⟩
def Fld.MBX_CTL_IE_DONE (c : Nat) : Fld := ⟨Reg.MBX_CTL c, 1, 1⟩
def Fld.MBX_CTL_IE_FULL (c : Nat) : Fld := ⟨Reg.MBX_CTL c, 0, 0⟩
/-- The registers of internal channel c of a compute or link die: the generation 2 shape (R361). -/
def Reg.IMB_GO (c : Nat) : Nat := 0xE0040 + 0x100 * c
def Fld.IMB_GO_SEQ (c : Nat) : Fld := ⟨Reg.IMB_GO c, 15, 0⟩
def Reg.IMB_STAT (c : Nat) : Nat := 0xE0048 + 0x100 * c
def Fld.IMB_STAT_OVR (c : Nat) : Fld := ⟨Reg.IMB_STAT c, 29, 29⟩
def Fld.IMB_STAT_STATE (c : Nat) : Fld := ⟨Reg.IMB_STAT c, 2, 0⟩
def Reg.MBX_RESP (c n : Nat) : Nat := 0xD0080 + 0x100 * c + 4 * n
def Reg.GLB_ID : Nat := 0x0
def Fld.GLB_ID_PART : Fld := ⟨Reg.GLB_ID, 31, 16⟩
def Fld.GLB_ID_MEM : Fld := ⟨Reg.GLB_ID, 15, 12⟩
def Fld.GLB_ID_LINKS : Fld := ⟨Reg.GLB_ID, 11, 8⟩
def Fld.GLB_ID_STEPPING : Fld := ⟨Reg.GLB_ID, 7, 0⟩
def Reg.GLB_FUNC_READY : Nat := 0x4
def Fld.GLB_FUNC_READY_CDIE : Fld := ⟨Reg.GLB_FUNC_READY, 31, 16⟩
def Fld.GLB_FUNC_READY_LDIE : Fld := ⟨Reg.GLB_FUNC_READY, 9, 8⟩
def Fld.GLB_FUNC_READY_TWIN : Fld := ⟨Reg.GLB_FUNC_READY, 7, 7⟩
def Fld.GLB_FUNC_READY_THYME : Fld := ⟨Reg.GLB_FUNC_READY, 6, 6⟩
def Fld.GLB_FUNC_READY_PLACER : Fld := ⟨Reg.GLB_FUNC_READY, 5, 5⟩
def Fld.GLB_FUNC_READY_MBX : Fld := ⟨Reg.GLB_FUNC_READY, 4, 4⟩
def Fld.GLB_FUNC_READY_HL1 : Fld := ⟨Reg.GLB_FUNC_READY, 3, 3⟩
def Fld.GLB_FUNC_READY_HL0 : Fld := ⟨Reg.GLB_FUNC_READY, 2, 2⟩
def Fld.GLB_FUNC_READY_SEC : Fld := ⟨Reg.GLB_FUNC_READY, 1, 1⟩
def Fld.GLB_FUNC_READY_MGT : Fld := ⟨Reg.GLB_FUNC_READY, 0, 0⟩
def Reg.GLB_FUNC_READY_HI : Nat := 0x8
def Fld.GLB_FUNC_READY_HI_STACK : Fld := ⟨Reg.GLB_FUNC_READY_HI, 15, 0⟩
def Reg.GLB_ROLE : Nat := 0xC
def Fld.GLB_ROLE_ACTIVE : Fld := ⟨Reg.GLB_ROLE, 1, 1⟩
def Fld.GLB_ROLE_LINK : Fld := ⟨Reg.GLB_ROLE, 0, 0⟩
def Reg.GLB_BAR0_WIN : Nat := 0x10
def Fld.GLB_BAR0_WIN_DIE : Fld := ⟨Reg.GLB_BAR0_WIN, 12, 8⟩
def Fld.GLB_BAR0_WIN_BASE : Fld := ⟨Reg.GLB_BAR0_WIN, 3, 0⟩
def Reg.GLB_ERR : Nat := 0x14
def Fld.GLB_ERR_POISON : Fld := ⟨Reg.GLB_ERR, 1, 1⟩
def Fld.GLB_ERR_DENIED : Fld := ⟨Reg.GLB_ERR, 0, 0⟩
def Reg.JRN_CTL : Nat := 0xF0000
def Fld.JRN_CTL_EN : Fld := ⟨Reg.JRN_CTL, 0, 0⟩
def Reg.JRN_STATUS : Nat := 0xF0004
def Fld.JRN_STATUS_OPEN : Fld := ⟨Reg.JRN_STATUS, 31, 31⟩
def Fld.JRN_STATUS_REPLAY : Fld := ⟨Reg.JRN_STATUS, 30, 30⟩
def Fld.JRN_STATUS_STOPPED : Fld := ⟨Reg.JRN_STATUS, 29, 29⟩
def Reg.JRN_ERR : Nat := 0xF0008
def Fld.JRN_ERR_MISMATCH : Fld := ⟨Reg.JRN_ERR, 2, 2⟩
def Fld.JRN_ERR_FAULT_OVF : Fld := ⟨Reg.JRN_ERR, 1, 1⟩
def Fld.JRN_ERR_COPY : Fld := ⟨Reg.JRN_ERR, 0, 0⟩
def Reg.JRN_LAST_STEP : Nat := 0xF000C
def Reg.JRN_FIRST_STEP : Nat := 0xF0010
def Reg.JRN_REPLAY_STEP : Nat := 0xF0014
def Reg.GLB_COMPAT_CFG : Nat := 0x18
def Fld.GLB_COMPAT_CFG_SNAP_STEPS : Fld := ⟨Reg.GLB_COMPAT_CFG, 7, 0⟩
def Reg.GLB_STEP_TMO : Nat := 0x1C
def Fld.GLB_STEP_TMO_S : Fld := ⟨Reg.GLB_STEP_TMO, 15, 0⟩
def Reg.RST_BLK_SRST : Nat := 0x100000
def Fld.RST_BLK_SRST_SRST : Fld := ⟨Reg.RST_BLK_SRST, 24, 0⟩
def Reg.RST_STATUS : Nat := 0x100004
def Fld.RST_STATUS_OPT_DONE : Fld := ⟨Reg.RST_STATUS, 31, 31⟩
def Fld.RST_STATUS_TRIM_DONE : Fld := ⟨Reg.RST_STATUS, 30, 30⟩
def Fld.RST_STATUS_DENIED : Fld := ⟨Reg.RST_STATUS, 29, 29⟩
def Fld.RST_STATUS_LOAD_RESTARTS : Fld := ⟨Reg.RST_STATUS, 23, 16⟩
def Fld.RST_STATUS_HOLD : Fld := ⟨Reg.RST_STATUS, 7, 0⟩
def Reg.RST_CAUSE : Nat := 0x100008
def Fld.RST_CAUSE_CAUSE : Fld := ⟨Reg.RST_CAUSE, 7, 0⟩
def Reg.RST_WARM : Nat := 0x10000C
def Fld.RST_WARM_GO : Fld := ⟨Reg.RST_WARM, 31, 31⟩
def Fld.RST_WARM_KEEP : Fld := ⟨Reg.RST_WARM, 0, 0⟩
def Reg.CLK_STATUS : Nat := 0x110000
def Fld.CLK_STATUS_FREQ : Fld := ⟨Reg.CLK_STATUS, 31, 20⟩
def Fld.CLK_STATUS_LOCK : Fld := ⟨Reg.CLK_STATUS, 19, 16⟩
def Fld.CLK_STATUS_STRETCH : Fld := ⟨Reg.CLK_STATUS, 15, 15⟩
def Fld.CLK_STATUS_FSTALL : Fld := ⟨Reg.CLK_STATUS, 14, 14⟩
def Reg.CLK_STRETCH_CFG : Nat := 0x110004
def Fld.CLK_STRETCH_CFG_EN : Fld := ⟨Reg.CLK_STRETCH_CFG, 31, 31⟩
def Fld.CLK_STRETCH_CFG_MAXCYC : Fld := ⟨Reg.CLK_STRETCH_CFG, 7, 4⟩
def Fld.CLK_STRETCH_CFG_DEPTH : Fld := ⟨Reg.CLK_STRETCH_CFG, 1, 0⟩
def Reg.TMB_NOW_LO : Nat := 0x120000
def Reg.TMB_NOW_HI : Nat := 0x120004
def Fld.TMB_NOW_HI_UNLOCKED : Fld := ⟨Reg.TMB_NOW_HI, 31, 31⟩
def Fld.TMB_NOW_HI_NS_HI : Fld := ⟨Reg.TMB_NOW_HI, 29, 0⟩
def Reg.TMB_STATUS : Nat := 0x120008
def Fld.TMB_STATUS_LOCKED : Fld := ⟨Reg.TMB_STATUS, 31, 31⟩
def Fld.TMB_STATUS_MASTER : Fld := ⟨Reg.TMB_STATUS, 30, 30⟩
def Fld.TMB_STATUS_GROUP_LOCK : Fld := ⟨Reg.TMB_STATUS, 29, 29⟩
def Fld.TMB_STATUS_REFSEL : Fld := ⟨Reg.TMB_STATUS, 28, 28⟩
def Fld.TMB_STATUS_HOLDOVER : Fld := ⟨Reg.TMB_STATUS, 27, 27⟩
def Fld.TMB_STATUS_SLEW : Fld := ⟨Reg.TMB_STATUS, 15, 0⟩
def Reg.PWR_CAP : Nat := 0x130000
def Fld.PWR_CAP_WATTS : Fld := ⟨Reg.PWR_CAP, 12, 0⟩
def Reg.PWR_FREQ : Nat := 0x130004
def Fld.PWR_FREQ_FMAX : Fld := ⟨Reg.PWR_FREQ, 15, 8⟩
def Fld.PWR_FREQ_FMIN : Fld := ⟨Reg.PWR_FREQ, 7, 0⟩
def Reg.PWR_LOOP_CFG : Nat := 0x130008
def Fld.PWR_LOOP_CFG_UPMAX : Fld := ⟨Reg.PWR_LOOP_CFG, 31, 24⟩
def Fld.PWR_LOOP_CFG_HEADROOM : Fld := ⟨Reg.PWR_LOOP_CFG, 23, 16⟩
def Fld.PWR_LOOP_CFG_GAIN : Fld := ⟨Reg.PWR_LOOP_CFG, 15, 8⟩
def Reg.PWR_STATUS : Nat := 0x13000C
def Fld.PWR_STATUS_FREQ : Fld := ⟨Reg.PWR_STATUS, 31, 24⟩
def Fld.PWR_STATUS_DUTY : Fld := ⟨Reg.PWR_STATUS, 23, 20⟩
def Fld.PWR_STATUS_FLOOR : Fld := ⟨Reg.PWR_STATUS, 19, 19⟩
def Fld.PWR_STATUS_THERM : Fld := ⟨Reg.PWR_STATUS, 18, 18⟩
def Fld.PWR_STATUS_CAPPED : Fld := ⟨Reg.PWR_STATUS, 17, 17⟩
def Fld.PWR_STATUS_POWER : Fld := ⟨Reg.PWR_STATUS, 15, 0⟩
def Reg.PWR_ENERGY_LO : Nat := 0x130010
def Reg.PWR_ENERGY_HI : Nat := 0x130014
def Reg.PWR_STACK_ENERGY_LO : Nat := 0x130018
def Reg.PWR_IN_ENERGY_LO : Nat := 0x130018
def Reg.PWR_STACK_ENERGY_HI : Nat := 0x13001C
def Reg.PWR_IN_ENERGY_HI : Nat := 0x13001C
def Reg.PWR_THERM : Nat := 0x130020
def Fld.PWR_THERM_WARN : Fld := ⟨Reg.PWR_THERM, 23, 16⟩
def Fld.PWR_THERM_TEMP : Fld := ⟨Reg.PWR_THERM, 7, 0⟩
def Reg.CNT_CTL : Nat := 0x140000
def Fld.CNT_CTL_CLEAR : Fld := ⟨Reg.CNT_CTL, 31, 31⟩
def Reg.CNT_FLT_LAYER : Nat := 0x140004
def Fld.CNT_FLT_LAYER_EN : Fld := ⟨Reg.CNT_FLT_LAYER, 31, 31⟩
def Fld.CNT_FLT_LAYER_LAYER : Fld := ⟨Reg.CNT_FLT_LAYER, 19, 0⟩
def Reg.CNT_FLT_OPER : Nat := 0x140008
def Fld.CNT_FLT_OPER_EN : Fld := ⟨Reg.CNT_FLT_OPER, 31, 31⟩
def Fld.CNT_FLT_OPER_OPER : Fld := ⟨Reg.CNT_FLT_OPER, 11, 0⟩
def Reg.CNT_FLT_MBID : Nat := 0x14000C
def Fld.CNT_FLT_MBID_EN : Fld := ⟨Reg.CNT_FLT_MBID, 31, 31⟩
def Fld.CNT_FLT_MBID_MBID : Fld := ⟨Reg.CNT_FLT_MBID, 15, 0⟩
def Reg.DBG_STOP_CTL : Nat := 0x150000
def Fld.DBG_STOP_CTL_STOP : Fld := ⟨Reg.DBG_STOP_CTL, 31, 31⟩
def Fld.DBG_STOP_CTL_RESUME : Fld := ⟨Reg.DBG_STOP_CTL, 30, 30⟩
def Fld.DBG_STOP_CTL_PIN_EN : Fld := ⟨Reg.DBG_STOP_CTL, 1, 1⟩
def Fld.DBG_STOP_CTL_SCOPE : Fld := ⟨Reg.DBG_STOP_CTL, 0, 0⟩
def Reg.DBG_STOP_CFG : Nat := 0x150004
def Fld.DBG_STOP_CFG_GLEAD : Fld := ⟨Reg.DBG_STOP_CFG, 15, 0⟩
def Reg.DBG_STOP_STATUS : Nat := 0x150008
def Fld.DBG_STOP_STATUS_STATE : Fld := ⟨Reg.DBG_STOP_STATUS, 31, 30⟩
def Fld.DBG_STOP_STATUS_SRC : Fld := ⟨Reg.DBG_STOP_STATUS, 29, 27⟩
def Fld.DBG_STOP_STATUS_SCOPE : Fld := ⟨Reg.DBG_STOP_STATUS, 26, 26⟩
def Fld.DBG_STOP_STATUS_SMEAR : Fld := ⟨Reg.DBG_STOP_STATUS, 25, 25⟩
def Fld.DBG_STOP_STATUS_LATE : Fld := ⟨Reg.DBG_STOP_STATUS, 24, 24⟩
def Reg.DBG_STOP_ID : Nat := 0x15000C
def Fld.DBG_STOP_ID_ID : Fld := ⟨Reg.DBG_STOP_ID, 25, 0⟩
def Reg.DBG_STOP_T_LO : Nat := 0x150010
def Reg.DBG_STOP_T_HI : Nat := 0x150014
def Reg.DBG_BP_ID : Nat := 0x150020
def Fld.DBG_BP_ID_OPER : Fld := ⟨Reg.DBG_BP_ID, 31, 20⟩
def Fld.DBG_BP_ID_LAYER : Fld := ⟨Reg.DBG_BP_ID, 19, 0⟩
def Reg.DBG_BP_CTL : Nat := 0x150024
def Fld.DBG_BP_CTL_ARM : Fld := ⟨Reg.DBG_BP_CTL, 31, 31⟩
def Fld.DBG_BP_CTL_STEP_EN : Fld := ⟨Reg.DBG_BP_CTL, 30, 30⟩
def Fld.DBG_BP_CTL_ANY_LAYER : Fld := ⟨Reg.DBG_BP_CTL, 29, 29⟩
def Fld.DBG_BP_CTL_ANY_OPER : Fld := ⟨Reg.DBG_BP_CTL, 28, 28⟩
def Fld.DBG_BP_CTL_MBID : Fld := ⟨Reg.DBG_BP_CTL, 15, 0⟩
def Reg.DBG_BP_STEP : Nat := 0x150028
def Reg.DBG_AUTH_STATUS : Nat := 0x150030
def Fld.DBG_AUTH_STATUS_HELD : Fld := ⟨Reg.DBG_AUTH_STATUS, 31, 31⟩
def Fld.DBG_AUTH_STATUS_OPEN : Fld := ⟨Reg.DBG_AUTH_STATUS, 30, 30⟩
def Fld.DBG_AUTH_STATUS_LOCKOUT : Fld := ⟨Reg.DBG_AUTH_STATUS, 29, 29⟩
def Fld.DBG_AUTH_STATUS_FAILS : Fld := ⟨Reg.DBG_AUTH_STATUS, 20, 17⟩
def Fld.DBG_AUTH_STATUS_REMAIN : Fld := ⟨Reg.DBG_AUTH_STATUS, 16, 0⟩
def Reg.DBG_SCAN_STATUS : Nat := 0x150034
def Fld.DBG_SCAN_STATUS_BUSY : Fld := ⟨Reg.DBG_SCAN_STATUS, 31, 31⟩
def Fld.DBG_SCAN_STATUS_DONE : Fld := ⟨Reg.DBG_SCAN_STATUS, 19, 0⟩

/-- Access types (Table 0.4); `rwK`: RW on the control dies and RO elsewhere. -/
inductive Acc where
  | ro | rw | w1c | w1s | wo | rsvd | rwK
  deriving DecidableEq, Repr

/-- The dies that populate a register. -/
inductive DieSet where
  | compute | link | control | every | computeControl | computeLink
  deriving DecidableEq, Repr

/-- A field of a register's table: its bits, its access type and, where some encodings are reserved (R11), the
ranges that are not. -/
structure RegField where
  hi : Nat
  lo : Nat
  acc : Acc
  legal : List (Nat × Nat)
  deriving DecidableEq, Repr

/-- A register description: base offset, the strides and counts of its indices, its reset value. -/
structure RegRow where
  name : String
  dies : DieSet
  base : Nat
  dims : List (Nat × Nat)
  reset : Nat
  fields : List RegField
  deriving DecidableEq, Repr

def regTable0 : List RegRow := [
  ⟨"ARR_RAMP_CFG", .compute, 0x30000, [], 0x00000040,
    [⟨7, 0, .rw, []⟩]⟩,
  ⟨"ARR_WDOG_CFG", .compute, 0x30004, [], 0x00001000,
    [⟨15, 0, .rw, [(0x400,0xFFFF)]⟩]⟩,
  ⟨"ARR_CTL", .compute, 0x2000400, [(0x10000, 272), (0x100, 4)], 0x00000000,
    [⟨0, 0, .rw, []⟩]⟩,
  ⟨"ARR_STATUS", .compute, 0x2000404, [(0x10000, 272), (0x100, 4)], 0x00000000,
    [⟨31, 30, .ro, []⟩, ⟨29, 24, .ro, []⟩, ⟨23, 21, .ro, []⟩, ⟨20, 20, .ro, []⟩, ⟨19, 19, .ro, []⟩, ⟨18, 18, .ro, []⟩, ⟨17, 17, .ro, []⟩]⟩,
  ⟨"ARR_ERR", .compute, 0x2000408, [(0x10000, 272), (0x100, 4)], 0x00000000,
    [⟨1, 1, .w1c, []⟩, ⟨0, 0, .w1c, []⟩]⟩,
  ⟨"ARR_FXC0", .compute, 0x2000410, [(0x10000, 272), (0x100, 4)], 0x00000000,
    [⟨31, 31, .w1c, []⟩, ⟨30, 30, .ro, []⟩, ⟨29, 27, .ro, []⟩, ⟨12, 8, .ro, []⟩, ⟨7, 0, .ro, []⟩]⟩,
  ⟨"ARR_FXC1", .compute, 0x2000414, [(0x10000, 272), (0x100, 4)], 0x00000000,
    [⟨31, 12, .ro, []⟩, ⟨11, 0, .ro, []⟩]⟩,
  ⟨"ARR_FXC2", .compute, 0x2000418, [(0x10000, 272), (0x100, 4)], 0x00000000,
    [⟨15, 0, .ro, []⟩]⟩,
  ⟨"ARR_WAIT_ON", .compute, 0x2000420, [(0x10000, 272), (0x100, 4)], 0x00000000,
    [⟨31, 0, .ro, []⟩]⟩,
  ⟨"ARR_ACC_ERR", .compute, 0x2000440, [(0x10000, 272), (0x100, 4)], 0x00000000,
    [⟨2, 2, .w1c, []⟩, ⟨1, 1, .w1c, []⟩, ⟨0, 0, .w1c, []⟩]⟩,
  ⟨"ARR_ACC_TAGn", .compute, 0x2000480, [(0x10000, 272), (0x100, 4), (0x4, 32)], 0x00000000,
    [⟨31, 31, .ro, []⟩, ⟨30, 28, .ro, []⟩, ⟨27, 27, .ro, []⟩, ⟨26, 21, .ro, []⟩, ⟨20, 20, .ro, []⟩, ⟨19, 19, .ro, []⟩]⟩,
  ⟨"ARR_STAG_SA", .compute, 0x2001000, [(0x10000, 272), (0x20, 64)], 0x00000000,
    [⟨31, 0, .rw, []⟩]⟩,
  ⟨"ARR_STAG_SB", .compute, 0x2001004, [(0x10000, 272), (0x20, 64)], 0x00000000,
    [⟨31, 0, .rw, []⟩]⟩,
  ⟨"ARR_STAG_SO", .compute, 0x2001008, [(0x10000, 272), (0x20, 64)], 0x00000000,
    [⟨31, 0, .rw, []⟩]⟩,
  ⟨"ARR_STAG_MUL", .compute, 0x200100C, [(0x10000, 272), (0x20, 64)], 0x00000000,
    [⟨31, 0, .rw, []⟩]⟩,
  ⟨"ARR_STAG_CTL", .compute, 0x2001010, [(0x10000, 272), (0x20, 64)], 0x00000000,
    [⟨31, 26, .rw, []⟩, ⟨25, 24, .rw, [(0,2)]⟩, ⟨23, 19, .rw, [(0,0),(8,16)]⟩, ⟨18, 16, .rw, []⟩]⟩,
  ⟨"ARR_STAG_TID", .compute, 0x2001014, [(0x10000, 272), (0x20, 64)], 0x00000000,
    [⟨23, 0, .rw, []⟩]⟩,
  ⟨"ARR_STAG_IROW_LO", .compute, 0x2001018, [(0x10000, 272), (0x20, 64)], 0x00000000,
    [⟨31, 0, .rw, []⟩]⟩,
  ⟨"ARR_STAG_IROW_HI", .compute, 0x200101C, [(0x10000, 272), (0x20, 64)], 0x00000000,
    [⟨7, 0, .rw, []⟩]⟩,
  ⟨"CHV_CTL", .compute, 0x40000, [], 0x00000001,
    [⟨0, 0, .rw, []⟩]⟩]

def regTable1 : List RegRow := [
  ⟨"CHV_STATUS", .compute, 0x40004, [], 0x00000000,
    [⟨31, 30, .ro, []⟩, ⟨15, 8, .ro, []⟩, ⟨0, 0, .ro, []⟩]⟩,
  ⟨"CHV_ERR", .compute, 0x40008, [], 0x00000000,
    [⟨3, 3, .w1c, []⟩, ⟨1, 1, .w1c, []⟩, ⟨0, 0, .w1c, []⟩]⟩,
  ⟨"CHV_WAIT_ON", .compute, 0x4000C, [], 0x00000000,
    [⟨31, 0, .ro, []⟩]⟩,
  ⟨"CHV_SEED_LO", .compute, 0x40010, [], 0x00000000,
    [⟨31, 0, .rw, []⟩]⟩,
  ⟨"CHV_SEED_HI", .compute, 0x40014, [], 0x00000000,
    [⟨31, 0, .rw, []⟩]⟩,
  ⟨"SAGE_CTL", .compute, 0x50000, [], 0x00000001,
    [⟨0, 0, .rw, []⟩]⟩,
  ⟨"SAGE_STATUS", .compute, 0x50004, [], 0x00000000,
    [⟨31, 31, .ro, []⟩, ⟨30, 30, .ro, []⟩, ⟨29, 29, .ro, []⟩, ⟨13, 0, .ro, []⟩]⟩,
  ⟨"SAGE_ERR", .compute, 0x50008, [], 0x00000000,
    [⟨1, 1, .w1c, []⟩, ⟨0, 0, .w1c, []⟩]⟩,
  ⟨"SAGE_WAIT_ON", .compute, 0x5000C, [], 0x00000000,
    [⟨31, 0, .ro, []⟩]⟩,
  ⟨"SAGE_REC_BASE", .compute, 0x50010, [], 0x00000000,
    [⟨25, 20, .rw, []⟩]⟩,
  ⟨"SAGE_GOV_CTL", .control, 0x50100, [], 0x00000000,
    [⟨1, 1, .ro, []⟩, ⟨0, 0, .ro, []⟩]⟩,
  ⟨"SAGE_THR", .control, 0x50104, [], 0x00020C01,
    [⟨21, 16, .ro, []⟩, ⟨13, 8, .ro, []⟩, ⟨7, 0, .ro, []⟩]⟩,
  ⟨"SAGE_QUIET", .control, 0x50108, [], 0x00000100,
    [⟨15, 0, .ro, []⟩]⟩,
  ⟨"SAGE_RATIO_LO", .control, 0x5010C, [], 0x3727C5AC,
    [⟨31, 0, .ro, []⟩]⟩,
  ⟨"SAGE_RATIO_HI", .control, 0x50110, [], 0x3C23D70A,
    [⟨31, 0, .ro, []⟩]⟩,
  ⟨"SAGE_DIGEST", .control, 0x50114, [], 0x00000000,
    [⟨31, 0, .ro, []⟩]⟩,
  ⟨"SAGE_DECIDED", .control, 0x50118, [], 0x00000000,
    [⟨31, 0, .ro, []⟩]⟩,
  ⟨"SAGE_PINS", .control, 0x5011C, [], 0x00000000,
    [⟨10, 0, .ro, []⟩]⟩,
  ⟨"SPRG_MAPb", .compute, 0x60000, [(0x4, 16)], 0x00000000,
    [⟨31, 31, .ro, []⟩, ⟨27, 24, .ro, []⟩, ⟨16, 0, .ro, []⟩]⟩,
  ⟨"SPRG_DRAIN_TMO", .compute, 0x60040, [], 0x00000064,
    [⟨15, 0, .rw, [(1,0xFFFF)]⟩]⟩]

def regTable2 : List RegRow := [
  ⟨"SPRG_CTL", .compute, 0x2000000, [(0x10000, 272)], 0x00000001,
    [⟨0, 0, .rw, []⟩]⟩,
  ⟨"SPRG_STATUS", .compute, 0x2000004, [(0x10000, 272)], 0x00000000,
    [⟨31, 30, .ro, []⟩, ⟨27, 20, .ro, []⟩, ⟨19, 19, .ro, []⟩, ⟨18, 18, .w1c, []⟩, ⟨5, 0, .ro, []⟩]⟩,
  ⟨"SPRG_ERR", .compute, 0x2000008, [(0x10000, 272)], 0x00000000,
    [⟨2, 2, .w1c, []⟩, ⟨1, 1, .w1c, []⟩, ⟨0, 0, .w1c, []⟩]⟩,
  ⟨"SPRG_FPSR", .compute, 0x200000C, [(0x10000, 272)], 0x00000000,
    [⟨4, 4, .w1c, []⟩, ⟨3, 3, .w1c, []⟩, ⟨2, 2, .w1c, []⟩, ⟨1, 1, .w1c, []⟩, ⟨0, 0, .w1c, []⟩]⟩,
  ⟨"SPRG_SEED_LO", .compute, 0x2000010, [(0x10000, 272)], 0x00000000,
    [⟨31, 0, .rw, []⟩]⟩,
  ⟨"SPRG_SEED_HI", .compute, 0x2000014, [(0x10000, 272)], 0x00000000,
    [⟨31, 0, .rw, []⟩]⟩,
  ⟨"SPRG_STEP", .compute, 0x2000018, [(0x10000, 272)], 0x00000000,
    [⟨31, 0, .rw, []⟩]⟩,
  ⟨"SPRG_EPOCH", .compute, 0x200001C, [(0x10000, 272)], 0x00000000,
    [⟨15, 0, .rw, []⟩]⟩,
  ⟨"SPRG_TICK", .compute, 0x2000020, [(0x10000, 272)], 0x00000000,
    [⟨23, 0, .ro, []⟩]⟩,
  ⟨"QUE_CTL", .compute, 0x2002000, [(0x10000, 272), (0x40, 64)], 0x00000001,
    [⟨1, 1, .rw, []⟩, ⟨0, 0, .rw, []⟩]⟩,
  ⟨"QUE_STATUS", .compute, 0x2002004, [(0x10000, 272), (0x40, 64)], 0x10000000,
    [⟨31, 30, .ro, []⟩, ⟨29, 29, .ro, []⟩, ⟨28, 28, .ro, []⟩, ⟨22, 16, .ro, []⟩, ⟨13, 8, .ro, []⟩, ⟨5, 0, .ro, []⟩]⟩,
  ⟨"QUE_HWM", .compute, 0x2002008, [(0x10000, 272), (0x40, 64)], 0x00000000,
    [⟨6, 0, .rw, []⟩]⟩,
  ⟨"QUE_WAIT_ON", .compute, 0x200200C, [(0x10000, 272), (0x40, 64)], 0x00000000,
    [⟨31, 0, .ro, []⟩]⟩,
  ⟨"QUE_TICKBASE", .compute, 0x2002028, [(0x10000, 272), (0x40, 64)], 0x00000000,
    [⟨23, 0, .ro, []⟩]⟩,
  ⟨"ATS_CTL", .compute, 0x70000, [(0x1000, 4)], 0x00000001,
    [⟨0, 0, .rw, []⟩]⟩,
  ⟨"ATS_STATUS", .compute, 0x70004, [(0x1000, 4)], 0x00000000,
    [⟨31, 30, .ro, []⟩, ⟨15, 8, .ro, []⟩, ⟨1, 1, .ro, []⟩, ⟨0, 0, .ro, []⟩]⟩,
  ⟨"ATS_ERR", .compute, 0x70008, [(0x1000, 4)], 0x00000000,
    [⟨4, 4, .w1c, []⟩, ⟨3, 3, .w1c, []⟩, ⟨2, 2, .w1c, []⟩, ⟨1, 1, .w1c, []⟩, ⟨0, 0, .w1c, []⟩]⟩,
  ⟨"ATS_WAIT_ON", .compute, 0x7000C, [(0x1000, 4)], 0x00000000,
    [⟨31, 0, .ro, []⟩]⟩,
  ⟨"UPD_CTL", .compute, 0x80000, [], 0x00000001,
    [⟨0, 0, .rw, []⟩]⟩,
  ⟨"UPD_STATUS", .compute, 0x80004, [], 0x00000000,
    [⟨31, 30, .ro, []⟩, ⟨15, 8, .ro, []⟩, ⟨2, 2, .ro, []⟩, ⟨0, 0, .ro, []⟩]⟩]

def regTable3 : List RegRow := [
  ⟨"UPD_ERR", .compute, 0x80008, [], 0x00000000,
    [⟨4, 4, .w1c, []⟩, ⟨3, 3, .w1c, []⟩, ⟨2, 2, .w1c, []⟩, ⟨1, 1, .w1c, []⟩, ⟨0, 0, .w1c, []⟩]⟩,
  ⟨"UPD_WAIT_ON", .compute, 0x8000C, [], 0x00000000,
    [⟨31, 0, .ro, []⟩]⟩,
  ⟨"UPD_LR", .compute, 0x80010, [], 0x00000000,
    [⟨31, 0, .rw, []⟩]⟩,
  ⟨"UPD_LR_STEP", .compute, 0x80014, [], 0x00000000,
    [⟨31, 0, .rw, []⟩]⟩,
  ⟨"UPD_FRZ_BASE", .compute, 0x80018, [], 0x00000000,
    [⟨25, 10, .rw, []⟩]⟩,
  ⟨"UPD_FRZ_COUNT", .compute, 0x8001C, [], 0x00000000,
    [⟨6, 0, .rw, []⟩]⟩,
  ⟨"UPD_COMMIT_STEP", .compute, 0x80020, [], 0x00000000,
    [⟨31, 0, .ro, []⟩]⟩,
  ⟨"UPD_COMMIT_LAYER", .compute, 0x80024, [], 0x00000000,
    [⟨19, 0, .ro, []⟩]⟩,
  ⟨"MEM_STATUS", .compute, 0x90000, [], 0x00000000,
    [⟨31, 31, .ro, []⟩, ⟨30, 30, .ro, []⟩, ⟨29, 29, .ro, []⟩, ⟨28, 28, .ro, []⟩]⟩,
  ⟨"MEM_ERR", .computeControl, 0x90004, [], 0x00000000,
    [⟨3, 3, .w1c, []⟩, ⟨2, 2, .w1c, []⟩, ⟨1, 1, .w1c, []⟩, ⟨0, 0, .w1c, []⟩]⟩,
  ⟨"MEM_PAR_BASE", .compute, 0x90008, [], 0x00000000,
    [⟨9, 0, .rw, []⟩]⟩,
  ⟨"MEM_PAR_BLOCKS", .compute, 0x9000C, [], 0x00000000,
    [⟨20, 0, .rw, []⟩]⟩,
  ⟨"MEM_STG_BASE", .compute, 0x90010, [], 0x00000000,
    [⟨9, 0, .rw, []⟩]⟩,
  ⟨"MEM_PAR_MASK", .compute, 0x90020, [], 0x0000FFFF,
    [⟨15, 0, .rw, []⟩]⟩,
  ⟨"MEM_SCRUB_CFG", .compute, 0x90014, [], 0x801008F0,
    [⟨31, 31, .rw, []⟩, ⟨23, 16, .rw, [(1,0xFF)]⟩, ⟨15, 0, .rw, [(1,0xFFFF)]⟩]⟩,
  ⟨"MEM_SCRUB_POS", .compute, 0x90018, [], 0x00000000,
    [⟨23, 0, .ro, []⟩]⟩,
  ⟨"MEM_AGE_CFG", .compute, 0x9001C, [], 0x00404040,
    [⟨23, 16, .rw, [(0x10,0xFF)]⟩, ⟨15, 8, .rw, [(0x10,0xFF)]⟩, ⟨7, 0, .rw, [(0x10,0xFF)]⟩]⟩,
  ⟨"MEM_AP_SLOTn", .control, 0x90100, [(0x4, 16)], 0x00000000,
    [⟨31, 31, .rw, []⟩, ⟨30, 30, .rw, []⟩, ⟨17, 0, .rw, []⟩]⟩,
  ⟨"ECC_CTL", .compute, 0xA0000, [], 0x00000002,
    [⟨1, 1, .rw, []⟩, ⟨0, 0, .rw, []⟩]⟩,
  ⟨"ECC_ERR", .compute, 0xA0004, [], 0x00000000,
    [⟨3, 3, .w1c, []⟩, ⟨2, 2, .w1c, []⟩, ⟨1, 1, .w1c, []⟩, ⟨0, 0, .w1c, []⟩]⟩]

def regTable4 : List RegRow := [
  ⟨"ECC_LOG0", .compute, 0xA0008, [], 0x00000000,
    [⟨31, 31, .w1c, []⟩, ⟨30, 30, .ro, []⟩, ⟨29, 28, .ro, []⟩, ⟨27, 26, .ro, []⟩, ⟨25, 24, .ro, []⟩]⟩,
  ⟨"ECC_LOG1", .compute, 0xA000C, [], 0x00000000,
    [⟨31, 0, .ro, []⟩]⟩,
  ⟨"ECC_LOG2", .compute, 0xA0010, [], 0x00000000,
    [⟨14, 12, .ro, []⟩, ⟨11, 0, .ro, []⟩]⟩,
  ⟨"GLB_TICK_CFG", .compute, 0x800, [], 0x00040400,
    [⟨21, 16, .rw, [(1,0x20)]⟩, ⟨12, 0, .rw, [(256,4096)]⟩]⟩,
  ⟨"GLB_BARRIER_TMO", .compute, 0x804, [], 0x07D00040,
    [⟨31, 16, .rw, [(0x100,0xFFFF)]⟩, ⟨7, 0, .rw, [(1,0xFF)]⟩]⟩,
  ⟨"GLB_SCHED_STATUS", .compute, 0x808, [], 0x00000000,
    [⟨31, 30, .ro, []⟩, ⟨29, 29, .ro, []⟩, ⟨28, 28, .ro, []⟩, ⟨27, 22, .ro, []⟩]⟩,
  ⟨"GLB_SCHED_VAR", .compute, 0x80C, [], 0x00000000,
    [⟨31, 0, .ro, []⟩]⟩,
  ⟨"GLB_BARRIER_WAIT", .compute, 0x810, [], 0x00000000,
    [⟨31, 31, .ro, []⟩, ⟨27, 0, .ro, []⟩]⟩,
  ⟨"LNK_PORT_CTL", .link, 0xB0000, [(0x400, 8)], 0x00000000,
    [⟨31, 31, .rw, []⟩, ⟨30, 29, .rw, []⟩, ⟨28, 28, .wo, []⟩]⟩,
  ⟨"LNK_PORT_STATUS", .link, 0xB0004, [(0x400, 8)], 0x00000000,
    [⟨31, 29, .ro, []⟩, ⟨28, 27, .ro, []⟩, ⟨26, 26, .ro, []⟩, ⟨25, 22, .ro, []⟩, ⟨21, 12, .ro, []⟩, ⟨11, 8, .ro, []⟩, ⟨0, 0, .ro, []⟩]⟩,
  ⟨"LNK_LANE_STATUS", .link, 0xB0008, [(0x400, 8)], 0x00000000,
    [⟨24, 16, .ro, []⟩, ⟨8, 0, .ro, []⟩]⟩,
  ⟨"LNK_ERR", .link, 0xB000C, [(0x400, 8)], 0x00000000,
    [⟨5, 5, .w1c, []⟩, ⟨4, 4, .w1c, []⟩, ⟨3, 3, .w1c, []⟩, ⟨2, 2, .w1c, []⟩, ⟨1, 1, .w1c, []⟩, ⟨0, 0, .w1c, []⟩]⟩,
  ⟨"LNK_RETRY_CFG", .link, 0xB0010, [(0x400, 8)], 0x05040014,
    [⟨31, 24, .rw, [(1,0xFF)]⟩, ⟨19, 16, .rw, [(1,0xF)]⟩, ⟨15, 0, .rw, [(1,0xFFFF)]⟩]⟩,
  ⟨"LNK_TMB_CFG", .link, 0xB0014, [(0x400, 8)], 0x000003E8,
    [⟨15, 0, .rw, [(0x100,0xFFFF)]⟩]⟩,
  ⟨"LNK_TMB_OFFSET", .link, 0xB0018, [(0x400, 8)], 0x00000000,
    [⟨31, 0, .ro, []⟩]⟩,
  ⟨"LNK_TMB_DELAY", .link, 0xB001C, [(0x400, 8)], 0x00000000,
    [⟨31, 0, .ro, []⟩]⟩,
  ⟨"LNK_INJ_CTL", .link, 0xB0020, [(0x400, 8)], 0x00000000,
    [⟨31, 31, .rw, []⟩, ⟨30, 28, .rw, []⟩, ⟨27, 24, .rw, [(1,15)]⟩, ⟨15, 0, .rw, []⟩]⟩,
  ⟨"LNK_INJ_MASK", .link, 0xB0024, [(0x400, 8)], 0x00000000,
    [⟨31, 0, .rw, []⟩]⟩,
  ⟨"LNK_INJ_POS", .link, 0xB0028, [(0x400, 8)], 0x00000000,
    [⟨15, 0, .rw, []⟩]⟩,
  ⟨"LNK_INJ_SEED", .link, 0xB002C, [(0x400, 8)], 0x00000001,
    [⟨31, 0, .rw, []⟩]⟩]

def regTable5 : List RegRow := [
  ⟨"LNK_MAC_LO", .link, 0xB0030, [(0x400, 8)], 0x00000000,
    [⟨31, 0, .rw, []⟩]⟩,
  ⟨"LNK_MAC_HI", .link, 0xB0034, [(0x400, 8)], 0x00000000,
    [⟨31, 31, .rw, []⟩, ⟨15, 0, .rw, []⟩]⟩,
  ⟨"FNL_CTL", .computeLink, 0xC0000, [], 0x00000001,
    [⟨0, 0, .rw, []⟩]⟩,
  ⟨"FNL_STATUS", .computeLink, 0xC0004, [], 0x00000000,
    [⟨31, 30, .ro, []⟩, ⟨29, 29, .ro, []⟩, ⟨15, 8, .ro, []⟩, ⟨0, 0, .ro, []⟩]⟩,
  ⟨"FNL_ERR", .computeLink, 0xC0008, [], 0x00000000,
    [⟨5, 5, .w1c, []⟩, ⟨4, 4, .w1c, []⟩, ⟨3, 3, .w1c, []⟩, ⟨2, 2, .w1c, []⟩, ⟨1, 1, .w1c, []⟩, ⟨0, 0, .w1c, []⟩]⟩,
  ⟨"FNL_WAIT_ON", .computeLink, 0xC000C, [], 0x00000000,
    [⟨31, 0, .ro, []⟩]⟩,
  ⟨"FNL_EPOCH", .computeLink, 0xC0010, [], 0x00000000,
    [⟨15, 0, .rw, []⟩]⟩,
  ⟨"FNL_FENCE_TMO", .computeLink, 0xC0014, [], 0x00000064,
    [⟨15, 0, .rw, [(1,0xFFFF)]⟩]⟩,
  ⟨"FNL_AON", .computeLink, 0xC0018, [], 0x00000000,
    [⟨31, 31, .ro, []⟩, ⟨27, 0, .ro, []⟩]⟩,
  ⟨"MBX_DATAn", .control, 0xD0000, [(0x100, 32), (0x4, 16)], 0x00000000,
    [⟨31, 0, .rw, []⟩]⟩,
  ⟨"MBX_GO", .control, 0xD0040, [(0x100, 32)], 0x00000000,
    [⟨31, 31, .wo, []⟩, ⟨15, 0, .rw, []⟩]⟩,
  ⟨"MBX_ACK", .control, 0xD0044, [(0x100, 32)], 0x00000000,
    [⟨31, 31, .ro, []⟩, ⟨30, 30, .ro, []⟩, ⟨23, 16, .ro, []⟩, ⟨15, 0, .ro, []⟩]⟩,
  ⟨"MBX_STAT", .control, 0xD0048, [(0x100, 32)], 0x80000000,
    [⟨31, 30, .ro, []⟩, ⟨29, 29, .w1c, []⟩, ⟨2, 0, .ro, []⟩]⟩,
  ⟨"MBX_CTL", .control, 0xD004C, [(0x100, 32)], 0x80000000,
    [⟨31, 30, .rw, [(1,2)]⟩, ⟨2, 2, .wo, []⟩, ⟨1, 1, .rw, []⟩, ⟨0, 0, .rw, []⟩]⟩,
  ⟨"MBX_RESPn", .control, 0xD0080, [(0x100, 32), (0x4, 16)], 0x00000000,
    [⟨31, 0, .ro, []⟩]⟩,
  ⟨"internal MBX_DATAn", .computeLink, 0xE0000, [(0x100, 8), (0x4, 16)], 0x00000000,
    [⟨31, 0, .rw, []⟩]⟩,
  ⟨"internal MBX_GO", .computeLink, 0xE0040, [(0x100, 8)], 0x00000000,
    [⟨31, 31, .wo, []⟩, ⟨15, 0, .rw, []⟩]⟩,
  ⟨"internal MBX_ACK", .computeLink, 0xE0044, [(0x100, 8)], 0x00000000,
    [⟨31, 31, .rw, []⟩, ⟨30, 30, .rw, []⟩, ⟨23, 16, .rw, []⟩, ⟨15, 0, .rw, []⟩]⟩,
  ⟨"internal MBX_STAT", .computeLink, 0xE0048, [(0x100, 8)], 0x80000000,
    [⟨31, 30, .ro, []⟩, ⟨29, 29, .w1c, []⟩, ⟨2, 0, .ro, []⟩]⟩,
  ⟨"internal MBX_CTL", .computeLink, 0xE004C, [(0x100, 8)], 0x80000000,
    [⟨31, 30, .ro, []⟩, ⟨2, 2, .wo, []⟩, ⟨1, 1, .rw, []⟩, ⟨0, 0, .rw, []⟩]⟩,
  ⟨"internal MBX_RESPn", .computeLink, 0xE0080, [(0x100, 8), (0x4, 16)], 0x00000000,
    [⟨31, 0, .rw, []⟩]⟩,
  ⟨"GLB_ID", .control, 0x0, [], 0x48200000,
    [⟨31, 16, .ro, []⟩, ⟨15, 12, .ro, []⟩, ⟨11, 8, .ro, []⟩, ⟨7, 0, .ro, []⟩]⟩,
  ⟨"GLB_FUNC_READY", .control, 0x4, [], 0x00000000,
    [⟨31, 16, .ro, []⟩, ⟨9, 8, .ro, []⟩, ⟨7, 7, .ro, []⟩, ⟨6, 6, .ro, []⟩, ⟨5, 5, .ro, []⟩, ⟨4, 4, .ro, []⟩, ⟨3, 3, .ro, []⟩, ⟨2, 2, .ro, []⟩, ⟨1, 1, .ro, []⟩, ⟨0, 0, .ro, []⟩]⟩,
  ⟨"GLB_FUNC_READY_HI", .control, 0x8, [], 0x00000000,
    [⟨15, 0, .ro, []⟩]⟩,
  ⟨"GLB_ROLE", .control, 0xC, [], 0x00000000,
    [⟨1, 1, .ro, []⟩, ⟨0, 0, .ro, []⟩]⟩,
  ⟨"GLB_BAR0_WIN", .control, 0x10, [], 0x00000000,
    [⟨12, 8, .rw, [(0,0x13)]⟩, ⟨3, 0, .rw, []⟩]⟩]

def regTable6 : List RegRow := [
  ⟨"GLB_ERR", .control, 0x14, [], 0x00000000,
    [⟨1, 1, .w1c, []⟩, ⟨0, 0, .w1c, []⟩]⟩,
  ⟨"JRN_CTL", .control, 0xF0000, [], 0x00000001,
    [⟨0, 0, .rw, []⟩]⟩,
  ⟨"JRN_STATUS", .control, 0xF0004, [], 0x00000000,
    [⟨31, 31, .ro, []⟩, ⟨30, 30, .ro, []⟩, ⟨29, 29, .ro, []⟩]⟩,
  ⟨"JRN_ERR", .control, 0xF0008, [], 0x00000000,
    [⟨2, 2, .w1c, []⟩, ⟨1, 1, .w1c, []⟩, ⟨0, 0, .w1c, []⟩]⟩,
  ⟨"JRN_LAST_STEP", .control, 0xF000C, [], 0x00000000,
    [⟨31, 0, .ro, []⟩]⟩,
  ⟨"JRN_FIRST_STEP", .control, 0xF0010, [], 0x00000000,
    [⟨31, 0, .ro, []⟩]⟩,
  ⟨"JRN_REPLAY_STEP", .control, 0xF0014, [], 0x00000000,
    [⟨31, 0, .ro, []⟩]⟩,
  ⟨"GLB_COMPAT_CFG", .control, 0x18, [], 0x00000010,
    [⟨7, 0, .rw, [(1,0xFF)]⟩]⟩,
  ⟨"GLB_STEP_TMO", .control, 0x1C, [], 0x0000001E,
    [⟨15, 0, .rw, [(1,0xFFFF)]⟩]⟩,
  ⟨"RST_BLK_SRST", .every, 0x100000, [], 0x00000000,
    [⟨24, 0, .w1s, []⟩]⟩,
  ⟨"RST_STATUS", .every, 0x100004, [], 0x00000000,
    [⟨31, 31, .ro, []⟩, ⟨30, 30, .ro, []⟩, ⟨29, 29, .w1c, []⟩, ⟨23, 16, .ro, []⟩, ⟨7, 0, .ro, []⟩]⟩,
  ⟨"RST_CAUSE", .every, 0x100008, [], 0x00000000,
    [⟨7, 0, .w1c, []⟩]⟩,
  ⟨"RST_WARM", .control, 0x10000C, [], 0x00000001,
    [⟨31, 31, .wo, []⟩, ⟨0, 0, .rw, []⟩]⟩,
  ⟨"CLK_STATUS", .every, 0x110000, [], 0x00000000,
    [⟨31, 20, .ro, []⟩, ⟨19, 16, .ro, []⟩, ⟨15, 15, .ro, []⟩, ⟨14, 14, .ro, []⟩]⟩,
  ⟨"CLK_STRETCH_CFG", .compute, 0x110004, [], 0x80000082,
    [⟨31, 31, .rw, []⟩, ⟨7, 4, .rw, [(1,8)]⟩, ⟨1, 0, .rw, [(1,2)]⟩]⟩,
  ⟨"TMB_NOW_LO", .every, 0x120000, [], 0x00000000,
    [⟨31, 0, .ro, []⟩]⟩,
  ⟨"TMB_NOW_HI", .every, 0x120004, [], 0x80000000,
    [⟨31, 31, .ro, []⟩, ⟨29, 0, .ro, []⟩]⟩,
  ⟨"TMB_STATUS", .every, 0x120008, [], 0x00000000,
    [⟨31, 31, .ro, []⟩, ⟨30, 30, .ro, []⟩, ⟨29, 29, .ro, []⟩, ⟨28, 28, .ro, []⟩, ⟨27, 27, .ro, []⟩, ⟨15, 0, .ro, []⟩]⟩,
  ⟨"PWR_CAP", .control, 0x130000, [], 0x00001770,
    [⟨12, 0, .rw, [(1500,6000)]⟩]⟩,
  ⟨"PWR_FREQ", .control, 0x130004, [], 0x0000A550,
    [⟨15, 8, .rw, [(80,165)]⟩, ⟨7, 0, .rw, [(80,165)]⟩]⟩]

def regTable7 : List RegRow := [
  ⟨"PWR_LOOP_CFG", .control, 0x130008, [], 0x05324000,
    [⟨31, 24, .rw, [(1,0xFF)]⟩, ⟨23, 16, .rw, []⟩, ⟨15, 8, .rw, [(1,0xFF)]⟩]⟩,
  ⟨"PWR_STATUS", .control, 0x13000C, [], 0x96F00000,
    [⟨31, 24, .ro, []⟩, ⟨23, 20, .ro, []⟩, ⟨19, 19, .ro, []⟩, ⟨18, 18, .ro, []⟩, ⟨17, 17, .ro, []⟩, ⟨15, 0, .ro, []⟩]⟩,
  ⟨"PWR_ENERGY_LO", .every, 0x130010, [], 0x00000000,
    [⟨31, 0, .ro, []⟩]⟩,
  ⟨"PWR_ENERGY_HI", .every, 0x130014, [], 0x00000000,
    [⟨31, 0, .ro, []⟩]⟩,
  ⟨"PWR_STACK_ENERGY_LO", .compute, 0x130018, [], 0x00000000,
    [⟨31, 0, .ro, []⟩]⟩,
  ⟨"PWR_IN_ENERGY_LO", .control, 0x130018, [], 0x00000000,
    [⟨31, 0, .ro, []⟩]⟩,
  ⟨"PWR_STACK_ENERGY_HI", .compute, 0x13001C, [], 0x00000000,
    [⟨31, 0, .ro, []⟩]⟩,
  ⟨"PWR_IN_ENERGY_HI", .control, 0x13001C, [], 0x00000000,
    [⟨31, 0, .ro, []⟩]⟩,
  ⟨"PWR_THERM", .every, 0x130020, [], 0x00690000,
    [⟨23, 16, .rw, [(60,115)]⟩, ⟨7, 0, .ro, []⟩]⟩,
  ⟨"CNT_CTL", .control, 0x140000, [], 0x00000000,
    [⟨31, 31, .wo, []⟩]⟩,
  ⟨"CNT_FLT_LAYER", .every, 0x140004, [], 0x00000000,
    [⟨31, 31, .rwK, []⟩, ⟨19, 0, .rwK, []⟩]⟩,
  ⟨"CNT_FLT_OPER", .every, 0x140008, [], 0x00000000,
    [⟨31, 31, .rwK, []⟩, ⟨11, 0, .rwK, []⟩]⟩,
  ⟨"CNT_FLT_MBID", .every, 0x14000C, [], 0x00000000,
    [⟨31, 31, .rwK, []⟩, ⟨15, 0, .rwK, []⟩]⟩,
  ⟨"DBG_STOP_CTL", .control, 0x150000, [], 0x00000002,
    [⟨31, 31, .wo, []⟩, ⟨30, 30, .wo, []⟩, ⟨1, 1, .rw, []⟩, ⟨0, 0, .rw, []⟩]⟩,
  ⟨"DBG_STOP_CFG", .control, 0x150004, [], 0x00000014,
    [⟨15, 0, .rw, [(2,1000)]⟩]⟩,
  ⟨"DBG_STOP_STATUS", .every, 0x150008, [], 0x00000000,
    [⟨31, 30, .ro, []⟩, ⟨29, 27, .ro, []⟩, ⟨26, 26, .ro, []⟩, ⟨25, 25, .ro, []⟩, ⟨24, 24, .ro, []⟩]⟩,
  ⟨"DBG_STOP_ID", .every, 0x15000C, [], 0x00000000,
    [⟨25, 0, .ro, []⟩]⟩,
  ⟨"DBG_STOP_T_LO", .every, 0x150010, [], 0x00000000,
    [⟨31, 0, .ro, []⟩]⟩,
  ⟨"DBG_STOP_T_HI", .every, 0x150014, [], 0x00000000,
    [⟨31, 0, .ro, []⟩]⟩,
  ⟨"DBG_BP_ID", .every, 0x150020, [], 0x00000000,
    [⟨31, 20, .rwK, []⟩, ⟨19, 0, .rwK, []⟩]⟩]

def regTable8 : List RegRow := [
  ⟨"DBG_BP_CTL", .every, 0x150024, [], 0x0000FFFF,
    [⟨31, 31, .rwK, []⟩, ⟨30, 30, .rwK, []⟩, ⟨29, 29, .rwK, []⟩, ⟨28, 28, .rwK, []⟩, ⟨15, 0, .rwK, []⟩]⟩,
  ⟨"DBG_BP_STEP", .every, 0x150028, [], 0x00000000,
    [⟨31, 0, .rwK, []⟩]⟩,
  ⟨"DBG_AUTH_STATUS", .control, 0x150030, [], 0x00000000,
    [⟨31, 31, .ro, []⟩, ⟨30, 30, .ro, []⟩, ⟨29, 29, .ro, []⟩, ⟨20, 17, .ro, []⟩, ⟨16, 0, .ro, []⟩]⟩,
  ⟨"DBG_SCAN_STATUS", .control, 0x150034, [], 0x00000000,
    [⟨31, 31, .ro, []⟩, ⟨19, 0, .ro, []⟩]⟩]

/-- Every register description of the spec. -/
def regTable : List RegRow :=
  regTable0 ++ regTable1 ++ regTable2 ++ regTable3 ++ regTable4 ++ regTable5 ++ regTable6 ++ regTable7 ++ regTable8

end Sys2Proof.Machine
end

