-- ==== Sys2Proof/Machine/Sorrel.lean ====
section
/-! DEFINITION. The Sorrel code (R244-R251): arithmetic of GF(2^16) and GF(2^8), check symbols, syndromes, the decoder of
Table 9.3. A stored codeword is described by its DEVIATION from the valid codeword of its data: the syndrome of a
codeword is the syndrome of its deviation, because the code is linear. -/

namespace Sys2Proof.Machine

/-- A field GF(2^w) with its reduction polynomial less the top term. -/
structure Gf where
  w : Nat
  poly : Nat
  deriving DecidableEq, Repr

/-- GF(2)[α]/(α^16 + α^12 + α^3 + α + 1) (R244). -/
def gf16 : Gf := { w := 16, poly := 0x100B }

/-- GF(2)[α]/(α^8 + α^4 + α^3 + α^2 + 1) (R247). -/
def gf8 : Gf := { w := 8, poly := 0x1D }

/-- Multiplication by α. -/
def Gf.xtime (g : Gf) (a : Nat) : Nat :=
  if a.testBit (g.w - 1) then ((a * 2) % 2 ^ g.w) ^^^ g.poly else a * 2

/-- Multiplication, over the low `k` bits of b. -/
def Gf.mulAux (g : Gf) : Nat → Nat → Nat → Nat
  | 0, _, _ => 0
  | k + 1, a, b => (if b % 2 = 1 then a else 0) ^^^ g.mulAux k (g.xtime a) (b / 2)

def Gf.mul (g : Gf) (a b : Nat) : Nat := g.mulAux g.w a b

/-- α^n. -/
def Gf.alpha (g : Gf) : Nat → Nat
  | 0 => 1
  | n + 1 => g.xtime (g.alpha n)

/-- The inverse: a^(2^w − 2). -/
def Gf.invAux (g : Gf) : Nat → Nat → Nat
  | 0, _ => 1
  | k + 1, a => let s := g.mul a a; g.mul s (g.invAux k s)

def Gf.inv (g : Gf) (a : Nat) : Nat := g.invAux (g.w - 1) a

/-- A code of R244: its field and its count of data symbols; four check symbols follow them. -/
structure Code where
  gf : Gf
  data : Nat
  deriving DecidableEq, Repr

def codeDram : Code := { gf := gf16, data := 32 }
def codeSram : Code := { gf := gf8, data := 32 }
def codeAcc : Code := { gf := gf8, data := 27 }

/-- The power of x that symbol s carries: data symbol i is the coefficient of x^(i+4), check symbol j of x^j. -/
def Code.place (c : Code) (s : Nat) : Nat := if s < c.data then s + 4 else s - c.data

/-- A deviation: symbol numbers and the bits in which the stored symbol differs from the valid codeword. -/
abbrev Deviation := List (Nat × BitVec 16)

/-- The deviation's value at a symbol. -/
def devAt (d : Deviation) (s : Nat) : BitVec 16 :=
  (d.filter fun x => x.1 = s).foldl (fun a x => a ^^^ x.2) 0

/-- A deviation in canonical form: one nonzero entry a symbol, in increasing symbol number. -/
def Code.norm (c : Code) (d : Deviation) : Deviation :=
  ((List.range (c.data + 4)).map fun s => (s, devAt d s &&& BitVec.ofNat 16 (2 ^ c.gf.w - 1))).filter fun x => x.2 ≠ 0

/-- Syndrome j of a deviation: its value at α^j (R246). -/
def Code.syndrome (c : Code) (d : Deviation) (j : Nat) : Nat :=
  d.foldl (fun a x => a ^^^ c.gf.mul x.2.toNat (c.gf.alpha (j * c.place x.1))) 0

def Code.syndromes (c : Code) (d : Deviation) : List Nat := (List.range 4).map (c.syndrome d)

/-- Poison form: each check symbol XORed with 0xA5C3, or 0xA5 in SRAM (R251). -/
def Code.poison (c : Code) : Deviation :=
  let v : BitVec 16 := if c.gf.w = 16 then 0xA5C3 else 0x00A5
  (List.range 4).map fun j => (c.data + j, v)

/-- The single-symbol error with these syndromes, if there is one (R246). -/
def Code.single (c : Code) (S : List Nat) : Option Deviation :=
  let e := S.getD 0 0
  if e = 0 then none
  else (List.range (c.data + 4)).findSome? fun s =>
    let a := c.gf.alpha (c.place s)
    let e1 := c.gf.mul e a
    let e2 := c.gf.mul e1 a
    if S.getD 1 0 = e1 ∧ S.getD 2 0 = e2 ∧ S.getD 3 0 = c.gf.mul e2 a then
      some [(s, BitVec.ofNat 16 e)] else none

/-- The two-symbol error with these syndromes, if there is one (R246). -/
def Code.double (c : Code) (S : List Nat) : Option Deviation :=
  (List.range (c.data + 4)).findSome? fun s =>
    (List.range s).findSome? fun t =>
      let a := c.gf.alpha (c.place s)
      let b := c.gf.alpha (c.place t)
      let es := c.gf.mul (c.gf.mul (S.getD 0 0) b ^^^ S.getD 1 0) (c.gf.inv (a ^^^ b))
      let et := es ^^^ S.getD 0 0
      let at2 := c.gf.mul a a
      let bt2 := c.gf.mul b b
      if es ≠ 0 ∧ et ≠ 0 ∧ S.getD 2 0 = c.gf.mul es at2 ^^^ c.gf.mul et bt2 ∧
          S.getD 3 0 = c.gf.mul es (c.gf.mul at2 a) ^^^ c.gf.mul et (c.gf.mul bt2 b) then
        some [(t, BitVec.ofNat 16 et), (s, BitVec.ofNat 16 es)] else none

/-- What the decoder makes of a stored codeword (R251). -/
inductive Decoded where
  /-- Step 1: no error. -/
  | good
  /-- Steps 2 and 3: poison form, with the further single-symbol error if any. -/
  | poisoned (fix : Deviation)
  /-- Step 4: a correctable pattern; the correction. -/
  | corrected (fix : Deviation)
  /-- Step 5. -/
  | uncorrectable
  deriving DecidableEq, Repr

/-- The decoder of R251 in the mode of Table 9.3: `two` is CORRECT2. -/
def Code.decode (c : Code) (two : Bool) (d : Deviation) : Decoded :=
  let S := c.syndromes d
  let P := List.zipWith (· ^^^ ·) S (c.syndromes c.poison)
  if S = [0, 0, 0, 0] then .good
  else if P = [0, 0, 0, 0] then .poisoned []
  else match c.single P with
    | some fix => .poisoned fix
    | none =>
      match c.single S with
      | some fix => .corrected fix
      | none => if two then (match c.double S with | some fix => .corrected fix | none => .uncorrectable) else .uncorrectable

/-- The deviation that is left when a correction is applied to the stored codeword. -/
def Code.apply (c : Code) (d fix : Deviation) : Deviation := c.norm (d ++ fix)

/-- The data bytes changed by the data part of a deviation: what a reader of the raw codeword sees. -/
def Code.dataXor (c : Code) (d : Deviation) (bs : List Byte) : List Byte :=
  let n := c.gf.w / 8
  (List.range bs.length).map fun i => bs.getD i 0 ^^^ BitVec.ofNat 8 ((devAt (d.filter fun x => x.1 < c.data) (i / n)).toNat >>> (8 * (i % n)))

end Sys2Proof.Machine
end

