-- ==== Sys2Proof/Machine/Store.lean ====
section
/-! DEFINITION. A sparse store: pairs of a key and a value, keys strictly rising, no entry equal to what an unlisted
key reads as. Memory, the register file and every other numbered set of the block are stores of this one form. -/

namespace Sys2Proof.Machine

/-- A sparse store in canonical form. -/
abbrev Store (β : Type) := List (Nat × β)

/-- The value at key `k`; an unlisted key reads as `d`. -/
def Store.get {β : Type} (d : β) : Store β → Nat → β
  | [], _ => d
  | (a, v) :: t, k => if a = k then v else if k < a then d else Store.get d t k

/-- A store with no entry at `k`. -/
def Store.del {β : Type} : Store β → Nat → Store β
  | [], _ => []
  | (a, v) :: t, k => if a = k then t else if k < a then (a, v) :: t else (a, v) :: Store.del t k

/-- A store with `v` listed at `k`. -/
def Store.ins {β : Type} : Store β → Nat → β → Store β
  | [], k, v => [(k, v)]
  | (a, w) :: t, k, v => if a = k then (k, v) :: t else if k < a then (k, v) :: (a, w) :: t else (a, w) :: Store.ins t k v

/-- A write: a value equal to what an unlisted key reads as removes the entry. -/
def Store.set {β : Type} [DecidableEq β] (d : β) (m : Store β) (k : Nat) (v : β) : Store β :=
  if v = d then Store.del m k else Store.ins m k v

/-- Every key rises above `lo`. -/
def Store.above {β : Type} : Nat → Store β → Bool
  | _, [] => true
  | lo, (a, _) :: t => decide (lo < a) && Store.above a t

/-- Keys strictly rising. -/
def Store.sorted {β : Type} : Store β → Bool
  | [] => true
  | (a, _) :: t => Store.above a t

/-- The canonical form: keys strictly rising and no entry equal to the unlisted value. -/
def Store.wf {β : Type} [DecidableEq β] (d : β) (m : Store β) : Bool :=
  Store.sorted m && m.all fun x => decide (x.2 ≠ d)

/-- The entries whose keys lie outside [lo, hi). -/
def Store.clear {β : Type} (m : Store β) (lo hi : Nat) : Store β :=
  m.filter fun x => decide (x.1 < lo ∨ hi ≤ x.1)

end Sys2Proof.Machine
end

