-- ==== Sys2Proof/Machine/StateCtl.lean ====
section
/-! DEFINITION. The state of Milmar firmware: the job and its graph (chapter 10), the schedule cache, barriers, the
mailboxes and outstanding commands (chapter 12), the journal and the drop list (chapter 13). -/

namespace Sys2Proof.Machine

/-- TENSOR record (Table 10.3). -/
structure TensorRec where
  tid : Nat
  fmt : Nat
  kind : Nat
  measured : Bool
  persist : Bool
  lazy : Bool
  mbdim : Bool
  dims : List Nat
  layer : Nat
  h : Nat
  margin : Nat
  scale0 : Nat
  rotId : Nat
  rot : Nat
  deriving DecidableEq, Repr

/-- LAYER record (Table 10.4). -/
structure LayerRec where
  layer : Nat
  floor : Nat
  ceil : Nat
  init : Nat
  first : Bool
  last : Bool
  norm : Bool
  fh : Bool
  rule : Nat
  block : Nat
  deriving DecidableEq, Repr

/-- OPERATOR record (Table 10.5). -/
structure OperRec where
  layer : Nat
  oper : Nat
  opc : Nat
  phase : Nat
  ins : List Nat
  outs : List Nat
  attr : List Byte
  deriving DecidableEq, Repr

/-- CONSUMER record (Table 10.7). -/
structure ConsRec where
  tid : Nat
  lane : Nat
  layer : Nat
  oper : Nat
  rmode : Nat
  srk : Nat
  deriving DecidableEq, Repr

/-- A Gegamond graph (R265). -/
structure Graph where
  nblock : Nat
  tensors : List TensorRec
  layers : List LayerRec
  opers : List OperRec
  cons : List ConsRec
  lr : List (Nat × Nat)
  crc : Word
  deriving DecidableEq, Repr

/-- Cut declaration (Table 10.9), with its 24 named bytes. -/
structure Cut where
  dp : Nat
  pp : Nat
  v : Nat
  tp : Nat
  cp : Nat
  mb : Nat
  mbtok : Nat
  seq : Nat
  group : Nat
  bytes : List Byte
  deriving DecidableEq, Repr

/-- Data descriptor entry (Table 10.16). -/
structure DataDesc where
  step : Nat
  lo : Nat
  nm1 : Nat
  shard : Nat
  src : Nat
  stride : Nat
  deriving DecidableEq, Repr

/-- Drop entry (Table 13.3). -/
structure Drop where
  lo : Nat
  nm1 : Nat
  stage0 : Nat
  stride : Nat
  n : Nat
  cause : Nat
  fidx : Nat
  deriving DecidableEq, Repr

/-- What JOB_END asked for (Table 12.7). -/
inductive EndReq where
  | none | finish | abort
  deriving DecidableEq, Repr

/-- How a PERSIST shard of an LND-2400 module is protected (R386): by a mirror, or by snapshots. -/
structure ShardRule where
  module : Nat
  tid : Nat
  mirror : Bool
  deriving DecidableEq, Repr

/-- The loaded job (R265-R275, R286, R371, R383): graph, cut, position and drop list. `phase` is the PHASE code of
Table 10.10. `covered`: the last step covered by data descriptors. `atBoundary`: a replay has left it at a step boundary
(R390). `members`: the modules of the survivor set. -/
structure Job where
  graph : Graph
  cut : Cut
  fabric : List Byte
  modIx : Nat
  seed : BitVec 64
  s0 : Nat
  step : Nat
  phase : Nat
  running : Bool
  started : Bool
  atBoundary : Bool
  lastDone : Option Nat
  endReq : EndReq
  descs : List DataDesc
  covered : Nat
  variants : Nat
  groupPlan : Word
  plans : List (List Byte × Word × Bool)
  drops : List Drop
  dropped : Nat
  aborts : Nat
  corrupt : Nat
  ckpt : Nat
  members : List Nat
  groups : List (List Nat) := []
  protect : List ShardRule := []
  /-- GLB_COMPAT_CFG.SNAP_STEPS at the load (R386). -/
  snapSteps : Nat := 0
  old : List Nat := []
  stepStart : Nat
  /-- The fetchers run a variant: none does before a step that follows no other (R287). -/
  fetching : Bool := false
  /-- The group plan in force since the last group-scope boundary (R287). -/
  planNow : Word := 0
  /-- Ports of this module that have failed, and those that had at the last group-scope boundary (R316). -/
  dead : List Nat := []
  deadSched : List Nat := []
  deriving DecidableEq, Repr

/-- An entry of the schedule cache (R290-R293). `used`: when it was last used, for R292. -/
structure CacheEntry where
  key : List Byte
  parts : List VariantPart
  used : Nat
  deriving DecidableEq, Repr

/-- A barrier with an arrival (R284): its ID, who arrived, when the last participant arrived, the release time that a
group barrier's frame carried, the nominal start of its tick; `kids`: the modules below this one on the Thyme tree whose
arrival has come (R319); `since`: the end of a wait that its timeout does not count (R275). -/
structure Barrier where
  id : Nat
  arrived : List (Nat × Nat)
  remote : Nat
  kids : List Nat
  last : Nat
  release : Option Nat
  nominal : Nat
  since : Nat := 0
  deriving DecidableEq, Repr

/-- A barrier that nobody has arrived at. -/
def Barrier.new (id last : Nat) : Barrier :=
  { id := id, arrived := [], remote := 0, kids := [], last := last, release := none, nominal := 0 }

/-- A mailbox channel beside its registers (R345-R355): the request buffer and its SEQ, the events that wait, the
number lost and the time of the first loss, the next event sequence number, the pending record, the time of GO. -/
structure Channel where
  req : List Word
  seq : Nat
  goAt : Nat
  taken : Bool
  queue : List (List Word)
  lost : Nat
  lostAt : Nat
  evSeq : Nat
  record : List Word
  deriving DecidableEq, Repr

def Channel.fresh : Channel :=
  { req := [], seq := 0, goAt := 0, taken := false, queue := [], lost := 0, lostAt := 0, evSeq := 0, record := [] }

/-- An outstanding long command (R349, R350): its tag, the GO it answers, its arguments, and its final code and
response once they are known. `tent`: it waits for a tentative set to commit (R141, R229). -/
structure LongCmd where
  tag : Nat
  opcode : Nat
  link : Nat
  chan : Nat
  seq : Nat
  args : List Word
  result : Option (Nat × List Word)
  deriving DecidableEq, Repr

/-- An open journal record (R388, Table 13.8): the fields that are gathered before it closes. -/
structure Journal where
  step : Nat
  flags : Nat
  epoch : Nat
  gplan : Word
  pv : List Byte
  vars : List Word
  rules : Word
  freeze : Word
  lr : Nat
  tstart : Nat
  aborts : Nat
  drops : List Drop
  faults : List (List Word)
  stats : Word
  deriving DecidableEq, Repr

/-- A record as it opens: its step and the step's precision vector (R142, R388). -/
def Journal.opened (step : Nat) (pv : List Byte) : Journal :=
  { step := step, flags := 0, epoch := 0, gplan := 0, pv := pv, vars := [0, 0, 0, 0], rules := 0, freeze := 0, lr := 0, tstart := 0,
    aborts := 0, drops := [], faults := [], stats := 0 }

/-- What a die part has gathered of one tensor for one micro-batch in a step (R128, R130, Table 5.2): AMAX as an L16
magnitude, the counts, which a record holds at their widths. `mbid` is none for what no micro-batch made: the update engine's
write-back and the means of XREDUCE, of which `src` keeps each request apart (one more than its first index; else 0). -/
structure SagePart where
  tid : Nat
  mbid : Option Nat
  src : Nat
  amax : Nat
  elems : Nat
  clips : Nat
  outl : Nat
  ovf : Nat
  poison : Nat
  zeros : Nat
  lost : Nat
  deriving DecidableEq, Repr

/-- A bank of a die part (R134): its step, its parts, how many 64-byte records it has formed in shared SRAM when it closed, and the
tree nodes of R467 as (tensor, is WSQ, level, index, value). -/
structure SageBank where
  step : Nat
  parts : List SagePart
  recs : Nat
  nodes : List (Nat × Bool × Nat × Nat × Word)
  deriving DecidableEq, Repr

def SageBank.empty : SageBank := { step := 0, parts := [], recs := 0, nodes := [] }

/-- A rule set (Table 5.6): the images of the five governor registers, and the pins by increasing layer ID (R141). -/
structure RuleSet where
  ctl : Word
  thr : Word
  quiet : Word
  lo : Word
  hi : Word
  pins : List (Nat × Nat)
  deriving DecidableEq, Repr

/-- The default rule set (Table 5.6), as the governor registers hold it after reset. -/
def RuleSet.default : RuleSet :=
  { ctl := 0, thr := 0x00020C01#32, quiet := 0x100#32, lo := 0x3727C5AC#32, hi := 0x3C23D70A#32, pins := [] }

/-- Sage's governor and the tensors' histories (R108, R137, R141, R147): committed and tentative rule sets, whether the
tentative set's CRC-32 has entered a reduction, the precision vectors by step, the quiet counts by layer, the
group-reduced records by step, the AMAX history by tensor (step and L16 magnitude, newest first), the scale words formed
for the step; and the freeze tables (R227, R229). -/
structure Governor where
  rules : RuleSet
  tent : Option RuleSet
  tentIn : Bool
  vectors : Store (List Byte)
  quiet : Store Nat
  reduced : Store (List (List Byte))
  amax : Store (List (Nat × Nat))
  scales : Store Word
  decided : Option Nat
  freeze : List (List Byte × List Byte)
  freezeTent : Option (List (List Byte × List Byte))
  freezeIn : Bool
  /-- Every freeze table that has committed in the job (R389). -/
  frozen : List (List (List Byte × List Byte)) := []
  deriving DecidableEq, Repr

def Governor.fresh : Governor :=
  { rules := RuleSet.default, tent := none, tentIn := false, vectors := [], quiet := [], reduced := [], amax := [],
    scales := [], decided := none, freeze := [], freezeTent := none, freezeIn := false }

end Sys2Proof.Machine
end

