-- ==== Sys2Proof/Machine/StateSprig.lean ====
section
/-! DEFINITION. The state of a physical sprig: its queues, its scalar core, its four arrays, its DMA engine
(chapters 3, 4 and 6), and the state of a die engine (chapter 7). -/

namespace Sys2Proof.Machine

/-- ENABLED, DRAINING, DISABLED of a sprig, a queue or an engine (R174, R181). OFFLINE follows the map (R173). -/
inductive DState where
  | enabled | draining | disabled
  deriving DecidableEq, Repr

/-- A queue entry: 64 bytes (R153), the full tick a command resolved on entry (R154), or, of a receive entry, SPRG_STEP at its
SEND's dispatch (R152), and the number of the
command in flight that a request or transfer belongs to. -/
structure QEntry where
  bytes : List Byte
  tick : Nat
  cmd : Nat
  deriving DecidableEq, Repr

/-- A queue of 64 entries (R160, R168, R174). `lastHdr`: bytes 0-15 of the entry popped last (Table 15.1). -/
structure Queue where
  entries : List QEntry
  head : Nat
  tickBase : Nat
  st : DState
  enReq : Bool
  drainAt : Nat
  sawFull : Bool
  sawEntry : Bool
  lastHdr : List Byte
  deriving DecidableEq, Repr

/-- A queue after reset: enabled and empty (QUE_CTL, QUE_STATUS). -/
def Queue.fresh : Queue :=
  { entries := [], head := 0, tickBase := 0, st := .enabled, enReq := false, drainAt := 0, sawFull := false,
    sawEntry := false, lastHdr := [] }

/-- An array instruction that an ARR command issued: the command, its place in the command's issue order, the word
(R71, R158). -/
structure AInst where
  cmd : Nat
  ord : Nat
  w : BitVec 128
  deriving DecidableEq, Repr

/-- The words of a dispatched ARR command that an array's issue unit has yet to place (R150, R158). -/
structure IssueJob where
  cmd : Nat
  a : Option (BitVec 128)
  b : Option (BitVec 128)
  cnt : Nat
  da : Nat
  db : Nat
  initFirst : Bool
  next : Nat
  deriving DecidableEq, Repr

/-- An accepted instruction that has not retired (R74). `started`: it no longer waits under R98. `pos`: rows
issued by a pass, columns written by a load of the stationary slot. `bad`: it met unusable data (R250). `exc`: a
product of the pass had a cause of Table 3.10. `stag`: the scale-tag entries sampled by a converted store, eight words a slot (R103). -/
structure AJob where
  ins : AInst
  seq : Nat
  started : Bool
  pos : Nat
  bad : Bool
  exc : Bool
  stag : List Word
  deriving DecidableEq, Repr

/-- What a column delivers for a streamed row: an exact integer (R63), or a float group: its exponent and the exact
sum in units of 2^(exponent - 88), and how many of its products were cut (R66, R100). -/
inductive PassVal where
  | int (x : Int)
  | grp (eg : Option Int) (sum : Int) (cut : Nat)
  deriving DecidableEq, Repr

/-- A result on its way to the accumulator: the pass, the physical column it leaves, its slot and element, its
value, the lowest exception cause of its products (0: none) and whether its streamed row was unreadable (R250). -/
structure PassRes where
  seq : Nat
  row : Nat
  col : Nat
  mode : Nat
  init : Bool
  slot : Nat
  elem : Nat
  val : PassVal
  cause : Nat
  poison : Bool
  deriving DecidableEq, Repr

/-- An accumulator slot's tag (R94, R95, R97). -/
structure SlotTag where
  isOpen : Bool
  mode : Nat
  wide : Bool
  stag : Nat
  draining : Bool
  deriving DecidableEq, Repr

def SlotTag.free : SlotTag := { isOpen := false, mode := 0, wide := false, stag := 0, draining := false }

/-- A multiply array. `cells`: the 17 bits of a stationary slot of a cell, numbered 1024 * slot + 32 * row + column.
`modes`: one more than the mode a slot's column was loaded in. `sel`: the active-slot selector of each column.
`staged`: the columns whose inactive slot holds a staged tile. `tokens`: pass tokens whose flip of a column is
deferred, oldest first (R76). `ramp`: 0 OFF, 1 UP, 2 ON, 3 DOWN. -/
structure Arr where
  job : Option IssueJob
  iq : List AInst
  accepted : List AJob
  seq : Nat
  cells : Store (BitVec 17)
  modes : Store Nat
  sel : BitVec 32
  staged : BitVec 32
  tokens : Store (List Nat)
  results : List PassRes
  tags : Store SlotTag
  ramp : Nat
  cols : Nat
  reverse : Bool
  wdog : Bool
  mode : Nat
  deriving DecidableEq, Repr

def Arr.fresh : Arr :=
  { job := none, iq := [], accepted := [], seq := 0, cells := [], modes := [], sel := 0, staged := 0, tokens := [],
    results := [], tags := [], ramp := 0, cols := 0, reverse := false, wdog := false, mode := 0 }

/-- A dispatched command that has not completed (R157): its number, queue, bytes, the step at dispatch, the words or
parts still to retire, and the first failure by issue order with its status (R158). -/
structure Cmd where
  id : Nat
  q : Nat
  bytes : List Byte
  step : Nat
  left : Nat
  fail : Option (Nat × Nat)
  deriving DecidableEq, Repr

/-- A DMA transfer that runs (R151). -/
structure DmaRun where
  q : Nat
  entry : QEntry
  deriving DecidableEq, Repr

/-- An entry whose producer waits for room in its queue (R161, R175, R466). -/
structure Stalled where
  q : Nat
  bytes : List Byte
  cancelled : Bool
  deriving DecidableEq, Repr

/-- A SEND on its way to a receive queue (R157, R162). -/
structure SendOut where
  cmd : Nat
  q : Nat
  entry : List Byte
  qid : Nat
  module : Nat
  deriving DecidableEq, Repr

/-- A fallback decision of a sprig (R122): the tensor, the first row of the row group, the group's largest T_NEED as
raised for the exponent's range, the scale word s_f, and the N8 commands that the sprig withholds from then on. -/
structure Fallback where
  tid : Nat
  row : Nat
  t : Nat
  scale : Nat
  n8 : List (List Byte)
  deriving DecidableEq, Repr

/-- A physical sprig. `fetchPos`: the schedule fetcher's position in the slot table, `fetchTmpl` its command within the
slot entry (R294); `held`: commands it holds while queues refuse entries (R174). -/
structure Sprig where
  gprs : Store (BitVec 64)
  st : DState
  enReq : Bool
  srstReq : Bool
  drainAt : Nat
  queues : Store Queue
  last : Option Nat
  dmaLast : Option Nat
  nextCmd : Nat
  cmds : List Cmd
  arrs : Store Arr
  dma : List DmaRun
  sends : List SendOut
  stalled : List Stalled
  fetchPos : Nat
  fetchTmpl : Nat
  held : List QEntry
  fallbacks : List Fallback
  deriving DecidableEq, Repr

/-- A sprig after reset: enabled, every queue and array empty, every general register 0 (log 3). -/
def Sprig.fresh : Sprig :=
  { gprs := [], st := .enabled, enReq := false, srstReq := false, drainAt := 0, queues := [], last := none,
    dmaLast := none, nextCmd := 0, cmds := [], arrs := [], dma := [], sends := [], stalled := [], fetchPos := 0,
    fetchTmpl := 0, held := [], fallbacks := [] }

/-- A report of one source for one tensor (Table 5.2). -/
structure Report where
  amax : Nat
  elems : Nat
  clips : Nat
  outl : Nat
  ovf : Nat
  poison : Nat
  zeros : Nat
  lost : Nat
  deriving DecidableEq, Repr

/-- What a Chervil request with the outlier path made of one row group (R122, R298): tensor, micro-batch, the group's first row, the
rows of it that the request covers (from `lo`, before `hi`), their largest T_NEED, the scale word, and what they report. -/
structure ChvPart where
  tid : Nat
  mbid : Nat
  row : Nat
  lo : Nat
  hi : Nat
  t : Nat
  scale : Nat
  rep : Report
  deriving DecidableEq, Repr

/-- A completed part of a row group that the sprigs have not decided yet (R122): the die, the sprig and the command queue that asked
for it, and the command. -/
structure ChvSeen where
  die : Nat
  p : Nat
  cq : Nat
  bytes : List Byte
  part : ChvPart
  deriving DecidableEq, Repr

/-- A request that an engine has accepted and not completed (R178): the sprig and its command, what the completion
will say, and the byte ranges the request writes. -/
structure EReq where
  p : Nat
  cmd : Nat
  bytes : List Byte
  step : Nat
  status : Nat
  fpx : Nat
  detail : List Byte
  dests : List (Nat × Nat)
  work : Nat
  chv : List ChvPart
  states : Option (Nat × Nat) := none
  /-- The reduction that a Fennel request named (R321). -/
  rid : Option Nat := none
  deriving DecidableEq, Repr

/-- A die engine (R178, R181). `last`: the logical sprig served last. -/
structure Engine where
  st : DState
  enReq : Bool
  srstReq : Bool
  drainAt : Nat
  last : Option Nat
  accepted : List EReq
  deriving DecidableEq, Repr

def Engine.fresh : Engine :=
  { st := .enabled, enReq := false, srstReq := false, drainAt := 0, last := none, accepted := [] }

end Sys2Proof.Machine
end

