-- ==== Sys2Proof/Machine/StateEdge.lean ====
section
/-! DEFINITION. The state of the module's edges: Fennel and the ports (chapter 11), checkpoints, replay and failover
(chapter 13), resets, clocks and power (chapter 14), the global stop and debug authorization (chapter 15), the pins, the
management bus and the TAP (chapter 16). -/

namespace Sys2Proof.Machine

/-- What a dual-clock queue of a die recorded at the freeze (R437, Table 15.9): the write and the read pointer, the write side's view
of the read pointer and the read side's view of the write pointer, its domains and its depth. -/
structure QRecord where
  die : Nat
  wp : Word
  rp : Word
  rpSeen : Word
  wpSeen : Word
  wdom : Nat
  rdom : Nat
  depth : Nat
  deriving DecidableEq, Repr

/-- The stop units and the stop in force beside its registers (R432-R442). `issues`: this module's count of issues.
`held`: the command queue (die, sprig, queue) whose head a breakpoint holds. `who`: die, logical sprig, layer, operator and
micro-batch of a breakpoint's command. `seen`: stop IDs seen in frames. `resumeAt`: the time R of a resume that is under
way or waits for STOPPED; `resumeSeen`: the resumes seen in frames. -/
structure StopUnit where
  queues : List QRecord
  issues : Nat
  target : Nat
  held : Option (Nat × Nat × Nat)
  who : List Nat
  seen : List Nat
  resumeAt : Option Nat
  resumeSeen : List Nat
  deriving DecidableEq, Repr

def StopUnit.fresh : StopUnit :=
  { queues := [], issues := 0, target := 0, held := none, who := [], seen := [], resumeAt := none, resumeSeen := [] }

/-! Fennel. -/

/-- A Fennel request that its die has accepted: it waits for contributions (R325), is held poisoned until its retry (R329), or has
finished behind an older one of its sprig (R178). `redo`: it reruns for a changed drop list (R374); `tries`: how often it has been
taken up; `fin`: what its completion will say. -/
structure FWait where
  p : Nat
  cmd : Nat
  bytes : List Byte
  desc : List Byte
  step : Word
  seed : BitVec 64
  failed : Bool
  redo : Bool
  tries : Nat := 0
  fin : Option EReq := none
  deriving DecidableEq, Repr

/-- A Q16 tile that this module has added to an exchange buffer, kept until the drop list closes (R373). -/
structure Tile where
  buf : Nat
  tid : Nat
  mbid : Nat
  bytes : List Byte
  deriving DecidableEq, Repr

/-- An open reduction (R321, R323, R333, R335): its ID and epoch, the MBIDs in each exchange buffer by the buffer's DPA,
the frames delivered to it, the end of the phase by which the group plan completes it; `sent`: the buffers whose sums this module has
sent, with their MBIDs (R324); `bufs`: the bytes of each exchange buffer; `tiles`: what was added to
them; `done`: its result is complete. -/
structure Reduction where
  rid : Nat
  epoch : Nat
  sets : List (Nat × List Nat)
  frames : List (List Byte)
  due : Option Nat
  sent : List (Nat × List Nat) := []
  bufs : List (Nat × Nat) := []
  tiles : List Tile := []
  done : Bool := false
  deriving DecidableEq, Repr

/-- A cross-module parity delta in the staging partition of its source module (R331): its step, its offset in the parity
group's rows, the XOR of old and new bytes. -/
structure GroupDelta where
  src : Nat
  step : Nat
  off : Nat
  data : List Byte
  deriving DecidableEq, Repr

/-- Fennel of the module: waiting requests by die, XREDUCE requests of the step that are complete by die (R374), open
reductions, frames held for an unopened reduction (port, arrival, frame), staged group deltas and the group parity that they
commit to; `saved`: what a CONTRIB that is held poisoned found in its exchange buffer (R329). -/
structure Fennel where
  waits : Store (List FWait)
  done : List (Nat × FWait)
  reds : List Reduction
  held : List (Nat × Nat × List Byte)
  staged : List GroupDelta
  parity : Store Byte
  saved : List (Nat × List Byte) := []
  deriving DecidableEq, Repr

def Fennel.fresh : Fennel := { waits := [], done := [], reds := [], held := [], staged := [], parity := [] }

/-! Ports. -/

/-- A port beside its registers (R302-R312, R317, R338, R441). `txSeq`: the next sequence number; `rxSeq`: the last received
in order; `retry`: unacknowledged frames with their sequence numbers; `waitAt`: since when the oldest waits; `resend`:
sequence numbers that a replay has still to send; `replayFrom`: the ACK that a replay started from; `queue`: frames that
wait for a slot, with their virtual channel and since when they wait; `credits` and `give`: frames of credit held and to be returned by channel;
`late`: frames that injection delays, with the frames still to go before them; `capture`: arrival, tick and frame; `repair`:
lane and codeword of a lane repair; `wire`: the frame that left last; `wireErr`: the symbols
of the codeword that starts it and what injection XORs into them (R338); `syncRx`: send and receive time of the last sync frame
received; `trainAt`: when training began or is repeated; `rx`: frames received that wait for a ring or a receive queue;
`away`: its traffic is with its twin until a group-scope boundary (R312); `pauseTill`: until when a PAUSE frame keeps an
Ethernet port silent (R304). -/
structure PortS where
  txSeq : Nat
  rxSeq : Nat
  retry : List (Nat × List Byte)
  waitAt : Nat
  replays : Nat
  resend : List Nat
  replayFrom : Option Nat
  nak : Bool
  queue : List (Nat × Nat × List Byte)
  credits : List Nat
  give : List Nat
  lfsr : Word
  late : List (Nat × List Byte)
  capture : List (Nat × Nat × List Byte)
  repair : Option (Nat × Nat)
  samples : Nat
  syncAt : Nat
  syncRx : Nat × Nat
  trainAt : Nat
  wire : List Byte
  rx : List (List Byte)
  away : Bool
  pauseTill : Nat
  wireErr : List (Nat × Nat) := []
  deriving DecidableEq, Repr

def PortS.fresh : PortS :=
  { txSeq := 1, rxSeq := 0, retry := [], waitAt := 0, replays := 0, resend := [], replayFrom := none, nak := false,
    queue := [], credits := [64, 64, 64, 64], give := [0, 0, 0, 0], lfsr := 1, late := [], capture := [],
    repair := none, samples := 0, syncAt := 0, syncRx := (0, 0), trainAt := 0, wire := [], rx := [],
    away := false, pauseTill := 0 }

/-! Checkpoints, replay, reshard (chapters 11 and 13). -/

/-- A frame of a checkpoint transfer that awaits its answer (R395): offset, length, tag, times resent. -/
structure XFrame where
  off : Nat
  len : Nat
  tag : Nat
  tries : Nat
  deriving DecidableEq, Repr

/-- A checkpoint transfer (R395): the long command it serves, direction, object, device address, Ethernet port, ports tried,
when it last sent, its frames in flight, what is left to ask for, and what has arrived. -/
structure Xfer where
  tag : Nat
  write : Bool
  obj : Nat
  addr : Nat
  len : Nat
  port : Nat
  tried : List Nat
  at_ : Nat
  out : List XFrame
  next : Nat
  got : List (Nat × List Byte)
  store : List Byte
  deriving DecidableEq, Repr

/-- A CKPT_SAVE that waits for its step or for its images (R393). -/
structure CkptReq where
  tag : Nat
  eth : Bool
  dpa : Nat
  step : Nat
  written : Bool
  deriving DecidableEq, Repr

/-- REPLAY_STEP in progress (R390, R391). -/
structure Replay where
  tag : Nat
  step : Nat
  stopped : Bool
  deriving DecidableEq, Repr

/-- A reshard that waits for the fence or for its boundary (R334, R336). -/
structure ReshardReq where
  tag : Nat
  cut : List Byte
  fabric : List Byte
  deriving DecidableEq, Repr

/-- Firmware images and the hitless update (R278, R379, R456): the running and placer versions, the staged image, the stage
of an activation (0 none, 1 the twin restarts, 2 failover is due, 3 the former active die restarts) and its command. -/
structure Firmware where
  version : Word
  placer : Word
  image : List Byte
  staged : Option (List Byte)
  stage : Nat
  tag : Nat
  deriving DecidableEq, Repr

/-! Reset, clocks, power (chapter 14). -/

/-- A release in progress (R401-R405): the next step of Table 14.3, and what its reach takes: whether trims reload, and whether
the stacks train from cold. -/
structure Release where
  step : Nat
  trims : Bool
  dramLost : Bool
  deriving DecidableEq, Repr

/-- Pins (Table 16.2): levels of the inputs, low inputs of the host links, whether the 48 V regulators are on, whether THERM
holds, and whether a fault event has reported recovering or reduced redundancy (R448). -/
structure Pins where
  modResetN : Bool
  perstLow : List Nat
  mgtAddr : BitVec 3
  regulators : Bool
  therm : Bool
  fault : Bool
  deriving DecidableEq, Repr

/-- The power cap loop (R419-R421): input energy at the last iteration, the frequency in force on the dies in 10 MHz units,
the slew's target and its time T, the duty for the next tick. -/
structure Power where
  base : Nat
  freq : Nat
  target : Nat
  at_ : Nat
  duty : Option Nat
  deriving DecidableEq, Repr

/-- A die's attribution window of 100 µs (R425): its samples so far, its energy, the weighted activity by layer. -/
structure EWin where
  n : Nat
  amount : Nat
  shares : Store Nat
  deriving DecidableEq, Repr

def EWin.fresh : EWin := { n := 0, amount := 0, shares := [] }

/-- A step's energy (R423-R425): counter values at the step's start (input, dies, stacks), energy by layer in microjoules,
energy that no layer took, the dies' open windows. -/
structure EnergyLog where
  input : Nat
  dieE : List Nat
  stackE : List Nat
  layers : Store Nat
  unattr : Nat
  wins : Store EWin
  aborted : Bool
  deriving DecidableEq, Repr

/-- Debug authorization (R429, R430): the open challenge with the time it closes, the end of the grant and of the lockout,
and the option store's debug public keys. -/
structure Auth where
  challenge : Option (List Byte × Nat)
  until_ : Nat
  lock : Nat
  keys : List (Nat × Nat)
  deriving DecidableEq, Repr

/-- Control dies (R27, R357, R378): heartbeats posted, the last mirror heartbeat, a takeover in progress with its time,
and whether this module's Thyme has stepped to its group parent's (R318); `slewed`: what its time has slewed since, short of a
nanosecond, in 10^-8 ns; `sampleAt`: when its parent was last sampled. -/
structure Control where
  beats : Nat
  beatAt : Nat
  mirrorAt : Nat
  takeover : Option Nat
  acquired : Bool
  slewed : Int := 0
  sampleAt : Nat := 0
  deriving DecidableEq, Repr

/-! Management bus and TAP (chapter 16). -/

/-- The MCTP endpoint and a PLDM update (R454-R457). `update`: 0 idle, 1 learning components, 2 ready for transfer,
3 downloading, 4 ready to activate, 5 activating. -/
structure Mgmt where
  i3c : Option (BitVec 7)
  eid : Byte
  tid : Byte
  receiver : Byte
  update : Nat
  size : Nat
  image : List Byte
  lastResult : Nat
  out : List Byte
  deriving DecidableEq, Repr

/-- TAP instructions (R458). -/
inductive TapInstr where
  | bypass | idcode | samplePreload | extest | clamp | highz
  deriving DecidableEq, Repr

/-- The TAP: its instruction, what its data register shifts out, and the boundary register's cells, which no row shifts
(log 10). -/
structure Tap where
  ir : TapInstr
  reset : Bool
  dr : Word
  boundary : List Bool
  deriving DecidableEq, Repr

/-- What the last access of a host was answered (R341, R242, R340). -/
inductive Answer where
  | none
  | data (bytes : List Byte)
  | unsupported
  | poisoned (bytes : List Byte)
  | retry
  deriving DecidableEq, Repr

/-- An unscheduled request at an arbiter (R262): the Thyme time at which it reached its requester's head, whether its age reached
the limit. -/
structure ArbWait where
  req : ArbReq
  since : Nat
  urgent : Bool
  deriving DecidableEq, Repr

/-- What this module holds of a shard of an LND-2400 module (R386): the mirror copy, or the fragment of the last snapshot with its
step and number and the reduced gradients of the steps since. -/
structure KeptShard where
  module : Nat
  tid : Nat
  step : Nat
  frag : Option Nat
  bytes : List Byte
  grads : List (Nat × List Byte)
  deriving DecidableEq, Repr

/-- A shard of a lost LND-2400 module that has been restored, with the gradients whose updates are to rerun (R387). -/
structure RestoredShard where
  module : Nat
  tid : Nat
  bytes : List Byte
  grads : List (Nat × List Byte)
  deriving DecidableEq, Repr

/-- The module's edges. -/
structure Edge where
  fnl : Fennel
  ports : Store PortS
  xfers : List Xfer
  ckpt : Option CkptReq
  replay : Option Replay
  reshard : Option ReshardReq
  fw : Firmware
  release : Option Release
  trainTries : Store Nat
  dieSamples : Store Nat
  pins : Pins
  power : Power
  energy : EnergyLog
  auth : Auth
  ctl : Control
  mgmt : Mgmt
  tap : Tap
  answer : Answer
  hostMem : List (Nat × List Byte)
  fltAt : Option Nat
  bpCopy : Bool
  clearReq : Bool
  abortAt : Option Nat
  hangHead : Option Nat
  /-- Modules whose CRC-32 differed from the root's at a repeated DATA_CORRUPT: they are lost at the step's abort (R383). -/
  suspects : List Nat
  probes : List Nat
  retried : List (Nat × Nat)
  kept : List KeptShard
  restored : List RestoredShard
  rebuilt : List (Nat × Nat × List Byte)
  arbs : List (Arbiter × List ArbWait)
  sramPos : Store Nat
  /-- The phase whose boundary has been released or is awaited (R286). -/
  boundary : Option Nat
  /-- Fault entries that came while no record was open, for the one that opens next (R367). -/
  waits : List (List Word)
  /-- The open journal records of later steps (R388). -/
  ahead : List Journal
  /-- TICK_LEN in force by die (R280). -/
  tickLens : Store Nat
  /-- Barriers released in the step (R284). -/
  released : List Nat
  /-- Dies whose next tick is tick 0 of a step (R280). -/
  tick0 : List Nat
  /-- The step whose late statistics have been counted (R136). -/
  late : Option Nat
  /-- Source dies and layers committed in the step, and whether its update phase reruns after an abort (R382). -/
  committed : List (Nat × Nat)
  rerun : Bool
  /-- An LND-2400 module of the job's group has been lost (R387). -/
  compat : Bool
  /-- What the AER capability of each host function holds (R339, log 121): 1 a poisoned TLP, 2 a link error. -/
  aer : Store (BitVec 2)
  /-- The bytes of the MSI-X tables at BAR2 offset 0x8000, 1,024 for each link (Table 12.2). -/
  msixTab : Store Byte
  deriving DecidableEq, Repr

/-- The edges after reset (log 3, log 7, log 12). -/
def Edge.fresh : Edge :=
  { fnl := Fennel.fresh, ports := [], xfers := [], ckpt := none, replay := none, reshard := none,
    fw := { version := 0, placer := 0, image := [], staged := none, stage := 0, tag := 0 },
    release := some { step := 1, trims := true, dramLost := true }, trainTries := [],
    dieSamples := [],
    pins := { modResetN := true, perstLow := [], mgtAddr := 0, regulators := true, therm := false, fault := false },
    power := { base := 0, freq := 0x96, target := 0x96, at_ := 0, duty := none },
    energy := { input := 0, dieE := [], stackE := [], layers := [], unattr := 0, wins := [], aborted := false },
    auth := { challenge := none, until_ := 0, lock := 0, keys := [] },
    ctl := { beats := 0, beatAt := 0, mirrorAt := 0, takeover := none, acquired := false },
    mgmt := { i3c := none, eid := 0, tid := 0, receiver := 0, update := 0, size := 0, image := [], lastResult := 0,
              out := [] },
    tap := { ir := .idcode, reset := true, dr := 0, boundary := [] },
    answer := .none, hostMem := [], fltAt := none, bpCopy := false, clearReq := false, abortAt := none,
    hangHead := none, suspects := [], probes := [], retried := [], kept := [], restored := [], rebuilt := [], arbs := [], sramPos := [], boundary := none, waits := [], ahead := [], tickLens := [], released := [], tick0 := [], late := none, committed := [], rerun := false,
    compat := false, aer := [], msixTab := [] }

end Sys2Proof.Machine
end

