-- ==== Sys2Proof/Machine/State.lean ====
section
/-! DEFINITION. The state of the module: plain data, every piece of it that the spec names, and the queue of the
commands that wait. -/

namespace Sys2Proof.Machine

/-- No meaning of this model faults: every command of the block either has its effect or changes nothing. -/
inductive Fault where
  deriving DecidableEq, Repr

/-- Why a command has no meaning. -/
inductive Refusal where
  /-- A command that the model does not cover, by its row's name. No arm answers with it. Safe. -/
  | notModelled (mnemonic : String)
  deriving DecidableEq, Repr

/-- A staging partition (R257): the tag of its first delta, the touched units, the MIXED flag. -/
structure StgPart where
  tag : Option (Nat × Nat)
  touched : List Nat
  mixed : Bool
  deriving DecidableEq, Repr

def StgPart.clear : StgPart := { tag := none, touched := [], mixed := false }

/-- A parity delta on its way to the staging area of a row's parity die (R230): source and holder die, row, offset
within the unit, the XOR of old and new bytes, and its layer and step. -/
structure Delta where
  src : Nat
  holder : Nat
  row : Nat
  off : Nat
  data : List Byte
  layer : Nat
  step : Nat
  deriving DecidableEq, Repr

/-- The inventory record (R4, Table 0.1, R340): GLB_ID's MEM, LINKS and STEPPING, the serial number; fixed at
manufacture. -/
structure Inventory where
  mem : Nat
  links : Nat
  stepping : Nat
  serial : BitVec 64
  deriving DecidableEq, Repr

/-- What Milmar firmware sends to the other modules of the group, or to a storage peer. -/
inductive Sent where
  /-- Drop entries, by an epoch-free all-or-nothing BCAST (R374). -/
  | drops (entries : List (List Byte))
  /-- A barrier frame: arrival (kind 0), release (1) or abort (2), with its ID and Thyme time (R284, R319, R381). -/
  | barrier (kind id time : Nat)
  /-- A stop frame (R439): the stop ID, the target time and the port on which it arrived; kind 0 a stop, 1 a resume. -/
  | stop (kind id time : Nat) (arrival : Option Nat)
  /-- A checkpoint transfer frame: the Ethernet port and the frame's header and data (R395). -/
  | transfer (port : Nat) (bytes : List Byte)
  /-- Fennel traffic to a module: the request's OP, its reduction ID, the epoch that its frames carry (R333), their virtual channel
  (Table 11.6) and the bytes (R324, R327, R331, R336, BCAST). -/
  | fennel (op rid module epoch vc : Nat) (bytes : List Byte)
  /-- A SEND to a receive queue of another module (R162): the destination module and QID, SPRG_STEP at its dispatch (R152), and the
  entry. -/
  | send (module qid step : Nat) (entry : List Byte)
  /-- The root module's CRC-32 of a failing plan or record, after a second DATA_CORRUPT on one step (R383). -/
  | corrupt (crc : Word)
  deriving DecidableEq, Repr

/-- The module (R14-R34). Sparse parts are stores: registers by die * 2^28 + offset, sprigs by die * 272 + physical
number, engines by die * 8 + engine, memory by device physical address. -/
structure State where
  /-- Commands that wait, first in first out: the model's own. -/
  pending : List Instr
  /-- How many free bytes have been drawn: the model's own (log 8). -/
  fresh : Nat
  /-- Thyme: the master count in ns (R414). -/
  now : Nat
  /-- The register file (R5, R6); an unlisted register reads as its reset value. -/
  regs : Store Word
  /-- 64-bit counters by die and the offset of their lower word (R12, R426). -/
  counters : Store (BitVec 64)
  /-- Holding registers (R12): agent, counter key, upper word. -/
  holds : List (Agent × Nat × Word)
  /-- DRAM, shared SRAM and sprig SRAM by device physical address (R234). -/
  mem : Store Byte
  /-- Accumulator words with their tags: tag [107:96], word [95:0], by sprig, array, slot and element (R93). -/
  acc : Store (BitVec 108)
  /-- Deviations of stored codewords from the codeword of their data (R244-R251). -/
  ecc : Store Deviation
  /-- The inventory record. -/
  inv : Inventory
  /-- What has left for other modules and not yet been placed in a frame: the model's own (log 9). -/
  outbox : List Sent
  sprigs : Store Sprig
  engines : Store Engine
  /-- Completed parts of Chervil row groups that wait for the rest of their group (R122). -/
  chvSeen : List ChvSeen
  /-- Entries that die supervisors have copied to Milmar firmware (R466): die and entry. -/
  fwInbox : List (Nat × List Byte)
  /-- How often each die supervisor has been interrupted (R466, QUE_CTL.NOTIFY). -/
  supIrq : Store Nat
  /-- Staging partitions by holding die * 16 + source die (R257). -/
  parts : Store StgPart
  /-- Rows whose parity is unprotected (R259). -/
  unprotected : List Nat
  /-- Parity deltas on their way (R230). -/
  deltas : List Delta
  /-- Entries of an embedding buffer that a POISON gradient reached, by device physical address (R38, R198). -/
  embPois : Store Bool
  /-- What PHASE 0 of an orthogonalised-momentum update keeps of an element for the later phases: t0-t7 and G, by die, tensor and
  index (R220, R222). -/
  ortho : Store (List Word)
  /-- The repair record: SPRG_MAPb words by die * 16 + bunch (R172); non-volatile. -/
  repair : Store Word
  /-- Failed data wires by bridge * 128 + direction * 64 + group (R19), and the retired groups. -/
  wires : Store (List Nat)
  retired : List Nat
  /-- Compute dies and modules declared lost (R368, R377), and the dies and bridges that routes detour (R369). -/
  lostDies : List Nat
  lostMods : List Nat
  detours : List Nat
  /-- The loaded job (R265). -/
  job : Option Job
  /-- The schedule cache (R291) and its use clock (R292). -/
  cache : Store CacheEntry
  cacheClock : Nat
  /-- Barriers with an arrival (R284). -/
  barriers : List Barrier
  /-- Mailbox channels by link * 32 + channel (R345); event masks by link; outstanding long commands; next tag. -/
  chans : Store Channel
  evMask : Store Nat
  longs : List LongCmd
  nextTag : Nat
  /-- MSI-X vectors signalled, by link * 64 + vector: how often (R344). -/
  msix : Store Nat
  /-- Links whose function is in D3hot (R339, R356). -/
  d3 : List Nat
  /-- The open journal record of the running step, or of the step that starts next (R388). -/
  journal : Option Journal
  /-- The banks of Sage's die parts by die * 2 + bank (R134), and the governor. -/
  banks : Store SageBank
  gov : Governor
  /-- The global stop beside its registers (R432-R442). -/
  stop : StopUnit
  /-- Ports, Fennel, checkpoints, replay, resets, clocks, power, debug authorization, pins, management bus, TAP. -/
  edge : Edge
  deriving DecidableEq, Repr

/-- What a command answers. -/
abbrev Out := Host.Outcome State Fault Refusal

/-- The module right after reset. -/
def State.reset : State :=
  { pending := [], fresh := 0, now := 0, regs := [], counters := [], holds := [], mem := [], acc := [], ecc := [],
    inv := { mem := 0, links := 0, stepping := 0, serial := 0 }, outbox := [], sprigs := [], engines := [], chvSeen := [], fwInbox := [], supIrq := [], parts := [], unprotected := [], deltas := [], embPois := [], ortho := [], repair := [], wires := [],
    retired := [], lostDies := [], lostMods := [], detours := [], job := none, cache := [], cacheClock := 0,
    barriers := [], chans := [], evMask := [], longs := [], nextTag := 1, msix := [], d3 := [], journal := none, banks := [],
    gov := Governor.fresh, stop := StopUnit.fresh, edge := Edge.fresh }

end Sys2Proof.Machine
end

