-- ==== Sys2Proof/Machine/Ops.lean ====
section
/-! DEFINITION. The named operations over registers, counters, sprigs and queues that every meaning uses. -/

namespace Sys2Proof.Machine

/-! Registers (R5-R11). -/

/-- Registers of which the control dies show one value: GLB_ except GLB_ROLE, the governor, JRN_, the power cap loop,
the control-die counters and filters, and the debug registers that Milmar firmware mirrors (R27, log 16). -/
def twinShared (off : Nat) : Bool :=
  decide ((off < 0x10000 ∧ off ≠ 0xC) ∨ (0x50100 ≤ off ∧ off < 0x50200) ∨ (0xF0000 ≤ off ∧ off < 0x100000) ∨
    (0x130000 ≤ off ∧ off < 0x130010) ∨ off = 0x130018 ∨ off = 0x13001C ∨ (0x140000 ≤ off ∧ off < 0x150008) ∨
    (0x150020 ≤ off ∧ off < 0x150038))

/-- The die on which a register is held: K1 shows K0's copy of a shared register. -/
def regHome (d off : Nat) : Nat := if d = 19 ∧ twinShared off = true then 18 else d

def regKey (d off : Nat) : Nat := regHome d off * 2 ^ 28 + off

def DieSet.has : DieSet → Nat → Bool
  | .compute, d => d < 16
  | .link, d => d = 16 || d = 17
  | .control, d => d = 18 || d = 19
  | .every, d => d < 20
  | .computeControl, d => d < 16 || d = 18 || d = 19
  | .computeLink, d => d < 18

/-- Whether what is left of an offset lies at an index of the given strides and counts. -/
def atIndex : List (Nat × Nat) → Nat → Bool
  | [], r => r = 0
  | (st, n) :: t, r => decide (r / st < n) && atIndex t (r % st)

def RegRow.at (r : RegRow) (d off : Nat) : Bool := r.dies.has d && decide (r.base ≤ off) && atIndex r.dims (off - r.base)

/-- The register description at an offset of a die. -/
def regRow (d off : Nat) : Option RegRow := regTable.find? fun r => r.at d off

/-- The Reset column (R7); an offset without a register reads 0. GLB_ROLE.LINK is 1 on K1; RST_CAUSE holds POR. -/
def regReset (d off : Nat) : Word :=
  if off = Reg.GLB_ROLE ∧ d = 19 then 1
  else if off = Reg.RST_CAUSE then 1
  else match regRow d off with
    | some r => BitVec.ofNat 32 r.reset
    | none => 0

/-- The value of a register. -/
def State.reg (s : State) (d off : Nat) : Word := Store.get (regReset (regHome d off) off) s.regs (regKey d off)

/-- A register given a value: what hardware or firmware places there. -/
def State.setReg (s : State) (d off : Nat) (v : Word) : State :=
  { s with regs := Store.set (regReset (regHome d off) off) s.regs (regKey d off) v }

/-- A field's value. -/
def State.getF (s : State) (d : Nat) (f : Fld) : Nat := bits (s.reg d f.off) f.hi f.lo

/-- A field given a value. -/
def State.setF (s : State) (d : Nat) (f : Fld) (v : Nat) : State := s.setReg d f.off (setBits (s.reg d f.off) f.hi f.lo v)

/-- A one-bit field. -/
def State.flag (s : State) (d : Nat) (f : Fld) : Bool := s.getF d f ≠ 0

/-- A list of dies' fields given a value. -/
def State.setFs (s : State) (ds : List Nat) (f : Fld) (v : Nat) : State := ds.foldl (fun s d => s.setF d f v) s

def computeDies : List Nat := List.range 16
def linkDies : List Nat := [16, 17]
def controlDies : List Nat := [18, 19]
def allDies : List Nat := List.range 20

/-- Registers in [lo, hi) of a die return to their reset values (R7). -/
def State.resetRegs (s : State) (d lo hi : Nat) : State :=
  { s with regs := Store.clear s.regs (d * 2 ^ 28 + lo) (d * 2 ^ 28 + hi) }

/-! The global stop (R436). -/

/-- The module holds at a global stop: DBG_STOP_STATUS.STATE is STOPPED or RESUMING. -/
def State.frozen (s : State) : Bool := 2 ≤ s.getF 18 .DBG_STOP_STATUS_STATE

/-! Counters (R12, R426-R428). -/

def arrCtr (p a k : Nat) : Nat := arrBase p a + 0x48 + 8 * k
def sprCtr (p k : Nat) : Nat := sprigBase p + 0x100 + 8 * k
def portCtr (k j : Nat) : Nat := portBase k + 0x100 + 8 * j
def dieCtr (k : Nat) : Nat := 0x141000 + 8 * k
def queCtr (p q k : Nat) : Nat := queueBase p q + 0x10 + 8 * k

def State.ctr (s : State) (d off : Nat) : BitVec 64 := Store.get 0 s.counters (regKey d off)

def State.setCtr (s : State) (d off : Nat) (v : BitVec 64) : State :=
  { s with counters := Store.set 0 s.counters (regKey d off) v }

/-- A counter advances; it wraps past 2^64 - 1 (R426). -/
def State.count (s : State) (d off n : Nat) : State := s.setCtr d off (s.ctr d off + BitVec.ofNat 64 n)

/-- A control-die counter of Table 15.4. -/
def State.countK (s : State) (k n : Nat) : State := s.count 18 (dieCtr k) n

def hdrLayer (h : List Byte) : Nat := fldBits h 2 3 19 0
def hdrOper (h : List Byte) : Nat := fldBits h 5 2 11 0
def hdrMbid (h : List Byte) : Nat := fld h 7 2

/-- Whether an event of a command counts under the filter in force on a die (R428); no command matches no enabled
field. -/
def State.counted (s : State) (d : Nat) (hdr : List Byte) : Bool :=
  let ok (en v : Fld) (x : Nat) : Bool := !s.flag d en || (!hdr.isEmpty && s.getF d v == x)
  ok .CNT_FLT_LAYER_EN .CNT_FLT_LAYER_LAYER (hdrLayer hdr) && ok .CNT_FLT_OPER_EN .CNT_FLT_OPER_OPER (hdrOper hdr) &&
    ok .CNT_FLT_MBID_EN .CNT_FLT_MBID_MBID (hdrMbid hdr)

/-- A counter marked F advances. -/
def State.countF (s : State) (d off n : Nat) (hdr : List Byte) : State :=
  if s.counted d hdr then s.count d off n else s

/-! Sprigs and the logical map (R169, R173). -/

def State.spr (s : State) (d p : Nat) : Sprig := Store.get Sprig.fresh s.sprigs (d * 272 + p)

def State.setSpr (s : State) (d p : Nat) (x : Sprig) : State :=
  { s with sprigs := Store.set Sprig.fresh s.sprigs (d * 272 + p) x }

def State.modSpr (s : State) (d p : Nat) (f : Sprig → Sprig) : State := s.setSpr d p (f (s.spr d p))

def Sprig.arr (x : Sprig) (a : Nat) : Arr := Store.get Arr.fresh x.arrs a
def Sprig.setArr (x : Sprig) (a : Nat) (r : Arr) : Sprig := { x with arrs := Store.set Arr.fresh x.arrs a r }
def Sprig.que (x : Sprig) (q : Nat) : Queue := Store.get Queue.fresh x.queues q
def Sprig.setQue (x : Sprig) (q : Nat) (r : Queue) : Sprig := { x with queues := Store.set Queue.fresh x.queues q r }
def Sprig.gpr (x : Sprig) (i : Nat) : BitVec 64 := Store.get 0 x.gprs i
def Sprig.setGpr (x : Sprig) (i : Nat) (v : BitVec 64) : Sprig := { x with gprs := Store.set 0 x.gprs i v }

def State.arr (s : State) (d p a : Nat) : Arr := (s.spr d p).arr a
def State.setArr (s : State) (d p a : Nat) (r : Arr) : State := s.modSpr d p fun x => x.setArr a r
def State.que (s : State) (d p q : Nat) : Queue := (s.spr d p).que q
def State.setQue (s : State) (d p q : Nat) (r : Queue) : State := s.modSpr d p fun x => x.setQue q r

/-- The physical sprig that runs a logical sprig (R169). -/
def State.physOf (s : State) (d l : Nat) : Nat :=
  let b := l / 16
  if s.flag d (.SPRG_MAP_SUBST_EN b) ∧ s.getF d (.SPRG_MAP_SUBST b) = l % 16 then 17 * b + 16 else 17 * b + l % 16

/-- A physical sprig's FAILED bit. -/
def State.failed (s : State) (d p : Nat) : Bool := (s.getF d (.SPRG_MAP_FAILED (p / 17))).testBit (p % 17)

/-- The logical sprig that a physical sprig runs; none for an unused spare, a replaced or a failed sprig (R173). -/
def State.logicalOf (s : State) (d p : Nat) : Option Nat :=
  let b := p / 17
  let subst := s.flag d (.SPRG_MAP_SUBST_EN b)
  if s.failed d p then none
  else if p % 17 = 16 then (if subst then some (16 * b + s.getF d (.SPRG_MAP_SUBST b)) else none)
  else if subst ∧ s.getF d (.SPRG_MAP_SUBST b) = p % 17 then none
  else some (16 * b + p % 17)

/-- SPRG_STATUS.STATE is OFFLINE: no logical sprig runs here. -/
def State.offline (s : State) (d p : Nat) : Bool := (s.logicalOf d p).isNone

/-- The QID of a queue of a physical sprig (R165). -/
def State.qid (s : State) (d p q : Nat) : Nat := d * 2 ^ 14 + ((s.logicalOf d p).getD 0) * 64 + q

/-! Queues (R160, R161, R168). -/

def Queue.full (q : Queue) : Bool := 64 ≤ q.entries.length
def Queue.tail (q : Queue) : Nat := (q.head + q.entries.length) % 64
/-- An enabled queue accepts entries (R174). -/
def Queue.accepts (q : Queue) : Bool := q.st = .enabled

def Queue.push (q : Queue) (e : QEntry) : Queue :=
  let es := q.entries ++ [e]
  { q with entries := es, sawEntry := true, sawFull := q.sawFull || decide (64 ≤ es.length) }

def Queue.pop (q : Queue) : Queue :=
  match q.entries with
  | [] => q
  | e :: t => { q with entries := t, head := (q.head + 1) % 64, lastHdr := e.bytes.take 16, sawEntry := true }

/-- The high-water mark follows the depth (QUE_HWM). -/
def State.raiseHwm (s : State) (d p q : Nat) : State :=
  let n := (s.que d p q).entries.length
  if s.getF d (.QUE_HWM_HWM p q) < n then s.setF d (.QUE_HWM_HWM p q) n else s

def State.popQ (s : State) (d p q : Nat) : State := s.setQue d p q (s.que d p q).pop

/-! Engines. -/

def engIx : EngineId → Nat
  | .chv => 0 | .ats => 1 | .nrm => 2 | .emb => 3 | .lay => 4 | .upd => 5 | .fnl => 6

def State.eng (s : State) (d : Nat) (e : EngineId) : Engine := Store.get Engine.fresh s.engines (d * 8 + engIx e)

def State.setEng (s : State) (d : Nat) (e : EngineId) (x : Engine) : State :=
  { s with engines := Store.set Engine.fresh s.engines (d * 8 + engIx e) x }

/-- EN of an engine's control register. -/
def engEn : EngineId → Fld
  | .chv => .CHV_CTL_EN | .ats => .ENG_CTL_EN 0 | .nrm => .ENG_CTL_EN 1 | .emb => .ENG_CTL_EN 2 | .lay => .ENG_CTL_EN 3
  | .upd => .UPD_CTL_EN | .fnl => .FNL_CTL_EN

/-- Free bytes (log 8): the next `n` of the stream. -/
def State.freeBytes (s : State) (n : Nat) : State × List Byte :=
  ({ s with fresh := s.fresh + n }, (List.range n).map fun i => Config.freeByte (s.fresh + i))

/-- Thyme reaches a time that an event happens at; it never runs backwards. -/
def State.advanceTo (s : State) (t : Nat) : State := { s with now := max s.now t }

end Sys2Proof.Machine
end

