-- ==== Sys2Proof/Machine/Events.lean ====
section
/-! DEFINITION. Event records, MSI-X signals, readiness and fault reports (R344, R354-R356, R362-R364, R367). -/

namespace Sys2Proof.Machine

/-- The active control die: 18 or 19 (R27). -/
def State.activeK (s : State) : Nat := if s.flag 19 .GLB_ROLE_ACTIVE then 19 else 18

/-- The step number of an event record: 0xFFFF_FFFF outside a job (Table 12.5). -/
def State.eventStep (s : State) : Word :=
  match s.job with
  | some j => if j.running then BitVec.ofNat 32 j.step else 0xFFFFFFFF#32
  | none => 0xFFFFFFFF#32

def State.modIx (s : State) : Nat := match s.job with | some j => j.modIx | none => 0x3FF

def State.chan (s : State) (l c : Nat) : Channel := Store.get Channel.fresh s.chans (l * 32 + c)

def State.setChan (s : State) (l c : Nat) (x : Channel) : State :=
  { s with chans := Store.set Channel.fresh s.chans (l * 32 + c) x }

/-- The control die that carries a host link. -/
def linkDie (l : Nat) : Nat := 18 + l

/-- A vector is signalled (R344). -/
def State.signal (s : State) (l v : Nat) : State :=
  { s with msix := Store.set 0 s.msix (l * 64 + v) (Store.get 0 s.msix (l * 64 + v) + 1) }

/-- A link's AER capability reports an error: its status holds it, and vector 33 signals (R339, R344). -/
def State.reportAer (s : State) (l : Nat) (bits : BitVec 2) : State :=
  { s with edge := { s.edge with aer := Store.set 0 s.edge.aer l (Store.get 0 s.edge.aer l ||| bits) } }.signal l 33

/-- The channel of an event class (Table 12.6). -/
def classChannel (cls : Nat) : Nat :=
  match cls with
  | 1 => 24 | 2 => 25 | 3 => 25 | 4 => 26 | 5 => 27 | 6 => 27 | _ => 28

/-- An event record (Table 12.5). -/
def State.record (s : State) (cls code : Nat) (payload : List Word) : List Word :=
  [BitVec.ofNat 32 (code % 256 * 256 + cls), BitVec.ofNat 32 s.now, BitVec.ofNat 32 (s.now / 2 ^ 32), s.eventStep] ++
    (payload ++ List.replicate (12 - payload.length) 0).take 12

/-- A heartbeat that waits is replaced by a later one (R355). -/
def isHeartbeat (r : List Word) : Bool := bits (r.getD 0 0) 7 0 = 2

/-- A record joins the queue of an event channel of a link; one that finds it full is lost and counted (R355). -/
def State.enqueue (s : State) (l : Nat) (r : List Word) : State :=
  let c := classChannel (bits (r.getD 0 0) 7 0)
  let ch := s.chan l c
  let qs := if isHeartbeat r then ch.queue.filter fun x => !isHeartbeat x else ch.queue
  if qs.length < 128 ∨ c = 24 then s.setChan l c { ch with queue := qs ++ [r] }
  else
    (s.setChan l c { ch with lost := ch.lost + 1, lostAt := if ch.lost = 0 then s.now else ch.lostAt }).countK
      (128 + 4 * c + 1) 1

/-- A link takes events: its HL bit and the MBX bit are set, its function is in D0 (R356) and the class is not
suppressed there (Table 12.7, EVT_MASK). -/
def State.linkTakes (s : State) (l cls : Nat) : Bool :=
  s.flag 18 .GLB_FUNC_READY_MBX && s.flag 18 (if l = 0 then .GLB_FUNC_READY_HL0 else .GLB_FUNC_READY_HL1) &&
    !s.d3.contains l && !((Store.get 0 s.evMask l).testBit cls)

/-- Milmar firmware generates an event: it goes to each link that takes it (R356). -/
def State.event (s : State) (cls code : Nat) (payload : List Word) : State :=
  let r := s.record cls code payload
  [0, 1].foldl (fun s l => if s.linkTakes l cls then s.enqueue l r else s) s

/-- A change of readiness: the bits, vector 32 on each link and a READY record (R362, R344). -/
def State.setReady (s : State) (w h : Word) : State :=
  let w0 := s.reg 18 Reg.GLB_FUNC_READY
  let h0 := s.reg 18 Reg.GLB_FUNC_READY_HI
  if w = w0 ∧ h = h0 then s
  else
    let s := (s.setReg 18 Reg.GLB_FUNC_READY w).setReg 18 Reg.GLB_FUNC_READY_HI h
    let s := (s.signal 0 32).signal 1 32
    s.event 3 0 [w, h, w ^^^ w0, h ^^^ h0]

/-- One readiness bit of GLB_FUNC_READY. -/
def State.setReadyBit (s : State) (i : Nat) (v : Bool) : State :=
  s.setReady (setBits (s.reg 18 Reg.GLB_FUNC_READY) i i v.toNat) (s.reg 18 Reg.GLB_FUNC_READY_HI)

/-- A fault entry of the current journal record, or, before one is open, of the next (R367); a 129th sets FAULT_OVF (R389). -/
def State.journalFault (s : State) (r : List Word) : State :=
  match s.journal with
  | none => { s with edge := { s.edge with waits := s.edge.waits ++ [r] } }
  | some j =>
    if j.faults.length < 128 then { s with journal := some { j with faults := j.faults ++ [r] } }
    else { s with journal := some { j with flags := j.flags ||| 16 } }.setF 18 .JRN_ERR_FAULT_OVF 1

/-- The index that the next fault entry takes in the fault section (Table 13.3, FIDX). -/
def State.faultIndex (s : State) : Nat := match s.journal with | some j => j.faults.length | none => s.edge.waits.length

/-- A FAULT event (R367, Tables 13.1 and 13.2): the part's die, unit and module, drop entries added, code-specific
words and how it stands. -/
def State.fault (s : State) (code die unit : Nat) (mod drops d6 d7 : Nat) (how : Nat) : State :=
  let p := [BitVec.ofNat 32 (unit % 512 * 32 + die % 32), BitVec.ofNat 32 (drops % 65536 * 65536 + mod % 1024),
    BitVec.ofNat 32 d6, BitVec.ofNat 32 d7, BitVec.ofNat 32 how]
  let s := (s.journalFault (s.record 5 code p)).countK (64 + code) 1
  let s := { s with edge := { s.edge with pins := { s.edge.pins with fault := s.edge.pins.fault || decide (how ≠ 0) } } }
  s.event 5 code p

/-- A fault of a part of this module. -/
def State.ownFault (s : State) (code die unit drops d6 d7 how : Nat) : State :=
  s.fault code die unit s.modIx drops d6 d7 how

/-- A DPA in two words (R346). -/
def dpaLo (a : Nat) : Nat := a % 2 ^ 32
def dpaHi (a : Nat) : Nat := a / 2 ^ 32 % 2 ^ 20

end Sys2Proof.Machine
end

