-- ==== Sys2Proof/Machine/MemOps.lean ====
section
/-! DEFINITION. Device memory: addresses, what is mapped, codewords and the stripe, reads and writes of a requester
(R234-R261). -/

namespace Sys2Proof.Machine

/-! Addresses (R5, R234-R239). -/

def dpa (d sp off : Nat) : Nat := d * 2 ^ 47 + sp * 2 ^ 44 + off
def dpaDie (a : Nat) : Nat := a / 2 ^ 47 % 32
def dpaSpace (a : Nat) : Nat := a / 2 ^ 44 % 8
def dpaOff (a : Nat) : Nat := a % 2 ^ 44

/-- The DPA of a byte of a physical sprig's SRAM (Table 9.1). -/
def sramDpa (d p x : Nat) : Nat := dpa d 2 (p * 0x100000 + x)

/-- The populated sprig SRAM: 768 KiB (R234). -/
def sramSize : Nat := 0xC0000

/-- DRAM of a compute die: 48 GiB, or 36 GiB on the A576 (R3, R234). -/
def State.dramSize (s : State) : Nat := if s.inv.mem = 1 then 0x900000000 else 0xC00000000

/-- The placer area ends where the firmware ranges of Table 9.2 begin. -/
def State.placerTop (s : State) : Nat := s.dramSize - 0x100000000

/-- The schedule cache share, journal share, firmware state range and capture regions (Table 9.2). -/
def State.cacheBase (s : State) : Nat := s.dramSize - 0x100000000
def State.journalBase (s : State) : Nat := s.dramSize - 0xA0000000
def State.fwBase (s : State) : Nat := s.dramSize - 0x90000000

/-- The die whose capture region holds an offset of a compute die's DRAM (Table 9.2). -/
def State.captureOf (s : State) (d off : Nat) : Option Nat :=
  if s.dramSize - 0x40000000 ≤ off then some d
  else if s.dramSize - 0x80000000 ≤ off then
    (if d = 0 then some 16 else if d = 8 then some 18 else if d = 7 then some 17 else if d = 15 then some 19 else none)
  else none

/-- A byte that a sprig DMA or an engine request may touch (R235, R236, R239, R468). -/
def State.jobMapped (s : State) (a : Nat) : Bool :=
  let d := dpaDie a; let off := dpaOff a
  decide (a < 2 ^ 52) && decide (d < 16) &&
    match dpaSpace a with
    | 0 => decide (off < s.placerTop)
    | 1 => decide (off < 0x4000000)
    | 2 => decide (off / 0x100000 < 272) && decide (off % 0x100000 < sramSize) && !s.offline d (off / 0x100000)
    | _ => false

/-- Two bytes lie in one space of one die, and in one sprig of sprig SRAM. -/
def sameBlock (a b : Nat) : Bool :=
  a / 2 ^ 44 == b / 2 ^ 44 && (dpaSpace a != 2 || dpaOff a / 0x100000 == dpaOff b / 0x100000)

/-- Every byte of a range is mapped to the job. -/
def State.jobRange (s : State) (a n : Nat) : Bool :=
  n == 0 || (s.jobMapped a && s.jobMapped (a + n - 1) && sameBlock a (a + n - 1))

/-- A byte that a host reaches through BAR4 (R235, R236, R239). -/
def State.hostMapped (s : State) (write : Bool) (a : Nat) : Bool :=
  let d := dpaDie a; let off := dpaOff a
  decide (a < 2 ^ 52) && decide (d < 16) &&
    match dpaSpace a with
    | 0 => decide (off < s.dramSize) &&
        ((s.captureOf d off).isNone || (!write && s.flag 18 .DBG_AUTH_STATUS_HELD))
    | 1 => decide (off < 0x4000000)
    | 2 => decide (off / 0x100000 < 272) && decide (off % 0x100000 < sramSize) && !s.offline d (off / 0x100000)
    | _ => false

def State.hostRange (s : State) (write : Bool) (a n : Nat) : Bool :=
  n == 0 || (s.hostMapped write a && s.hostMapped write (a + n - 1) && sameBlock a (a + n - 1))

/-! Bytes. -/

/-- One byte of memory; a byte that nothing has written reads 0 (log 4). -/
def State.byte (s : State) (a : Nat) : Byte := Store.get 0 s.mem a

def State.setByte (s : State) (a : Nat) (v : Byte) : State := { s with mem := Store.set 0 s.mem a v }

def State.bytes (s : State) (a : Nat) : Nat → List Byte
  | 0 => []
  | n + 1 => s.byte a :: s.bytes (a + 1) n

/-- Bytes placed in memory, with no check and no codeword. -/
def State.poke (s : State) : Nat → List Byte → State
  | _, [] => s
  | a, b :: bs => (s.setByte a b).poke (a + 1) bs

def xorBytes (a b : List Byte) : List Byte := List.zipWith (· ^^^ ·) a b

/-! Accumulator and queue memory (R93, R160, R239). -/

def accKey (d p a slot e : Nat) : Nat := ((d * 272 + p) * 4 + a) * 8192 + slot * 256 + e

/-- The window address of word i of an array's accumulator memory. -/
def accDpa (d p a i : Nat) : Nat := dpa d 3 (0x100000 * p + 0x20000 * a + 16 * i)

/-- A place of a queue in the queue memory of its sprig, 256 KiB a sprig. The spec gives queue memory no space code: 4 here, the
model's own number (log 108). -/
def queDpa (d p q k : Nat) : Nat := dpa d 4 (0x40000 * p + 0x1000 * q + 64 * (k % 64))

/-- The accumulator word that a byte of the window belongs to. -/
def winKey (a : Nat) : Nat :=
  let off := dpaOff a
  accKey (dpaDie a) (off / 0x100000) (off % 0x100000 / 0x20000) 0 0 + off % 0x20000 / 16

/-- The 16 bytes of a word's entry: the word, its tag, zeros. -/
def winBytes (v : BitVec 108) : List Byte := natLe 12 (bits v 95 0) ++ natLe 2 (bits v 107 96) ++ [0, 0]

def winWord (b : List Byte) : Nat := fld b 0 12 + fld b 12 2 % 4096 * 2 ^ 96

/-- The index of the entry at a place of a queue. -/
def Queue.entryAt (x : Queue) (k : Nat) : Option Nat :=
  let i := (k + 64 - x.head) % 64
  if i < x.entries.length then some i else none

/-! Codewords (R244-R251). -/

/-- The bytes of a codeword: 64 in DRAM, 32 elsewhere (accumulator words lie 16 apart, two to a codeword: R239, R247). -/
def cwSize (a : Nat) : Nat := if dpaSpace a = 0 then 64 else 32
def cwOf (a : Nat) : Nat := a - a % cwSize a
def codeAt (a : Nat) : Code := if dpaSpace a = 0 then codeDram else if dpaSpace a = 3 then codeAcc else codeSram

/-- The data that the codeword at an address was written with; a place that holds no entry has none, and reads 0. -/
def State.cwRaw (s : State) (a : Nat) : List Byte :=
  let c := cwOf a; let off := dpaOff c
  if dpaSpace a = 3 then winBytes (Store.get 0 s.acc (winKey c)) ++ winBytes (Store.get 0 s.acc (winKey c + 1))
  else if dpaSpace a = 4 then
    let x := s.que (dpaDie a) (off / 0x40000) (off % 0x40000 / 0x1000)
    match x.entryAt (off % 0x1000 / 64) with
    | some i => slice (match x.entries[i]? with | some e => e.bytes | none => []) (off % 64) 32
    | none => List.replicate 32 0
  else s.bytes c (cwSize a)

/-- The data of a codeword is replaced. -/
def State.cwPut (s : State) (a : Nat) (bs : List Byte) : State :=
  let c := cwOf a; let off := dpaOff c
  if dpaSpace a = 3 then
    let acc := Store.set 0 s.acc (winKey c) (BitVec.ofNat 108 (winWord (slice bs 0 16)))
    { s with acc := Store.set 0 acc (winKey c + 1) (BitVec.ofNat 108 (winWord (slice bs 16 16))) }
  else if dpaSpace a = 4 then
    let d := dpaDie a; let p := off / 0x40000; let q := off % 0x40000 / 0x1000
    let x := s.que d p q
    let write (e : QEntry) : QEntry := { e with bytes := splice e.bytes (off % 64) bs }
    match x.entryAt (off % 0x1000 / 64) with
    | some i => s.setQue d p q { x with entries := x.entries.modify i write }
    | none => s
  else s.poke c bs

/-- Bytes within one codeword are replaced. -/
def State.put (s : State) (a : Nat) (bs : List Byte) : State :=
  if dpaSpace a ≤ 2 then s.poke a bs else s.cwPut a (splice (s.cwRaw a) (a - cwOf a) bs)

/-- What the data part of a deviation makes of a codeword's data: an accumulator codeword's 27 data bytes are its two words with
their tags, 108 bits each (R247). -/
def cwXor (a : Nat) (dv : Deviation) (raw : List Byte) : List Byte :=
  if dpaSpace a = 3 then
    let v := leNat (codeAcc.dataXor dv (natLe 27 (winWord (slice raw 0 16) + winWord (slice raw 16 16) * 2 ^ 108)))
    winBytes (BitVec.ofNat 108 v) ++ winBytes (BitVec.ofNat 108 (v / 2 ^ 108))
  else (codeAt a).dataXor dv raw

/-- The decoding mode: CORRECT2 when ECC_CTL's field is 0 (Table 9.3). -/
def State.correct2 (s : State) (a : Nat) : Bool :=
  if dpaSpace a = 0 then !s.flag (dpaDie a) .ECC_CTL_DRAM_MODE else !s.flag (dpaDie a) .ECC_CTL_SRAM_MODE

def State.dev (s : State) (a : Nat) : Deviation := Store.get [] s.ecc (cwOf a)

def State.setDev (s : State) (a : Nat) (d : Deviation) : State := { s with ecc := Store.set [] s.ecc (cwOf a) d }

/-- ECC_LOG0-ECC_LOG2 capture the first uncorrectable codeword; a further one sets MORE (R264). -/
def State.eccCapture (s : State) (a src outcome : Nat) : State :=
  let d := dpaDie a
  if s.flag d .ECC_LOG0_VALID then s.setF d .ECC_LOG0_MORE 1
  else
    let sp := dpaSpace a
    let m := if sp ≤ 2 then sp else 3
    ((s.setReg d Reg.ECC_LOG0 (BitVec.ofNat 32 (2 ^ 31 + m * 2 ^ 28 + src * 2 ^ 26 + outcome * 2 ^ 24))).setReg d
      Reg.ECC_LOG1 (BitVec.ofNat 32 (dpaOff (cwOf a)))).setReg d
      Reg.ECC_LOG2 (BitVec.ofNat 32 (sp % 8 * 4096 + dpaOff a / 2 ^ 32 % 4096))

/-! The stripe (R254-R258). -/

/-- The stripe dies in increasing number (R254). -/
def State.stripe (s : State) : List Nat := setBitsOf 16 (s.getF 0 .MEM_PAR_MASK_MASK)
def State.parBase (s : State) : Nat := s.getF 0 .MEM_PAR_BASE_BASE * 2 ^ 26
def State.parBlocks (s : State) : Nat := s.getF 0 .MEM_PAR_BLOCKS_BLOCKS
def State.stgBase (s : State) : Nat := s.getF 0 .MEM_STG_BASE_BASE * 2 ^ 26

/-- A DRAM offset of a die lies in the protected region. -/
def State.isProtected (s : State) (d off : Nat) : Bool :=
  s.stripe.contains d && decide (s.parBase ≤ off ∧ off < s.parBase + s.parBlocks * s.stripe.length * 4096)

def State.rowOf (s : State) (off : Nat) : Nat := (off - s.parBase) / 4096

/-- The die that holds a row's parity unit. -/
def State.parityDie (s : State) (r : Nat) : Nat := s.stripe.getD (r % s.stripe.length) 0

/-- A DRAM address holds a parity unit (R254). -/
def State.isParity (s : State) (a : Nat) : Bool :=
  dpaSpace a == 0 && s.isProtected (dpaDie a) (dpaOff a) && s.parityDie (s.rowOf (dpaOff a)) == dpaDie a

/-- par_map: the DRAM offset and the parity die of a logical data offset of a die (R255). -/
def State.parMap (s : State) (d x : Nat) : Nat × Nat :=
  let n := s.stripe.length
  let i := s.stripe.idxOf d
  let u := x / 4096
  let b := u / (n - 1); let j := u % (n - 1)
  let pos := if j < i then j else j + 1
  let r := n * b + pos
  (s.parBase + r * 4096 + x % 4096, s.parityDie r)

/-- Where a survivor's placer area holds a row of a lost die until the relayout (R261): the placer's choice (log 49), outside the
stripe; none where there is no room. -/
def State.rescueAt (s : State) (f r : Nat) : Option Nat :=
  match Config.rescue (match s.job with | some j => j.groupPlan | none => 0) f r with
  | none => none
  | some (d, blk) =>
    if d < 16 ∧ !s.lostDies.contains d ∧ !s.isProtected d (4096 * blk) ∧ 4096 * blk + 4096 ≤ s.placerTop then some (dpa d 0 (4096 * blk))
    else none

/-- The staging address of a source's deltas for byte `off` of row `r` (R257). -/
def State.stgAddr (s : State) (src r off : Nat) : Nat :=
  dpa (s.parityDie r) 0 (s.stgBase + src * (s.parBlocks * 4096) + r / s.stripe.length * 4096 + off)

/-- The staging unit that holds an address: source die and row. -/
def State.stgUnit (s : State) (a : Nat) : Option (Nat × Nat) :=
  let d := dpaDie a; let off := dpaOff a; let sz := s.parBlocks * 4096
  if dpaSpace a = 0 ∧ s.stripe.contains d ∧ sz ≠ 0 ∧ s.stgBase ≤ off ∧ off < s.stgBase + 16 * sz then
    let src := (off - s.stgBase) / sz
    some (src, s.stripe.length * ((off - s.stgBase) % sz / 4096) + s.stripe.idxOf d)
  else none

def State.part (s : State) (holder src : Nat) : StgPart := Store.get StgPart.clear s.parts (holder * 16 + src)

def State.setPart (s : State) (holder src : Nat) (x : StgPart) : State :=
  { s with parts := Store.set StgPart.clear s.parts (holder * 16 + src) x }

/-- An uncorrectable codeword that no rebuild answers: ECC_ERR.UE, counted and captured (R250, R264). -/
def State.uncorrected (s : State) (a src outcome : Nat) : State :=
  let d := dpaDie a
  (((s.setF d .ECC_ERR_UE 1).count d (dieCtr 15) 1).eccCapture a src outcome)

/-- An uncorrectable staging codeword (R259): it is counted and captured, its unit is cleared and its row is unprotected; a second one
in the row is a double fault: the capture says that a rebuild is impossible, and 0x04 of Table 13.1 is reported. `log`: the source. -/
def State.stagingUe (s : State) (log a0 src r : Nat) : State :=
  let h := s.parityDie r
  let double := s.unprotected.contains r
  let s := s.uncorrected a0 log (if double then 2 else 0)
  let x := s.part h src
  let a := s.stgAddr src r 0
  let s := s.setPart h src { x with touched := x.touched.filter (· ≠ r) }
  let s := { s with mem := Store.clear s.mem a (a + 4096), ecc := Store.clear s.ecc a (a + 4096) }
  if double then
    let off := dpaOff (cwOf a0)
    (s.setF h .MEM_ERR_REBUILD_FAIL 1).ownFault 0x04 h (off / 2 ^ 8 % 32 ^^^ off / 2 ^ 13 % 32) 0 (dpaLo (cwOf a0)) (dpaHi (cwOf a0)) 1
  else { s with unprotected := s.unprotected ++ [r] }

/-- A codeword was corrected: ECC_ERR.CE, one codeword and its symbols counted. -/
def State.corrected (s : State) (d n : Nat) : State :=
  ((s.setF d .ECC_ERR_CE 1).count d (dieCtr 13) 1).count d (dieCtr 14) n

/-- A codeword in poison form was read (R251): ECC_ERR.POISONED; a further symbol error counts as a corrected codeword. -/
def State.poisonRead (s : State) (d : Nat) (fix : Deviation) : State :=
  let s := s.setF d .ECC_ERR_POISONED 1
  if fix = [] then s else s.corrected d 1

/-- The data a reader of the codeword gets, after correction. -/
def State.cwData (s : State) (a : Nat) : List Byte :=
  let d := s.dev a
  let raw := s.cwRaw a
  if d = [] then raw
  else
    let c := codeAt a
    match c.decode (s.correct2 a) d with
    | .corrected fix => cwXor a (c.apply d fix) raw
    | .poisoned fix => cwXor a (c.apply d fix) raw
    | _ => cwXor a d raw

/-- The data of a codeword as read is stored, as a normal codeword or in poison form. -/
def State.rewrite (s : State) (a : Nat) (poison : Bool) : State :=
  (s.cwPut a (s.cwData a)).setDev a (if poison then (codeAt a).poison else [])

/-- The codewords that a range touches. -/
def cwsOf (a n : Nat) : List Nat :=
  if n = 0 then []
  else (List.range ((cwOf (a + n - 1) - cwOf a) / cwSize a + 1)).map fun i => cwOf a + i * cwSize a

/-- What the readers of a range get (R250): the data of its codewords, after correction. -/
def State.view (s : State) (a n : Nat) : List Byte :=
  let cs := cwsOf a n
  if dpaSpace a ≤ 2 ∧ (cs.all fun c => s.dev c = []) then s.bytes a n
  else ((cs.flatMap s.cwData).drop (a - cwOf a)).take n

/-- A delta XOR-accumulates into one staging codeword (R257): its read decodes it as any read does, and the result is a normal
codeword, or stays in poison form (R248, R251); an uncorrectable one clears its unit (R259). -/
def State.xorCw (s : State) (src r a : Nat) (bs : List Byte) : State :=
  let d := dpaDie a
  match (codeAt a).decode (s.correct2 a) (s.dev a) with
  | .good => s.poke a (xorBytes (s.bytes a bs.length) bs)
  | .corrected fix =>
    let s := (s.corrected d fix.length).rewrite a false
    s.poke a (xorBytes (s.bytes a bs.length) bs)
  | .poisoned fix =>
    let s := (s.poisonRead d fix).rewrite a true
    s.poke a (xorBytes (s.bytes a bs.length) bs)
  | .uncorrectable => s.stagingUe 0 a src r

/-- A delta reaches the staging area and XOR-accumulates (R257). -/
def State.deliver (s : State) (x : Delta) : State :=
  let h := x.holder
  let pt := s.part h x.src
  let tag := (x.layer, x.step)
  let mixed := match pt.tag with | none => false | some t => decide (t ≠ tag)
  let s := s.setPart h x.src
    { tag := some (pt.tag.getD tag), mixed := pt.mixed || mixed,
      touched := if pt.touched.contains x.row then pt.touched else pt.touched ++ [x.row] }
  let s := if mixed then s.setF h .MEM_ERR_STGMIX 1 else s
  let a := s.stgAddr x.src x.row x.off
  (cwsOf a x.data.length).foldl (fun s c =>
    let lo := max a c
    let hi := min (a + x.data.length) (c + cwSize a)
    s.xorCw x.src x.row lo ((x.data.drop (lo - a)).take (hi - lo))) s

/-- Every delta of a row is acknowledged before a snapshot (R258). -/
def State.deliverRow (s : State) (r : Nat) : State :=
  let mine := s.deltas.filter fun x => x.row = r
  mine.foldl State.deliver { s with deltas := s.deltas.filter fun x => x.row ≠ r }

/-- The stored codeword at an address can be read: no error, or a correctable one. -/
def State.readable (s : State) (a : Nat) : Bool :=
  match (codeAt a).decode (s.correct2 a) (s.dev a) with
  | .good => true | .corrected _ => true | _ => false

/-- The expression of R258 for `n` bytes at offset `o` of the unit of row `r` on die F. -/
def State.rebuildValue (s : State) (f r o n : Nat) : List Byte :=
  let pd := s.parityDie r
  let data := s.stripe.filter (· ≠ pd)
  let unit (d : Nat) : List Byte := s.view (dpa d 0 (s.parBase + r * 4096 + o)) n
  let stg (j : Nat) : List Byte := s.view (s.stgAddr j r o) n
  if f = pd then data.foldl (fun a j => xorBytes a (xorBytes (unit j) (stg j))) (List.replicate n 0)
  else
    let a := (data.filter (· ≠ f)).foldl (fun a j => xorBytes a (unit j)) (unit pd)
    data.foldl (fun a j => xorBytes a (stg j)) a

/-- A codeword that a rebuild's snapshot reads (R258): decoded as any read is; an uncorrectable one is captured with source
"rebuild snapshot", and a unit's is rewritten in poison form (R250), a staging unit cleared (R259). -/
def State.snapRead (s : State) (a : Nat) : State :=
  let d := dpaDie a
  match (codeAt a).decode (s.correct2 a) (s.dev a) with
  | .good => s
  | .corrected fix => s.corrected d fix.length
  | .poisoned fix => s.poisonRead d fix
  | .uncorrectable =>
    match s.stgUnit a with
    | some (j, r) => s.stagingUe 2 a j r
    | none => (s.uncorrected a 2 2).rewrite a true

/-- The snapshot of a rebuild of one codeword: every other unit of the row, and the staged units. -/
def State.snapshot (s : State) (f r o : Nat) : State :=
  let pd := s.parityDie r
  s.stripe.foldl (fun s j =>
    let s := if j = f ∨ s.lostDies.contains j then s else s.snapRead (dpa j 0 (s.parBase + r * 4096 + o))
    if j = pd then s else s.snapRead (s.stgAddr j r o)) s

/-- Whether the rest of a row can be read for a rebuild: every other unit and staging codeword is readable, every die of
the row is there, and the row is protected (R259). -/
def State.rebuildable (s : State) (f r o : Nat) : Bool :=
  let pd := s.parityDie r
  !s.unprotected.contains r && s.stripe.all fun j =>
    (j == f || (s.readable (dpa j 0 (s.parBase + r * 4096 + o)) && !s.lostDies.contains j)) &&
      (j == pd || s.readable (s.stgAddr j r o))

/-- Firmware's answer to an uncorrectable codeword of its own ranges (Table 13.1, 0x03): a journal copy is rewritten
from its twin copy, a damaged cache entry is evicted. -/
def State.repairFirmware (s : State) (a : Nat) : State :=
  let d := dpaDie a; let off := dpaOff (cwOf a)
  if dpaSpace a ≠ 0 ∨ off < s.cacheBase then s
  else if off < s.journalBase then
    { s with cache := Store.del s.cache ((off - s.cacheBase) / 0x1800000) }
  else if off < s.fwBase then
    let ix := (off - s.journalBase) / 0x10000
    let twin := dpa ((d + 8) % 16) 0 (s.journalBase + (if ix % 2 = 0 then ix + 1 else ix - 1) * 0x10000 + off % 0x10000)
    if s.readable twin then
      ((s.poke (cwOf a) (s.cwData twin)).setDev a []).setF 18 .JRN_ERR_COPY 1
    else s
  else s

/-- A codeword is read (R251): what its decoding changes, and whether a reader gets data. `src`: 0 a read, 1 scrub. -/
def State.cwRead (s : State) (src a : Nat) : State × Bool :=
  let d := dpaDie a
  let dv := s.dev a
  if dv = [] then (s, true)
  else
    let c := codeAt a
    match c.decode (s.correct2 a) dv with
    | .good => (s, true)
    | .corrected fix =>
      let s := s.corrected d fix.length
      (if src = 1 then s.rewrite a false else s, true)
    | .poisoned fix =>
      let s := s.poisonRead d fix
      (if src = 1 ∧ fix ≠ [] then s.rewrite a true else s, false)
    | .uncorrectable =>
      let off := dpaOff (cwOf a)
      let r := s.rowOf off
      let o := (off - s.parBase) % 4096
      match s.stgUnit a with
      | some (j, r) => (s.stagingUe src a j r, false)
      | none =>
        let prot := dpaSpace a = 0 ∧ s.isProtected d off
        let s := if prot then s.deliverRow r else s
        let able := prot ∧ s.rebuildable d r o
        let s := if prot then s.snapshot d r o else s
        if able then
          let v := s.rebuildValue d r o 64
          let s := (s.poke (cwOf a) v).setDev a []
          let s := ((s.setF d .ECC_ERR_REBUILT 1).count d (dieCtr 16) 1).eccCapture a src 1
          (s.ownFault 0x02 d (off / 2 ^ 8 % 32 ^^^ off / 2 ^ 13 % 32) 0 (dpaLo (cwOf a)) (dpaHi (cwOf a)) 0, true)
        else
          let s := (s.rewrite a true).uncorrected a src (if prot then 2 else 0)
          let s := if prot then s.setF d .MEM_ERR_REBUILD_FAIL 1 else s
          let s := s.ownFault (if prot then 0x04 else 0x03) d (off / 2 ^ 8 % 32 ^^^ off / 2 ^ 13 % 32) 0 (dpaLo (cwOf a))
            (dpaHi (cwOf a)) (if prot then 1 else 0)
          (s.repairFirmware a, false)

/-- A requester reads a range: each codeword is decoded, and the read fails when one gives no data (R250). -/
def State.readRange (s : State) (a n : Nat) : State × Bool × List Byte :=
  let (s, ok) := (cwsOf a n).foldl (fun (x : State × Bool) c => let y := x.1.cwRead 0 c; (y.1, x.2 && y.2)) (s, true)
  (s, ok, s.view a n)

/-- Firmware reads a range (R249-R251): each codeword is decoded, and the bytes of one that gives no data are free values (log 8). -/
def State.firmRead (s : State) (a n : Nat) : State × List Byte :=
  (cwsOf a n).foldl (fun (acc : State × List Byte) c =>
    let lo := max a c
    let k := min (a + n) (c + cwSize a) - lo
    let (s, ok) := acc.1.cwRead 0 c
    if ok then (s, acc.2 ++ s.view lo k)
    else
      let (s, b) := s.freeBytes k
      (s, acc.2 ++ b)) (s, [])

/-- A requester writes bytes of one codeword (R248): a whole codeword stores a normal codeword; a shorter write merges
into what the read finds. -/
def State.writeCw (s : State) (a : Nat) (bs : List Byte) : State :=
  if s.dev a = [] then s.put a bs
  else if bs.length = cwSize a then (s.put a bs).setDev a []
  else
    let (s, ok) := s.cwRead 0 a
    (s.rewrite a (!ok && s.dev a != [])).put a bs

/-- A requester writes a range, codeword by codeword. -/
def State.writeRange (s : State) (a : Nat) (bs : List Byte) : State :=
  (cwsOf a bs.length).foldl (fun s c =>
    let lo := max a c
    let hi := min (a + bs.length) (c + cwSize a)
    s.writeCw lo ((bs.drop (lo - a)).take (hi - lo))) s

/-- A range holds no byte of a parity unit (R256); otherwise the write is discarded. -/
def State.touchesParity (s : State) (a n : Nat) : Bool := (cwsOf a n).any s.isParity

/-- What a requester's write answers: OK, or DENIED with MEM_ERR.PARWRITE (R256). -/
def State.requestWrite (s : State) (a : Nat) (bs : List Byte) : State × Bool :=
  if s.touchesParity a bs.length then (s.setF (dpaDie a) .MEM_ERR_PARWRITE 1, false) else (s.writeRange a bs, true)

/-- Undefined bytes of a range (R170, R174, R181, R250): free values (log 8). -/
def State.scramble (s : State) (a n : Nat) : State :=
  let (s, bs) := s.freeBytes n
  s.poke a bs

/-- A started transfer or request that no longer runs leaves its destination undefined. -/
def State.scrambleAll (s : State) (rs : List (Nat × Nat)) : State := rs.foldl (fun s r => s.scramble r.1 r.2) s

/-! Accumulator and queue codewords (R247, R248, R250). -/

/-- An accumulator word is about to be written alone: its codeword is read, and the merge that follows leaves it normal, or in poison
form (R248). -/
def State.accMerge (s : State) (d p a slot e : Nat) : State :=
  let w := accDpa d p a (slot * 256 + e)
  if s.dev w = [] then s
  else
    let (s, ok) := s.cwRead 0 w
    s.rewrite w (!ok && s.dev w != [])

/-- Whole codewords of a slot are written: they are normal codewords (R251). -/
def State.accFresh (s : State) (d p a slot : Nat) : State :=
  { s with ecc := Store.clear s.ecc (accDpa d p a (slot * 256)) (accDpa d p a (slot * 256 + 256)) }

/-- The accumulator codewords of a slot are read; whether every one gives data. -/
def State.readSlot (s : State) (d p a slot : Nat) : State × Bool :=
  (List.range 128).foldl (fun (x : State × Bool) i =>
    let y := x.1.cwRead 0 (accDpa d p a (slot * 256 + 2 * i))
    (y.1, x.2 && y.2)) (s, true)

/-- The accumulator word that a reader gets, after correction. -/
def State.accView (s : State) (d p a slot e : Nat) : BitVec 108 :=
  let w := accDpa d p a (slot * 256 + e)
  if s.dev w = [] then Store.get 0 s.acc (accKey d p a slot e) else BitVec.ofNat 108 (winWord (s.view w 16))

/-- An entry enters a queue that has room: its place holds normal codewords. -/
def State.pushQ (s : State) (d p q : Nat) (e : QEntry) : State :=
  let x := s.que d p q
  let a := queDpa d p q (x.head + x.entries.length)
  ({ s with ecc := Store.clear s.ecc a (a + 64) }.setQue d p q (x.push e)).raiseHwm d p q

/-- The head entry of a queue is read (R250): its two granules are decoded, and the reader gets their data, or none. -/
def State.readHead (s : State) (d p q : Nat) : State × Bool :=
  let x := s.que d p q
  let a := queDpa d p q x.head
  if x.entries.isEmpty ∨ (s.dev a = [] ∧ s.dev (a + 32) = []) then (s, true)
  else
    let (s, ok) := s.cwRead 0 a
    let (s, ok') := s.cwRead 0 (a + 32)
    ((s.cwPut a (s.cwData a)).cwPut (a + 32) (s.cwData (a + 32)), ok && ok')

/-! Logical data offsets (R255). -/

/-- The pieces of a logical range that lie within one unit each. -/
def unitPieces (x n : Nat) : List (Nat × Nat) :=
  if n = 0 then []
  else (List.range ((x + n - 1) / 4096 + 1 - x / 4096)).map fun i =>
    let lo := max x ((x / 4096 + i) * 4096)
    (lo, min (x + n) ((x / 4096 + i + 1) * 4096) - lo)

/-- The address of a byte at a logical data offset of a die (R255): in its stripe units, or, from the loss of a die until the relayout,
in the survivors' placer areas (R261). -/
def State.logAddr (s : State) (d x : Nat) : Nat :=
  let off := (s.parMap d x).1
  if s.lostDies.contains d then (s.rescueAt d (s.rowOf off)).getD 0 + off % 4096 else dpa d 0 off

/-- The bytes at a logical data offset of a die, read as any memory is (R249, R250). -/
def State.logBytes (s : State) (d x n : Nat) : State × List Byte :=
  (unitPieces x n).foldl (fun (acc : State × List Byte) q =>
    let (s, b) := acc.1.firmRead (acc.1.logAddr d q.1) q.2
    (s, acc.2 ++ b)) (s, [])

/-- Bytes written at a logical data offset of a die. -/
def State.logWrite (s : State) (d x : Nat) (bs : List Byte) : State :=
  (unitPieces x bs.length).foldl (fun s q => s.writeRange (dpa d 0 (s.parMap d q.1).1) ((bs.drop (q.1 - x)).take q.2)) s

/-! Parity deltas (R230). -/

/-- Bytes of protected state of one unit change: the delta is on its way to its parity die's staging area. -/
def State.sendDelta (s : State) (a : Nat) (old new : List Byte) (layer step : Nat) : State :=
  let d := dpaDie a; let off := dpaOff a
  if old = new ∨ dpaSpace a ≠ 0 ∨ !s.isProtected d off then s
  else
    let r := s.rowOf off
    { s with deltas := s.deltas ++ [{ src := d, holder := s.parityDie r, row := r, off := (off - s.parBase) % 4096,
                                      data := xorBytes old new, layer := layer, step := step }] }

/-- Undefined bytes over state that an update keeps: what each unit of 4,096 bytes changes is sent as its delta, so that the
data XOR what is staged stays the state of the last commit (R211, R232). -/
def State.scrambleTracked (s : State) (rs : List (Nat × Nat)) (layer step : Nat) : State :=
  rs.foldl (fun s r =>
    let units := (List.range (if r.2 = 0 then 0 else (r.1 + r.2 - 1) / 4096 + 1 - r.1 / 4096)).map fun i => (r.1 / 4096 + i) * 4096
    units.foldl (fun s u =>
      let lo := max u r.1
      let n := min (u + 4096) (r.1 + r.2) - lo
      let old := s.bytes lo n
      let s := s.scramble lo n
      s.sendDelta lo old (s.bytes lo n) layer step) s) s

/-- Undefined bytes over the destinations of a transfer: none when a byte of them is unmapped or in a parity unit, since such a
transfer moves nothing (R235, R256). -/
def State.scrambleDests (s : State) (rs : List (Nat × Nat)) : State :=
  if (rs.all fun r => s.jobRange r.1 r.2) && !(rs.any fun r => s.touchesParity r.1 r.2) then s.scrambleAll rs else s

end Sys2Proof.Machine
end

