-- ==== Sys2Proof/Machine/QueueOps.lean ====
section
/-! DEFINITION. Return codes, completion entries, event queues, commands in flight and drop entries
(R157, R161, R163, R363, R370-R372, R466). -/

namespace Sys2Proof.Machine

/-! Return codes (Table 12.4). -/
def rcOk : Nat := 0x00
def rcPending : Nat := 0x01
def rcNotReady : Nat := 0x02
def rcBusy : Nat := 0x03
def rcBadOpcode : Nat := 0x04
def rcBadArg : Nat := 0x05
def rcNoResource : Nat := 0x06
def rcDenied : Nat := 0x07
def rcTimeout : Nat := 0x08
def rcPartial : Nat := 0x09
def rcAborted : Nat := 0x0A
def rcCancelled : Nat := 0x0B
def rcStreamAlias : Nat := 0x0C
def rcFenceWait : Nat := 0x0D
def rcFault : Nat := 0x0E
def rcGeneration : Nat := 0x0F
def rcNoJob : Nat := 0x10
def rcJobLoaded : Nat := 0x11
def rcImageBad : Nat := 0x12
def rcNoRecord : Nat := 0x13
def rcDescBad : Nat := 0x14

/-! Fields of a command (Table 6.1). -/
def cmdClass (b : List Byte) : Nat := fldBits b 0 1 7 5
def cmdOp (b : List Byte) : Nat := fldBits b 0 1 4 0
def cmdTwait (b : List Byte) : Bool := fldBits b 1 1 7 7 = 1
def cmdCompl (b : List Byte) : Bool := fldBits b 1 1 6 6 = 1
def cmdFence (b : List Byte) : Bool := fldBits b 1 1 5 5 = 1
def cmdCq (b : List Byte) : Nat := fldBits b 1 1 2 0
def cmdEpoch (b : List Byte) : Nat := fld b 9 2
def cmdTid (b : List Byte) : Nat := fld b 11 3
def cmdTickLo (b : List Byte) : Nat := fld b 14 2

/-! WAIT_ON values (Table 6.10). -/
def woEntry (qid : Nat) : Nat := 1 * 2 ^ 28 + qid
def woSpace (qid : Nat) : Nat := 2 * 2 ^ 28 + qid
def woTick (t : Nat) : Nat := 3 * 2 ^ 28 + t % 2 ^ 24
def woBarrier (id : Nat) : Nat := 4 * 2 ^ 28 + id
def woSlot (die l a : Nat) (stationary : Bool) (slot : Nat) : Nat :=
  5 * 2 ^ 28 + die * 2 ^ 23 + l * 2 ^ 13 + a * 2 ^ 11 + stationary.toNat * 2 ^ 10 + slot
def woEngine (die e : Nat) : Nat := 6 * 2 ^ 28 + die * 2 ^ 23 + e
def woChannel (die ch : Nat) : Nat := 8 * 2 ^ 28 + die * 2 ^ 23 + ch
def woPort (die port : Nat) : Nat := 9 * 2 ^ 28 + die * 2 ^ 23 + port
def woReduction (rid : Nat) : Nat := 10 * 2 ^ 28 + rid

/-- A completion entry (Table 6.9). -/
def completionEntry (hdr : List Byte) (status evt src fpx step : Nat) (detail : List Byte) : List Byte :=
  slice hdr 0 16 ++ [BitVec.ofNat 8 status, BitVec.ofNat 8 evt, 0, 0] ++ natLe 4 src ++ natLe 4 (fpx % 32) ++
    natLe 4 step ++ slice detail 0 32

/-- The DETAIL of an engine's completion that has nothing to tell: the attention-stream engine names no refused row (Table 7.1). -/
def noDetail (e : Nat) : List Byte := if e = 1 then natLe 4 0 ++ natLe 4 0 ++ natLe 4 0xFFFFFFFF else []

/-! Drop entries (R370-R372, R374). -/

/-- The stage of a layer: its block's stage (R272). -/
def Job.stageOf (j : Job) (layer : Nat) : Nat :=
  match j.graph.layers.find? fun r => r.layer = layer with
  | some r => r.block * (j.cut.pp * j.cut.v) / j.graph.nblock
  | none => 0

def Drop.bytes (x : Drop) : List Byte :=
  natLe 2 x.lo ++ natLe 2 x.nm1 ++ natLe 2 x.stage0 ++ natLe 2 x.stride ++ natLe 2 x.n ++ natLe 1 x.cause ++ [0] ++
    natLe 4 x.fidx

/-- A drop entry excludes an MBID from a stage (R371). -/
def Drop.covers (x : Drop) (mbid stage : Nat) : Bool :=
  decide (x.lo ≤ mbid ∧ mbid ≤ x.lo + x.nm1 ∧ x.stage0 ≤ stage) &&
    decide ((stage - x.stage0) % x.stride = 0 ∧ (stage - x.stage0) / x.stride < x.n)

/-- The order of the drop list (R374). -/
def Drop.before (x y : Drop) : Bool :=
  decide (x.lo < y.lo ∨ (x.lo = y.lo ∧ (x.stage0 < y.stage0 ∨ (x.stage0 = y.stage0 ∧ x.cause < y.cause))))

/-- CRC-32 of a module's drop list (R374). -/
def Job.dropsCrc (j : Job) : Word := crc32 (j.drops.flatMap Drop.bytes)

def insertDrop (x : Drop) : List Drop → List Drop
  | [] => [x]
  | y :: t => if x = y then y :: t else if x.before y then x :: y :: t else y :: insertDrop x t

/-- Whether (MBID, layer) is excluded in the step (R370). -/
def Job.excluded (j : Job) (mbid layer : Nat) : Bool := j.drops.any fun x => x.covers mbid (j.stageOf layer)

/-- A tensor of the graph. -/
def Job.tensor (j : Job) (tid : Nat) : Option TensorRec := j.graph.tensors.find? fun t => t.tid = tid

/-- An element's bytes in the tensor's stored format (R394). -/
def Job.storedBytes (j : Job) (tid : Nat) : Nat :=
  match j.tensor tid with
  | some t => if t.fmt = 3 ∨ t.fmt = 4 then 4 else 2
  | none => 2

/-- The contributing set of a tensor in the step (R372). -/
def Job.contributing (j : Job) (tid : Nat) : List Nat :=
  let layer := match j.tensor tid with | some t => t.layer | none => 0
  (List.range (j.cut.dp * j.cut.mb)).filter fun b => layer == 0 || !j.excluded b layer

/-- No micro-batch contributes to a layer in the step (R216, R372). -/
def Job.noneContribute (j : Job) (layer : Nat) : Bool :=
  layer != 0 && (List.range (j.cut.dp * j.cut.mb)).all fun b => j.excluded b layer

/-- A replay is in progress: its drop lists are the journaled ones, and live faults add none (R390). -/
def State.replaying (s : State) : Bool := s.flag 18 .JRN_STATUS_REPLAY

/-- A tile that was added leaves its exchange buffer, as a CONTRIB with NEG of it does (R323, R373). -/
def State.takeTile (s : State) (rid : Nat) (x : Tile) : State :=
  let n := x.bytes.length / 2
  let b := s.view x.buf (4 * n)
  let s := s.writeRange x.buf ((List.range n).flatMap fun i =>
    natLe 4 (lowBits 32 (sx 32 (fld b (4 * i) 4) - sx 16 (fld x.bytes (2 * i) 2))))
  let less (r : Reduction) : Reduction :=
    if r.rid = rid then
      { r with tiles := r.tiles.erase x,
               sets := r.sets.map fun y => if y.1 = x.buf then (y.1, y.2.filter (· ≠ x.mbid)) else y }
    else r
  { s with edge := { s.edge with fnl := { s.edge.fnl with reds := s.edge.fnl.reds.map less } } }

/-- Every tile of the units that a drop list excludes is subtracted (R373). -/
def State.takeTiles (s : State) (k : Job) : State :=
  let layer (tid : Nat) : Nat := match k.tensor tid with | some t => t.layer | none => 0
  let out (x : Tile) : Bool := layer x.tid != 0 && k.excluded x.mbid (layer x.tid)
  (s.edge.fnl.reds.flatMap fun r => (r.tiles.filter out).map fun x => (r.rid, x)).foldl (fun s y => s.takeTile y.1 y.2) s

/-- The drop list changes: tiles of the units that it excludes are subtracted (R373), and a completed XREDUCE whose tensor's
contributing set changes with it reruns from the retained buffers (R374). -/
def State.putDrops (s : State) (j : Job) (ds : List Drop) : State :=
  let k := { j with drops := ds.take 256 }
  let s := s.takeTiles k
  let hit (x : Nat × FWait) : Bool := let tid := fld x.2.desc 4 3; j.contributing tid != k.contributing tid
  let s := { s with job := some k }
  let redo := s.edge.fnl.done.filter hit
  if redo.isEmpty then s
  else
    let put (w : Store (List FWait)) (x : Nat × FWait) : Store (List FWait) :=
      Store.set [] w x.1 (Store.get [] w x.1 ++ [{ x.2 with redo := true }])
    { s with edge := { s.edge with fnl := { s.edge.fnl with
        done := s.edge.fnl.done.filter (fun x => !hit x), waits := redo.foldl put s.edge.fnl.waits } } }

/-! The abort of a step (R381). -/

/-- Firmware starts an abort: a barrier frame carries the target time, at least 256 ns ahead. -/
def State.requestAbort (s : State) : State :=
  match s.job with
  | some j =>
    if j.running ∧ s.edge.abortAt.isNone then
      let t := s.now + 256
      { s with edge := { s.edge with abortAt := some t }, outbox := s.outbox ++ [Sent.barrier 2 0 t] }
    else s
  | none => s

/-- The drop list of the step is closed: its exchange-to-update barrier has released (R375). -/
def State.dropsClosed (s : State) (j : Job) : Bool := j.phase == 3 || s.edge.boundary == some 3

/-- Drop entries join the step's list, and go to every module (R374), until the list closes (R375); a 257th entry is not held, and the
step is aborted (R389). -/
def State.addDrops (s : State) (xs : List Drop) : State :=
  match s.job with
  | none => s
  | some j =>
    if j.running = false ∨ s.dropsClosed j ∨ s.replaying then s
    else
      let ds := xs.foldl (fun a x => insertDrop x a) j.drops
      let s := s.putDrops j ds
      let s := { s with outbox := s.outbox ++ [Sent.drops (xs.map Drop.bytes)] }.countK 4 xs.length
      if 256 < ds.length then s.requestAbort else s

/-- A unit is a forward one: its operator belongs to the forward phase, in whichever phase it runs (R286, R370). -/
def Job.forward (j : Job) (layer oper : Nat) : Bool :=
  match j.graph.opers.find? fun o => o.layer = layer ∧ o.oper = oper with
  | some o => o.phase == 0
  | none => j.phase == 0

/-- The drop entry of a skipped unit (R370): a forward unit excludes its MBID from every stage, a backward unit of stage
j from stages 0 to j. -/
def Job.unitDrop (j : Job) (mbid layer oper cause fidx : Nat) : Drop :=
  { lo := mbid, nm1 := 0, stage0 := 0, stride := 1,
    n := if j.forward layer oper then j.cut.pp * j.cut.v else j.stageOf layer + 1, cause := cause, fidx := fidx }

/-- The FAULT event that has just been raised names the drop entries that its consumer's skipped unit adds (Table 13.2): in the journal,
and in the event records that have not been posted. -/
def State.nameDrops (s : State) (code n : Nat) : State :=
  let is (r : List Word) : Bool := bits (r.getD 0 0) 15 0 == code * 256 + 5
  let mark (r : List Word) : List Word := r.set 5 (r.getD 5 0 + BitVec.ofNat 32 (n * 65536))
  let last (q : List (List Word)) : List (List Word) :=
    match q.getLast? with
    | some r => if is r then q.dropLast ++ [mark r] else q
    | none => q
  let s := { s with journal := s.journal.map fun j => { j with faults := last j.faults } }
  [0, 1].foldl (fun s l => let c := s.chan l 27; s.setChan l 27 { c with queue := last c.queue }) s

/-- The unit of a command that met unusable data is skipped, and the fault's event names the entry (Table 13.1, 0x03). -/
def State.skipUnit (s : State) (hdr : List Byte) (cause : Nat) : State :=
  match s.job with
  | some j =>
    if j.running ∧ j.phase ≤ 1 ∧ !s.replaying ∧ !j.excluded (hdrMbid hdr) (hdrLayer hdr) then
      (s.nameDrops cause 1).addDrops [j.unitDrop (hdrMbid hdr) (hdrLayer hdr) (hdrOper hdr) cause (s.faultIndex - 1)]
    else s
  | none => s

/-- The path of an ILLEGAL fault (Table 13.1, 0x29): the running variant's entry is evicted, to be built again, and the step is
aborted. -/
def State.illegalPath (s : State) : State :=
  match s.job with
  | some j =>
    if j.running then
      let e := s.getF 0 .GLB_SCHED_STATUS_ENTRY
      { s with cache := s.cache.filter fun x => x.1 ≠ e }.requestAbort
    else s
  | none => s

/-! Event queues (R161, R466). -/

/-- A die supervisor is interrupted. -/
def State.interrupt (s : State) (d : Nat) : State :=
  { s with supIrq := Store.set 0 s.supIrq d (Store.get 0 s.supIrq d + 1) }

/-- An entry is written into an event queue: an entry with a status other than OK or an EVT other than 0 interrupts the
die supervisor, which copies it to Milmar firmware (R466); NOTIFY interrupts when the queue becomes non-empty. -/
def State.writeEvent (s : State) (d p q : Nat) (bytes : List Byte) : State :=
  let wasEmpty := (s.que d p q).entries.isEmpty
  let s := s.pushQ d p q { bytes := bytes, tick := 0, cmd := 0 }
  let s := if fld bytes 16 1 = rcCancelled then s.countF d (sprCtr p 2) 1 bytes else s
  let s := if wasEmpty && s.flag d (.QUE_CTL_NOTIFY p q) then s.interrupt d else s
  if fld bytes 16 1 ≠ 0 ∨ fld bytes 17 1 ≠ 0 then
    { s with fwInbox := s.fwInbox ++ [(d, bytes)] }.interrupt d
  else s

/-- A producer's entry enters the event queue, or waits while the queue has no room or takes no entry (R161, R174). A sprig that is
OFFLINE takes none (R170). -/
def State.postEntry (s : State) (d p q : Nat) (bytes : List Byte) (cancelled : Bool) : State :=
  if s.offline d p then s
  else if (s.que d p q).full ∨ !(s.que d p q).accepts ∨ (s.spr d p).stalled.any fun x => x.q = q then
    (s.modSpr d p fun x => { x with stalled := x.stalled ++ [{ q := q, bytes := bytes, cancelled := cancelled }] }).interrupt d
  else s.writeEvent d p q bytes

/-- Producers that wait for a queue place their entries, oldest first, while it has room (R161). -/
def State.unstall (s : State) (d p q : Nat) : Nat → State
  | 0 => s
  | n + 1 =>
    match (s.spr d p).stalled.find? fun x => x.q = q with
    | none => s
    | some x =>
      if x.cancelled ∨ (s.que d p q).full ∨ !(s.que d p q).accepts then s
      else
        ((s.modSpr d p fun y => { y with stalled := y.stalled.erase x }).writeEvent d p q x.bytes).unstall d p q n

/-! Stalled producers (R161): the SRC of an entry that waits for room names its producer. A CANCELLED entry waits alone (R175). -/

def Stalled.src (x : Stalled) : Nat := if x.cancelled then 0 else fld x.bytes 20 4

/-- The scalar core of a sprig has an entry that waits. -/
def State.coreStalled (s : State) (d p : Nat) : Bool := (s.spr d p).stalled.any fun x => x.src / 2 ^ 28 = 1

/-- An array has an entry that waits. -/
def State.arrStalled (s : State) (d p a : Nat) : Bool :=
  (s.spr d p).stalled.any fun x => x.src / 2 ^ 28 = 5 && x.src / 2 ^ 11 % 4 = a

/-- The DMA engine has an entry that waits. -/
def State.dmaStalled (s : State) (d p : Nat) : Bool := (s.spr d p).stalled.any fun x => x.src = woEngine d 9

/-- The event queue for whose space an engine of a die waits; Fennel's entries name a reduction (R321). -/
def State.engSpace (s : State) (d e : Nat) : Option Nat :=
  s.sprigs.findSome? fun y =>
    if y.1 / 272 = d then
      (y.2.stalled.find? fun x => x.src = woEngine d e ∨ (e = 6 ∧ x.src / 2 ^ 28 = 10)).map fun x => s.qid d (y.1 % 272) x.q
    else none

/-- A command of a sprig reports to its completion queue 56 + CQ (R155): on success only with COMPL. -/
def State.report (s : State) (d p : Nat) (cmd : List Byte) (status evt src fpx step : Nat) (detail : List Byte) : State :=
  if status = rcOk ∧ evt = 0 ∧ cmdCompl cmd = false then s
  else s.postEntry d p (56 + cmdCq cmd) (completionEntry cmd status evt src fpx step detail) (status = rcCancelled)

/-! Commands in flight (R157). -/

/-- The source of an entry that the scalar core writes: the command queue it serves (log 17). -/
def State.coreSrc (s : State) (d p q : Nat) : Nat := woEntry (s.qid d p q)

/-- A command enters flight at its dispatch: its number, and SPRG_STEP at dispatch (R152). -/
def State.launch (s : State) (d p q : Nat) (bytes : List Byte) (left : Nat) : State × Nat :=
  let x := s.spr d p
  let id := x.nextCmd
  (s.setSpr d p { x with
    nextCmd := id + 1,
    cmds := x.cmds ++ [{ id := id, q := q, bytes := bytes, step := (s.reg d (Reg.SPRG_STEP p)).toNat, left := left,
                         fail := none }] }, id)

def State.cmd (s : State) (d p id : Nat) : Option Cmd := (s.spr d p).cmds.find? fun c => c.id = id

def State.dropCmd (s : State) (d p id : Nat) : State :=
  s.modSpr d p fun x => { x with cmds := x.cmds.filter fun c => c.id ≠ id }

/-- A command completes (R157): it leaves flight and reports. A FAULT skips its unit (R250, R370). -/
def State.complete (s : State) (d p id status src fpx : Nat) (detail : List Byte) : State :=
  match s.cmd d p id with
  | none => s
  | some c =>
    let s := (s.dropCmd d p id).report d p c.bytes status 0 src fpx c.step detail
    if status = rcFault then s.skipUnit c.bytes 0x03 else s

/-- One word of an ARR command has retired (R158): its failure is kept when it is the first in issue order, and the
command completes with the last word. -/
def State.retireWord (s : State) (d p a : Nat) (ins : AInst) (status : Nat) : State :=
  match s.cmd d p ins.cmd with
  | none => s
  | some c =>
    let fail := if status = rcOk then c.fail
      else match c.fail with
        | none => some (ins.ord, status)
        | some f => if ins.ord < f.1 then some (ins.ord, status) else some f
    let c' := { c with left := c.left - 1, fail := fail }
    if c'.left = 0 then
      let st := match fail with | some f => f.2 | none => rcOk
      let s := (s.dropCmd d p c.id).report d p c.bytes st 0 (woSlot d ((s.logicalOf d p).getD 0) a false 0) 0 c.step []
      if st = rcFault then s.skipUnit c.bytes 0x03 else s
    else s.modSpr d p fun x => { x with cmds := x.cmds.map fun y => if y.id = c.id then c' else y }

end Sys2Proof.Machine
end

