-- ==== Sys2Proof/Machine/SageOps.lean ====
section
/-! DEFINITION. What a source reports to its die's part of Sage (R128-R134). -/

namespace Sys2Proof.Machine

def State.bank (s : State) (d b : Nat) : SageBank := Store.get SageBank.empty s.banks (d * 2 + b)

def State.setBank (s : State) (d b : Nat) (x : SageBank) : State :=
  { s with banks := Store.set SageBank.empty s.banks (d * 2 + b) x }

def Report.none : Report := { amax := 0, elems := 0, clips := 0, outl := 0, ovf := 0, poison := 0, zeros := 0, lost := 0 }

def Report.add (a b : Report) : Report :=
  { amax := l16Max a.amax b.amax, elems := a.elems + b.elems, clips := a.clips + b.clips, outl := a.outl + b.outl,
    ovf := a.ovf + b.ovf, poison := a.poison + b.poison, zeros := a.zeros + b.zeros, lost := a.lost + b.lost }

/-- A count at its width (R133). -/
def satAt (w n : Nat) : Nat := min n (2 ^ w - 1)

def SagePart.report (x : SagePart) : Report :=
  { amax := x.amax, elems := x.elems, clips := x.clips, outl := x.outl, ovf := x.ovf, poison := x.poison, zeros := x.zeros,
    lost := x.lost }

def SagePart.take (x : SagePart) (r : Report) : SagePart :=
  let a := x.report.add r
  { x with amax := a.amax, elems := a.elems, clips := a.clips, outl := a.outl, ovf := a.ovf, poison := a.poison,
           zeros := a.zeros, lost := a.lost }

/-- What parts hold together. -/
def partsReport (ps : List SagePart) : Report := ps.foldl (fun a x => a.add x.report) Report.none

/-- A count exceeds its width in a record (R133). -/
def Report.saturates (r : Report) : Bool :=
  decide (2 ^ 48 ≤ r.elems ∨ 2 ^ 48 ≤ r.clips ∨ 2 ^ 48 ≤ r.outl ∨ 2 ^ 32 ≤ r.ovf ∨ 2 ^ 32 ≤ r.poison ∨ 2 ^ 48 ≤ r.zeros ∨
    2 ^ 48 ≤ r.lost)

/-- A report joins the part of its tensor, micro-batch and source. -/
def takeReport (tid : Nat) (mbid : Option Nat) (src : Nat) (r : Report) : List SagePart → List SagePart
  | [] => [SagePart.take { tid := tid, mbid := mbid, src := src, amax := 0, elems := 0, clips := 0, outl := 0, ovf := 0,
                           poison := 0, zeros := 0, lost := 0 } r]
  | x :: t => if x.tid = tid ∧ x.mbid = mbid ∧ x.src = src then x.take r :: t else x :: takeReport tid mbid src r t

/-- The bank that gathers: the one of the step's parity, while SAGE_CTL.EN and SAGE_STATUS.OPEN are set (R134). -/
def State.openBank (s : State) (d : Nat) : Option Nat :=
  if s.flag d .SAGE_CTL_EN ∧ s.flag d .SAGE_STATUS_OPEN then some (s.getF d .SAGE_STATUS_BANK) else none

/-- A source reports elements of a tensor; a tensor that the graph does not hold sets BADREC, one that is not measured is
not reported. -/
def State.sage (s : State) (d tid : Nat) (mbid : Option Nat) (r : Report) (src : Nat := 0) : State :=
  match s.openBank d, s.job with
  | some b, some j =>
    match j.tensor tid with
    | none => s.setF d .SAGE_ERR_BADREC 1
    | some t =>
      if t.measured then
        let k := s.bank d b
        let ps := takeReport tid mbid src r k.parts
        let s := s.setBank d b { k with parts := ps }
        let s := s.setF d .SAGE_STATUS_RECS (((ps.map (·.tid)).eraseDups).length % 2 ^ 14)
        if (partsReport (ps.filter fun x => x.tid = tid)).saturates then s.setF d .SAGE_ERR_SAT 1 else s
      else s
  | _, _ => s

/-- What a source reported for a tensor is taken back, since its elements are produced again over another set of micro-batches
(R130). -/
def State.sageRetract (s : State) (d tid src : Nat) : State :=
  match s.openBank d with
  | some b => let k := s.bank d b; s.setBank d b { k with parts := k.parts.filter fun x => !(x.tid == tid && x.src == src) }
  | none => s

/-- Tree nodes of USQ or WSQ that a die part holds (R467). -/
def State.sageNodes (s : State) (d : Nat) (ns : List (Nat × Bool × Nat × Nat × Word)) : State :=
  match s.openBank d with
  | some b => let k := s.bank d b; s.setBank d b { k with nodes := k.nodes ++ ns }
  | none => s

end Sys2Proof.Machine
end

