-- ==== Sys2Proof/Machine/Operands.lean ====
section
/-! DEFINITION. Fields of array instruction words and the conditions of R73 (Tables 3.1, 3.4-3.6, 4.1, 4.6-4.8). -/

namespace Sys2Proof.Machine

abbrev AWord := BitVec 128

/-! Fields shared by the words (R71). -/
def awOpc (w : AWord) : Nat := bits w 127 122
def awArr (w : AWord) : Nat := bits w 121 120
def awMode (w : AWord) : Nat := bits w 119 117
def awPack (w : AWord) : Nat := bits w 116 115
def awAcc (w : AWord) : Nat := bits w 114 110

def opLds : Nat := 0x01
def opMm : Nat := 0x02
def opDrain : Nat := 0x03
def opRamp : Nat := 0x04
def opWait : Nat := 0x05
def opSwap : Nat := 0x06
def opLoad : Nat := 0x08
def opStore : Nat := 0x09

/-! ARR_MM (Table 3.5). -/
def mmSwap (w : AWord) : Bool := bit w 109
def mmInit (w : AWord) : Bool := bit w 108
def mmTrap (w : AWord) : Bool := bit w 107
def mmRows (w : AWord) : Nat := bits w 105 101 + 1
def mmK (w : AWord) : Nat := bits w 100 96 + 1
def mmN (w : AWord) : Nat := bits w 95 91 + 1
def mmStag (w : AWord) : Nat := bits w 90 85
def awPstride (w : AWord) : Nat := bits w 79 64
def awRstride (w : AWord) : Nat := bits w 63 48
def awSrc (w : AWord) : Nat := bits w 47 32

/-! ARR_LDS (Table 3.6). -/
def ldsQ4 (w : AWord) : Bool := bit w 114
def ldsK (w : AWord) : Nat := bits w 112 108 + 1
def ldsN (w : AWord) : Nat := bits w 107 103 + 1

/-! ARR_DRAIN (R97). -/
def drainCount (w : AWord) : Nat := bits w 109 105 + 1

/-! ACC_STORE and ACC_LOAD (Tables 4.6 and 4.7). -/
def accShape (w : AWord) : Nat := bits w 109 108
def accSlots (w : AWord) : Nat := 2 ^ accShape w
def accKind (w : AWord) : Nat := bits w 116 115
def accFmt (w : AWord) : Nat := bits w 105 103
def stFree (w : AWord) : Bool := bit w 107
def stSpadd (w : AWord) : Bool := bit w 106
def stSpsrc (w : AWord) : Nat := bits w 95 80
def stRstride (w : AWord) : Nat := bits w 79 64
def stDst (w : AWord) : Nat := bits w 63 48
def stIbase (w : AWord) : Nat := bits w 47 8
def ldAdd (w : AWord) : Bool := bit w 107
def ldWide (w : AWord) : Bool := bit w 106
def ldStag (w : AWord) : Nat := bits w 90 85
def ldRstride (w : AWord) : Nat := bits w 79 64
def ldSrc (w : AWord) : Nat := bits w 63 48

/-! Modes (Table 3.1): 0 N8, 1 M16, 2 W16, 3 FL, 4 FH. -/
def modeK (m : Nat) : Nat := if m = 0 ∨ m = 3 then 32 else 16
def modeN (m : Nat) : Nat := if m = 2 ∨ m = 4 then 16 else 32
def modeRows (m : Nat) : Nat := if m = 0 ∨ m = 3 then 32 else 16
def modeSlots (m : Nat) : Nat := if m = 0 ∨ m = 3 then 4 else if m = 1 then 2 else 1
def modeFloat (m : Nat) : Bool := m = 3 ∨ m = 4
/-- Bytes of a streamed element. -/
def streamBytes (m : Nat) : Nat := if m = 0 then 1 else 2
/-- Bits of a stationary element. -/
def statBits (m : Nat) (q4 : Bool) : Nat := if q4 then 4 else if m = 0 ∨ m = 1 then 8 else 16

/-- PACK is legal with the mode (R80, R81). -/
def packLegal (m pk : Nat) : Bool := pk == 0 || (pk == 2 && m == 0) || (pk == 1 && (m == 1 || m == 3))
/-- Problems of a pass. -/
def packProblems (pk : Nat) : Nat := if pk = 2 then 4 else if pk = 1 then 2 else 1
/-- The limits of M, K and N for a mode and packing (Table 3.1, R80, R81). -/
def limM (m pk : Nat) : Nat := if pk = 2 then 16 else modeRows m
def limK (m pk : Nat) : Nat := if pk = 2 then 16 else modeK m
def limN (m pk : Nat) : Nat := if pk = 0 then modeN m else 16

/-- Bytes of an element of a converted store or load (Table 4.8). -/
def fmtBytes (f : Nat) : Nat := if f = 0 then 1 else if f = 4 then 4 else 2
/-- Table 4.8 allows the format with the mode (R73). -/
def fmtLegal (m f : Nat) : Bool := if modeFloat m then f == 2 || f == 3 || f == 4 else f < 5
def fmtLoadLegal (m f : Nat) : Bool := if modeFloat m then f == 2 || f == 3 || f == 4 else f < 2

/-- The slots a word writes or reads, in order; none for a word that names no slot. -/
def slotsOf (w : AWord) : List Nat :=
  let o := awOpc w
  let n := if o = opMm then modeSlots (awMode w) else if o = opDrain then drainCount w
    else if o = opLoad ∨ o = opStore then accSlots w else 0
  (List.range n).map (awAcc w + ·)

/-- Row width 32 of a pass (Table 4.1). -/
def mmWide (w : AWord) : Bool := awPack w = 0 ∧ awMode w ≠ 2 ∧ awMode w ≠ 4

/-- Byte offset in sprig SRAM of row `i` of problem `q` of a pass. -/
def mmRowAt (w : AWord) (q i : Nat) : Nat :=
  32 * (awSrc w + (if awPack w = 0 then 0 else q * awPstride w) + i * awRstride w)

/-- Byte offset of logical column `n` of block `q` of a stationary tile. -/
def ldsColAt (w : AWord) (q n : Nat) : Nat := mmRowAt w q n

/-- Rows and row width of a converted tile: slot by slot, 256 elements a slot (Table 4.1). -/
def tileRows (slots : Nat) (wide : Bool) : Nat := slots * 256 / (if wide then 32 else 16)
def tileWidth (wide : Bool) : Nat := if wide then 32 else 16

/-- A reserved bit of the word is nonzero (R73). -/
def awReserved (w : AWord) : Bool :=
  let o := awOpc w
  let z (hi lo : Nat) : Bool := bits w hi lo ≠ 0
  if o = opMm then z 106 106 || z 84 80 || z 31 0
  else if o = opLds then z 113 113 || z 102 80 || z 31 0
  else if o = opDrain then z 119 115 || z 104 0
  else if o = opRamp then z 119 115 || z 113 0
  else if o = opWait ∨ o = opSwap then z 119 0
  else if o = opStore then z 102 96 || z 7 0
  else if o = opLoad then z 102 91 || z 84 80 || z 47 0
  else true

/-- The last byte that a list of (start, length) pieces touches lies in the populated SRAM. -/
def inSram (xs : List (Nat × Nat)) : Bool := xs.all fun x => decide (x.1 + x.2 ≤ sramSize)

/-- A word is illegal by itself: opcode, codes, reserved bits, limits, alignment, SRAM (R73). `wide` is the row width
of the slots that an ACC_STORE reads. -/
def wordIllegal (w : AWord) (wide : Bool) : Bool :=
  let o := awOpc w; let m := awMode w; let pk := awPack w
  if awReserved w then true
  else if o = opMm then
    decide (5 ≤ m) || !packLegal m pk || decide (limM m pk < mmRows w ∨ limK m pk < mmK w ∨ limN m pk < mmN w) ||
      decide (awAcc w % modeSlots m ≠ 0) ||
      !inSram ((List.range (packProblems pk)).flatMap fun q => (List.range (mmRows w)).map fun i =>
        (mmRowAt w q i, mmK w * streamBytes m))
  else if o = opLds then
    decide (5 ≤ m) || !packLegal m pk || (ldsQ4 w && decide (m ≠ 0)) ||
      decide (limK m pk < ldsK w ∨ limN m pk < ldsN w) ||
      !inSram ((List.range (packProblems pk)).flatMap fun q => (List.range (ldsN w)).map fun n =>
        (ldsColAt w q n, cdiv (ldsK w * statBits m (ldsQ4 w)) 8))
  else if o = opDrain then decide (32 < awAcc w + drainCount w)
  else if o = opStore then
    decide (5 ≤ m ∨ accKind w = 3 ∨ accShape w = 3 ∨ awAcc w % accSlots w ≠ 0) ||
      (accKind w == 0 && !fmtLegal m (accFmt w)) || decide (sramSize ≤ 32 * stSpsrc w) ||
      (if accKind w = 0 then
        !inSram ((List.range (tileRows (accSlots w) wide)).map fun r =>
          (32 * (stDst w + r * stRstride w), tileWidth wide * fmtBytes (accFmt w))) ||
          (stSpadd w && !inSram [(32 * stSpsrc w, accSlots w * 4096)])
      else !inSram [(32 * stDst w, accSlots w * 4096)])
  else if o = opLoad then
    decide (5 ≤ m ∨ 2 ≤ accKind w ∨ accShape w = 3 ∨ awAcc w % accSlots w ≠ 0) ||
      (accKind w == 0 && !fmtLoadLegal m (accFmt w)) ||
      (if accKind w = 0 then
        !inSram ((List.range (tileRows (accSlots w) (ldWide w))).map fun r =>
          (32 * (ldSrc w + r * ldRstride w), tileWidth (ldWide w) * fmtBytes (accFmt w)))
      else !inSram [(32 * ldSrc w, accSlots w * 4096)])
  else false

/-- Whether the word names a location field that a repeat advances, and where it lies (R158). -/
def awLocLo (w : AWord) : Option Nat :=
  let o := awOpc w
  if o = opLds ∨ o = opMm then some 32 else if o = opLoad ∨ o = opStore then some 48 else none

/-- The word of repeat `r` (R158): its location field advanced by r times the step, and INIT only in the first repeat
when INIT_FIRST is set. -/
def repeatWord (w : AWord) (step r : Nat) (initFirst : Bool) : AWord :=
  let w := match awLocLo w with
    | some lo => setBits w (lo + 15) lo ((bits w (lo + 15) lo + r * step) % 2 ^ 16)
    | none => w
  if initFirst ∧ awOpc w = opMm ∧ r ≠ 0 then setBits w 108 108 0 else w

end Sys2Proof.Machine
end

