-- ==== Sys2Proof/Machine/ArrayOps.lean ====
section
/-! DEFINITION. Shared operations of the multiply arrays: cells and gangs, groups, slot tags, accumulator elements,
acceptance and retirement (chapters 3 and 4). -/

namespace Sys2Proof.Machine

/-! Accumulator words (R93, R94, Table 4.2). -/

/-- A word with its tag. -/
structure Elem where
  w : Int
  anchor : Int
  sticky : Bool
  poison : Bool
  deriving DecidableEq, Repr

def Elem.empty : Elem := { w := 0, anchor := 0, sticky := false, poison := false }

def elemOf (x : BitVec 108) : Elem :=
  { w := sx 96 x.toNat, anchor := sx 10 (bits x 105 96), sticky := bit x 106, poison := bit x 107 }

def Elem.bits (e : Elem) : BitVec 108 :=
  BitVec.ofNat 108 (lowBits 96 e.w + lowBits 10 e.anchor * 2 ^ 96 + e.sticky.toNat * 2 ^ 106 + e.poison.toNat * 2 ^ 107)

/-- A word of 0 with a clear tag (R94). -/
def Elem.isEmpty (e : Elem) : Bool := e = Elem.empty

def State.elem (s : State) (d p a slot e : Nat) : Elem := elemOf (Store.get 0 s.acc (accKey d p a slot e))

/-- An element as a reader gets it, after correction (R250). -/
def State.elemRead (s : State) (d p a slot e : Nat) : Elem := elemOf (s.accView d p a slot e)

def State.setElem (s : State) (d p a slot e : Nat) (x : Elem) : State :=
  let s := s.accMerge d p a slot e
  { s with acc := Store.set 0 s.acc (accKey d p a slot e) x.bits }

/-- A slot's words become empty elements with clear tags (R97). -/
def State.clearSlot (s : State) (d p a slot : Nat) : State :=
  { s.accFresh d p a slot with acc := Store.clear s.acc (accKey d p a slot 0) (accKey d p a slot 256) }

/-- Table 4.4: the width of an integer accumulator. -/
def intWidth (m : Nat) : Nat := if m = 0 then 48 else if m = 1 then 56 else 80

def fitsWidth (n : Nat) (x : Int) : Bool := decide (-(2 ^ (n - 1) : Int) ≤ x ∧ x < 2 ^ (n - 1))

/-- A magnitude shifted right, truncating toward zero; whether a nonzero bit was dropped (R100). -/
def shiftTrunc (x : Int) (n : Nat) : Int × Bool :=
  let m := x.natAbs
  let q := m / 2 ^ n
  (if x < 0 then -(q : Int) else (q : Int), m % 2 ^ n ≠ 0)

/-- The raise of R100: the word shifts right and the anchor rises while the word lies outside the window of `n` bits.
Answers the element, how often it was raised and how many of the raises dropped a nonzero bit. -/
def raise (n : Nat) (e : Elem) : Nat → Elem × Nat × Nat
  | 0 => (e, 0, 0)
  | k + 1 =>
    if fitsWidth n e.w then (e, 0, 0)
    else
      let (w, cut) := shiftTrunc e.w 1
      let (e, c, t) := raise n { e with w := w, anchor := e.anchor + 1, sticky := true } k
      (e, c + 1, t + cut.toNat)

/-- What a merge counted (R101). -/
structure Merged where
  elem : Elem
  raises : Nat
  truncs : Nat
  deriving DecidableEq, Repr

/-- The merge of a float group, `cut` of whose products were truncated, into an element, window of `n` bits (R100). What TRUNC counts
of one merge is the model's choice (DESIGN CHOICE, log 22): one for each product, shift of the sum or of the group, or raise that drops
a nonzero bit. -/
def mergeGroup (n : Nat) (e : Elem) (eg : Option Int) (sum : Int) (cut : Nat) : Merged :=
  match eg with
  | none => { elem := e, raises := 0, truncs := 0 }
  | some g =>
    if e.isEmpty then
      { elem := { e with w := sum, anchor := g, sticky := decide (0 < cut) }, raises := 0, truncs := cut }
    else
      let (w, s1, sm, s2, A) :=
        if e.anchor < g then
          let r := shiftTrunc e.w (g - e.anchor).toNat
          (r.1, r.2, sum, false, g)
        else
          let r := shiftTrunc sum (e.anchor - g).toNat
          (e.w, false, r.1, r.2, e.anchor)
      let (e', c, t) := raise n { e with w := w + sm, anchor := A, sticky := e.sticky || s1 || s2 || decide (0 < cut) } 16
      { elem := e', raises := c, truncs := s1.toNat + s2.toNat + cut + t }

/-- The merge of an element or spill entry into another by the steps of R100 (R104, R107): its window enters as a group, a window of 0
changes nothing, as a group of zero products does (R67), and STICKY and POISON of both stay. That its anchor then counts for nothing is
DEDUCED (log 22). -/
def mergeElem (n : Nat) (e x : Elem) : Merged :=
  let r := mergeGroup n e (if x.w = 0 then none else some x.anchor) x.w 0
  { r with elem := { r.elem with sticky := r.elem.sticky || x.sticky, poison := r.elem.poison || x.poison } }

/-! Float operands and groups (R66, R67, R89). -/

/-- An operand of FL or FH: sign, significand, exponent of its unit, and what it is. -/
inductive FOp where
  | fin (neg : Bool) (sig : Nat) (e : Int)
  | inf
  | nan
  | poison
  deriving DecidableEq, Repr

/-- The operand that a sign, a biased exponent and a fraction-with-hidden-bit spell, for L16 (`fl`) or binary16. -/
def fopOf (fl neg : Bool) (ex sig : Nat) : FOp :=
  if fl then
    if neg ∧ ex = 0 ∧ sig = 0 then .poison else .fin neg sig ((max ex 1 : Nat) - 134)
  else if ex = 31 then (if sig % 1024 = 0 then .inf else .nan)
  else .fin neg sig ((max ex 1 : Nat) - 25)

/-- A streamed 16-bit element as a float operand. -/
def fopElem (fl : Bool) (x : Nat) : FOp :=
  if fl then
    let ex := x / 128 % 256
    fopOf true (x.testBit 15) ex (x % 128 + if ex = 0 then 0 else 128)
  else
    let ex := x / 1024 % 32
    fopOf false (x.testBit 15) ex (x % 1024 + if ex = 0 then 0 else 1024)

/-- A product: a signed significand and an exponent, or a cause of Table 3.10. -/
def fProd : FOp → FOp → Int × Int × Nat
  | .poison, _ => (0, 0, 4)
  | _, .poison => (0, 0, 4)
  | .nan, _ => (0, 0, 3)
  | _, .nan => (0, 0, 3)
  | .inf, .inf => (0, 0, 2)
  | .inf, .fin _ s _ => (0, 0, if s = 0 then 1 else 2)
  | .fin _ s _, .inf => (0, 0, if s = 0 then 1 else 2)
  | .fin n s e, .fin n' s' e' => ((if n = n' then (s * s' : Nat) else -((s * s' : Nat) : Int)), e + e', 0)

/-- The alignment unit: the group exponent and the products truncated below weight 2^(E - 88) and summed (R66, R100). -/
def groupOf (ps : List (Int × Int)) : PassVal :=
  let nz := ps.filter fun x => x.1 ≠ 0
  match nz.map fun x => (Nat.log2 x.1.natAbs : Int) + x.2 with
  | [] => .grp none 0 0
  | e :: es =>
    let E := es.foldl max e
    let parts := nz.map fun x =>
      let sh := x.2 - (E - 88)
      if 0 ≤ sh then (x.1 * 2 ^ sh.toNat, false) else shiftTrunc x.1 (-sh).toNat
    .grp (some E) (parts.foldl (fun a x => a + x.1) 0) (parts.countP (·.2))

/-- The lowest cause among products (R90); 0: none. -/
def lowestCause (cs : List Nat) : Nat := (cs.filter (· ≠ 0)).foldl (fun a c => if a = 0 then c else min a c) 0

/-! Cells (R61-R63). -/

def cellKey (slot row col : Nat) : Nat := 1024 * slot + 32 * row + col
def Arr.cell (x : Arr) (slot row col : Nat) : BitVec 17 := Store.get 0 x.cells (cellKey slot row col)
def Arr.activeSlot (x : Arr) (col : Nat) : Nat := if x.sel.getLsbD col then 1 else 0
def Arr.slotMode (x : Arr) (slot col : Nat) : Nat := Store.get 0 x.modes (slot * 32 + col)

def cellByte (c : BitVec 17) : Nat := bits c 7 0
def cellNeg (c : BitVec 17) : Bool := bit c 16
def cellExp (c : BitVec 17) : Nat := bits c 15 8

/-- A cell of a float slot: significand byte, sign and exponent. -/
def cellFloat (neg : Bool) (ex sig : Nat) : BitVec 17 := BitVec.ofNat 17 (sig % 256 + ex % 256 * 256 + neg.toNat * 2 ^ 16)

/-- The cells of one physical column for a logical column of stationary elements (Table 3.2): `els` gives logical row
k's element as stored bits; rows beyond it hold zero (R69). `hi` selects the odd column of a W16 or FH gang. -/
def columnCells (m : Nat) (hi : Bool) (els : Nat → Nat) : Nat → BitVec 17 := fun r =>
  if m = 0 then BitVec.ofNat 17 (els r % 256)
  else if m = 1 then BitVec.ofNat 17 (els (r / 2) % 256)
  else if m = 2 then BitVec.ofNat 17 (if hi then els (r / 2) / 256 % 256 else els (r / 2) % 256)
  else if m = 3 then
    let x := els r
    let ex := x / 128 % 256
    cellFloat (x.testBit 15) ex (x % 128 + if ex = 0 then 0 else 128)
  else
    let x := els (r / 2)
    let ex := x / 1024 % 32
    let sig := x % 1024 + if ex = 0 then 0 else 1024
    cellFloat (x.testBit 15) ex (if hi then sig / 256 else sig % 256)

/-! Jobs of an array (R73, R74, R97, R98). -/

def AJob.opc (j : AJob) : Nat := awOpc j.ins.w
def AJob.issuing (j : AJob) : Bool := j.opc = opMm ∧ j.pos < mmRows j.ins.w

/-- The first slot of a word that an earlier accepted instruction still writes or reads; passes do not wait for passes (R98). -/
def Arr.blocker (x : Arr) (w : AWord) (seq : Nat) : Option Nat :=
  (slotsOf w).find? fun i => x.accepted.any fun j =>
    decide (j.seq < seq) && (slotsOf j.ins.w).contains i && !(awOpc w = opMm && j.opc = opMm)

def Arr.waits (x : Arr) (w : AWord) (seq : Nat) : Bool := (x.blocker w seq).isSome

def Arr.tag (x : Arr) (slot : Nat) : SlotTag := Store.get SlotTag.free x.tags slot
def Arr.setTag (x : Arr) (slot : Nat) (t : SlotTag) : Arr := { x with tags := Store.set SlotTag.free x.tags slot t }

/-- An instruction joins the accepted list. -/
def Arr.accept (x : Arr) (ins : AInst) (started : Bool) (stag : List Word) : Arr :=
  { x with
    accepted := x.accepted ++
      [{ ins := ins, seq := x.seq, started := started, pos := 0, bad := false, exc := false, stag := stag }],
    seq := x.seq + 1 }

def Arr.retire (x : Arr) (seq : Nat) : Arr :=
  { x with accepted := x.accepted.filter fun j => j.seq ≠ seq, wdog := false }

def Arr.update (x : Arr) (seq : Nat) (f : AJob → AJob) : Arr :=
  { x with accepted := x.accepted.map fun j => if j.seq = seq then f j else j }

/-- The header of the command that issued an instruction. -/
def State.insHdr (s : State) (d p : Nat) (ins : AInst) : List Byte :=
  match s.cmd d p ins.cmd with | some c => c.bytes | none => []

/-- SRC of an entry that an array writes. Table 6.10 gives an array no code as a producer; accumulator slot 0 of the array stands for it
(DESIGN CHOICE, log 98). -/
def State.arrSrc (s : State) (d p a : Nat) : Nat := woSlot d ((s.logicalOf d p).getD 0) a false 0

/-- An illegal word is discarded (R73): ARR_ERR.ILLEGAL, an error completion with BAD_ARG, and, when a slot tag refused
it, ARR_ACC_ERR.TAG; the fault path of code 0x29 takes it up. -/
def State.illegalWord (s : State) (d p a : Nat) (ins : AInst) (tag : Bool) : State :=
  let s := s.setF d (.ARR_ERR_ILLEGAL p a) 1
  let s := if tag then s.setF d (.ARR_ACC_ERR_TAG p a) 1 else s
  let s := match s.cmd d p ins.cmd with
    | some c => s.postEntry d p (56 + cmdCq c.bytes)
        (completionEntry c.bytes rcBadArg 0 (s.arrSrc d p a) 0 c.step []) false
    | none => s
  (s.ownFault 0x29 d p 0 0 0 1).illegalPath.retireWord d p a ins rcBadArg

/-- A word whose operand could not be read writes its own completion with FAULT (R158, R250). -/
def State.faultWord (s : State) (d p a : Nat) (ins : AInst) : State :=
  match s.cmd d p ins.cmd with
  | some c => s.postEntry d p (56 + cmdCq c.bytes)
      (completionEntry c.bytes rcFault 0 (s.arrSrc d p a) 0 c.step []) false
  | none => s

/-- An instruction retires with OK, or with FAULT when it met unusable data. -/
def State.retireIns (s : State) (d p a : Nat) (ins : AInst) (seq : Nat) (bad : Bool) : State :=
  let s := s.setArr d p a ((s.arr d p a).retire seq)
  let s := if bad then s.faultWord d p a ins else s
  s.retireWord d p a ins (if bad then rcFault else rcOk)

/-- The slot tags after an accepted pass or load: OPEN with its mode, width and STAG (R95, R96). A slot whose drain is
still pending opens behind it. -/
def openSlots (x : Arr) (slots : List Nat) (m : Nat) (wide : Bool) (stag : Nat) : Arr :=
  slots.foldl (fun x i => x.setTag i { isOpen := true, mode := m, wide := wide, stag := stag, draining := (x.tag i).draining }) x

/-- Table 4.3: the slots accept a write of this mode, width and STAG; `ovw`: an overwrite. -/
def tagsAccept (x : Arr) (slots : List Nat) (m : Nat) (wide : Bool) (stag : Nat) (ovw : Bool) : Bool :=
  slots.all fun i =>
    let t := x.tag i
    !t.isOpen || (t.mode == m && t.wide == wide && (t.stag == stag || ovw))

/-- The slots are marked draining (R97); instructions accepted later find them FREE. -/
def drainSlots (x : Arr) (slots : List Nat) : Arr :=
  slots.foldl (fun x i => x.setTag i { x.tag i with isOpen := false, draining := true }) x

/-- A drain's slots become FREE: empty elements, clear tags (R97). A slot that a later instruction has opened keeps
its new tag; one that a later drain names stays draining. -/
def State.freeSlots (s : State) (d p a : Nat) (slots : List Nat) : State :=
  slots.foldl (fun s i =>
    let s := s.clearSlot d p a i
    let x := s.arr d p a
    let t := x.tag i
    let again := x.accepted.any fun j =>
      (j.opc == opDrain || (j.opc == opStore && stFree j.ins.w)) && (slotsOf j.ins.w).contains i
    s.setArr d p a (x.setTag i (if t.isOpen then { t with draining := again } else if again then t else SlotTag.free))) s

/-! The stationary slots (R75-R79). -/

/-- A load of the stationary slot that was accepted before `seq` has yet to write the column. -/
def Arr.loadBefore (x : Arr) (seq col : Nat) : Bool :=
  x.accepted.any fun j => j.opc == opLds && decide (j.seq < seq ∧ j.pos ≤ col)

/-- A column's selector flips: the staged tile becomes active, the retired slot becomes free (R76-R78). -/
def Arr.flip (x : Arr) (col : Nat) : Arr :=
  { x with sel := x.sel ^^^ BitVec.ofNat 32 (2 ^ col), staged := x.staged &&& ~~~BitVec.ofNat 32 (2 ^ col) }

def Arr.deferred (x : Arr) (col : Nat) : List Nat := Store.get [] x.tokens col

/-- A column's inactive slot is still in use for a load: a token that was accepted before the load has not yet passed the
column (R77). -/
def Arr.inUse (x : Arr) (seq col : Nat) : Bool :=
  (x.accepted.any fun j => decide (j.seq < seq) && j.issuing && mmSwap j.ins.w) || (x.deferred col).any fun t => decide (t < seq)

/-- A token passes a column: the flip is deferred while an earlier load has not completed the inactive slot (R76). -/
def Arr.tokenAt (x : Arr) (seq col : Nat) : Arr :=
  let ts := x.deferred col
  if ts ≠ [] ∨ (x.staged.getLsbD col = false ∧ x.loadBefore seq col) then
    { x with tokens := Store.set [] x.tokens col (ts ++ [seq]) }
  else x.flip col

def Arr.token (x : Arr) (seq : Nat) : Arr := (List.range 32).foldl (fun x c => x.tokenAt seq c) x

/-- The mode of the slot that will be active in column 31 when every deferred token has flipped it (R73). -/
def Arr.modeAhead (x : Arr) : Nat :=
  let act := x.activeSlot 31
  let loads := x.accepted.filter fun j => j.opc = opLds ∧ j.pos ≤ 31
  let go := (x.deferred 31).foldl (fun (st : Nat × Nat × Bool × List AJob) t =>
    let (a, i, staged, ls) := st
    match staged, ls with
    | false, l :: rest => if l.seq < t then (awMode l.ins.w + 1, a, false, rest) else (i, a, false, ls)
    | _, _ => (i, a, false, ls)) (x.slotMode act 31, x.slotMode (1 - act) 31, x.staged.getLsbD 31, loads)
  go.1

/-! The ramp (R85-R87). -/

/-- Every ARR_RAMP that was accepted has taken effect, or has found that it has none, and retires (R87). -/
def State.retireRamps (s : State) (d p a : Nat) : State :=
  ((s.arr d p a).accepted.filter fun j => j.opc = opRamp).foldl (fun s j => s.retireIns d p a j.ins j.seq false) s

/-- A pass, or a ramp up, asks for the array: OFF starts UP, a pending reversal of UP is withdrawn, DOWN will reverse. -/
def State.rampUp (s : State) (d p a : Nat) : State :=
  let x := s.arr d p a
  if x.ramp = 0 then (s.setArr d p a { x with ramp := 1, cols := 0, reverse := false }).count d (arrCtr p a 4) 1
  else if x.ramp = 1 then (s.setArr d p a { x with reverse := false }).retireRamps d p a
  else if x.ramp = 3 then s.setArr d p a { x with reverse := true }
  else s

/-- The head of the instruction queue, when it holds the named opcode. -/
def Arr.head (x : Arr) (opc : Nat) : Option AInst :=
  match x.iq with
  | i :: _ => if awOpc i.w = opc then some i else none
  | [] => none

def Arr.popIq (x : Arr) : Arr := { x with iq := x.iq.drop 1 }

/-- No accepted pass has rows left to issue (R74). -/
def Arr.feederFree (x : Arr) : Bool := x.accepted.all fun j => !j.issuing

/-- Every earlier instruction other than ARR_LDS has retired (R74, R87). -/
def Arr.onlyLoads (x : Arr) : Bool := x.accepted.all fun j => j.opc = opLds

/-- The sprig's arrays can run: no global stop holds them, and a logical sprig runs here. -/
def State.live (s : State) (d p : Nat) : Bool := !s.frozen && !s.offline d p

/-- An array can run: its sprig does, and none of its entries waits for room in an event queue (R161). -/
def State.arrLive (s : State) (d p a : Nat) : Bool := s.live d p && !s.arrStalled d p a

/-- What an accepted instruction that cannot go on waits for (R77, R79, R98, R167): a column's stationary slot, or the accumulator
slot that an earlier instruction holds; 0 when it waits for neither. -/
def State.jobWait (s : State) (d p a : Nat) (j : AJob) : Nat :=
  let x := s.arr d p a
  let l := (s.logicalOf d p).getD 0
  if j.opc = opLds then
    if x.staged.getLsbD j.pos ∨ x.inUse j.seq j.pos then woSlot d l a true (1 - x.activeSlot j.pos) else 0
  else match (if j.started ∧ j.opc ≠ opDrain then none else x.blocker j.ins.w j.seq) with
    | some i => woSlot d l a false i
    | none =>
      match x.tokens with
      | (c, _) :: _ => if j.issuing ∨ j.opc = opSwap then woSlot d l a true (1 - x.activeSlot c) else 0
      | [] => 0

/-- ARR_WAIT_ON (R167): the one resource that the oldest waiting instruction of an array needs next; an array that holds an entry
without room waits for space in its event queue (R161). -/
def State.arrWait (s : State) (d p a : Nat) : Nat :=
  match (s.spr d p).stalled.find? fun y => y.src / 2 ^ 28 = 5 && y.src / 2 ^ 11 % 4 = a with
  | some y => woSpace (s.qid d p y.q)
  | none => (((s.arr d p a).accepted.map fun j => s.jobWait d p a j).find? (· ≠ 0)).getD 0

end Sys2Proof.Machine
end

