-- ==== Sys2Proof/Machine/Array.lean ====
section
/-! DEFINITION. The multiply arrays: acceptance of ARR_LDS, ARR_MM, ARR_DRAIN, ARR_RAMP, ARR_WAIT and ARR_SWAP, the stationary
and streaming feeders, pass results, drains, ramps and the operand watchdog (chapter 3, R97-R102). -/

namespace Sys2Proof.Machine

/-! The issue unit (R150, R158). -/

/-- The next word of a job, with its place in the command's issue order: A then B in every repeat. -/
def IssueJob.word (j : IssueJob) : Option AInst :=
  let r := match j.a, j.b with | some _, some _ => j.next / 2 | _, _ => j.next
  if j.cnt ≤ r then none
  else match j.a, j.b with
    | some a, some b =>
      if j.next % 2 = 0 then some { cmd := j.cmd, ord := 2 * r, w := repeatWord a j.da r j.initFirst }
      else some { cmd := j.cmd, ord := 2 * r + 1, w := repeatWord b j.db r j.initFirst }
    | some a, none => some { cmd := j.cmd, ord := 2 * r, w := repeatWord a j.da r j.initFirst }
    | none, some b => some { cmd := j.cmd, ord := 2 * r + 1, w := repeatWord b j.db r j.initFirst }
    | none, none => none

/-- The job after a word has been placed; the issue unit is free after the last one. -/
def IssueJob.advance (j : IssueJob) : Option IssueJob :=
  let j := { j with next := j.next + 1 }
  if j.word.isSome then some j else none

/-- No other array of the sprig still has to place an earlier word of the same command: A's words and B's are issued in turn (R158). -/
def State.wordNext (s : State) (d p a : Nat) (i : AInst) : Bool :=
  (List.range 4).all fun b => b == a || match (s.arr d p b).job.bind IssueJob.word with
    | some k => !(k.cmd == i.cmd && decide (k.ord < i.ord))
    | none => true

/-- ISSUE_UNIT_PLACE (R150, R151, R158): the next word takes a free place of the instruction queue. -/
def execIssueUnitPlace (d : CDie) (p : Phys) (a : ArrIx) (s : State) : Out :=
  let x := s.arr d p a
  .next <|
    if s.live d p ∧ x.iq.length < 8 then
      match x.job with
      | some j =>
        match j.word with
        | some i => if s.wordNext d p a i then s.setArr d p a { x with iq := x.iq ++ [i], job := j.advance } else s
        | none => s.setArr d p a { x with job := none }
      | none => s
    else s

/-! Acceptance. -/

/-- What an accepted instruction of one opcode does: the head leaves the instruction queue when `leaves` allows; an
illegal word is discarded (R73), a word that a slot tag refuses likewise (R96). -/
def acceptHead (s : State) (d p a opc : Nat) (leaves : Arr → AInst → Bool) (illegal tag : State → Arr → AInst → Bool)
    (effect : State → AInst → State) : State :=
  let x := s.arr d p a
  match x.head opc with
  | none => s
  | some i =>
    if s.arrLive d p a && leaves x i then
      let s' := s.setArr d p a x.popIq
      let t := tag s' x.popIq i
      if illegal s' x.popIq i || t then s'.illegalWord d p a i t else effect s' i
    else s

/-- ARR_LDS (R74, R77): the load joins the stationary feeder's work. -/
def execArrLds (d : CDie) (p : Phys) (a : ArrIx) (s : State) : Out :=
  .next <| acceptHead s d p a opLds (fun _ _ => true) (fun _ _ i => wordIllegal i.w false) (fun _ _ _ => false)
    fun s i => s.setArr d p a ((s.arr d p a).accept i true [])

/-- ARR_MM (R73, R74, R86, R95, R96): the pass opens its slots, asks for the ramp and joins the streaming feeder's work. -/
def acceptMm (s : State) (d p a : Nat) (i : AInst) : State :=
  let x := s.arr d p a
  let w := i.w
  let st := !x.waits w x.seq
  let x := (openSlots x (slotsOf w) (awMode w) (mmWide w) (mmStag w)).accept i st []
  (s.setArr d p a { x with mode := awMode w }).rampUp d p a

def mmIllegal (x : Arr) (i : AInst) : Bool :=
  wordIllegal i.w false || (x.modeAhead != 0 && x.modeAhead != awMode i.w + 1)

def mmTag (x : Arr) (i : AInst) : Bool :=
  decide (awMode i.w < 5) && !tagsAccept x (slotsOf i.w) (awMode i.w) (mmWide i.w) (mmStag i.w) (mmInit i.w)

/-- ARR_MM, and the discard of a word with a reserved opcode (R73). -/
def execArrMm (d : CDie) (p : Phys) (a : ArrIx) (s : State) : Out :=
  let x := s.arr d p a
  .next <| match x.iq with
  | i :: _ =>
    if awOpc i.w ∈ [opLds, opDrain, opRamp, opWait, opSwap, opLoad, opStore] then s
    else if awOpc i.w = opMm then
      acceptHead s d p a opMm (fun x _ => x.feederFree) (fun _ x i => mmIllegal x i) (fun _ x i => mmTag x i)
        fun s i => acceptMm s d p a i
    else if s.arrLive d p a then (s.setArr d p a x.popIq).illegalWord d p a i false
    else s
  | [] => s

/-- ARR_DRAIN (R97): the named slots are marked draining. -/
def execArrDrain (d : CDie) (p : Phys) (a : ArrIx) (s : State) : Out :=
  .next <| acceptHead s d p a opDrain (fun _ _ => true) (fun _ _ i => wordIllegal i.w false) (fun _ _ _ => false)
    fun s i =>
      let x := s.arr d p a
      s.setArr d p a ((drainSlots x (slotsOf i.w)).accept i (!x.waits i.w x.seq) [])

/-- ARR_RAMP (R72, R87): DIR 1 starts or keeps a ramp up; DIR 0 starts a ramp down in ON and reverses UP. One that takes effect at
the next step boundary, DIR 0 in UP and DIR 1 in DOWN, retires there. -/
def execArrRamp (d : CDie) (p : Phys) (a : ArrIx) (s : State) : Out :=
  .next <| acceptHead s d p a opRamp (fun x i => bit i.w 114 || x.onlyLoads) (fun _ _ i => wordIllegal i.w false)
    (fun _ _ _ => false) fun s i =>
      let x := s.arr d p a
      let later (s : State) : State := let x := s.arr d p a; s.setArr d p a { x.accept i true [] with reverse := true }
      if bit i.w 114 then (if x.ramp = 3 then later s else (s.rampUp d p a).retireWord d p a i rcOk)
      else if x.ramp = 1 then later s
      else if x.ramp = 2 then
        ((s.setArr d p a { x with ramp := 3, reverse := false }).count d (arrCtr p a 4) 1).retireWord d p a i rcOk
      else s.retireWord d p a i rcOk

/-- ARR_WAIT (R74): it leaves when every earlier instruction has retired, and retires as it leaves. -/
def execArrWait (d : CDie) (p : Phys) (a : ArrIx) (s : State) : Out :=
  .next <| acceptHead s d p a opWait (fun x _ => x.accepted.isEmpty) (fun _ _ i => wordIllegal i.w false)
    (fun _ _ _ => false) fun s i => s.retireWord d p a i rcOk

/-- An ARR_SWAP whose token has left column 31 retires when every column has flipped (R75). -/
def State.endSwap (s : State) (d p a seq : Nat) : State :=
  let x := s.arr d p a
  match x.accepted.find? fun j => j.seq = seq ∧ j.opc = opSwap with
  | some j => if x.tokens.any fun t => t.2.contains seq then s else s.retireIns d p a j.ins seq false
  | none => s

/-- ARR_SWAP (R75): a pass token with no row; each column flips, or defers its flip (R76). -/
def execArrSwap (d : CDie) (p : Phys) (a : ArrIx) (s : State) : Out :=
  .next <| acceptHead s d p a opSwap (fun x _ => x.feederFree) (fun _ _ i => wordIllegal i.w false) (fun _ _ _ => false)
    fun s i =>
      let x := s.arr d p a
      (s.setArr d p a ((x.accept i true []).token x.seq)).endSwap d p a x.seq

/-! The stationary feeder (R69, R77). -/

/-- The element of a stationary tile in sprig SRAM: bits of logical row `k` of the column that starts at `at`. -/
def statElem (m : Nat) (q4 : Bool) (bs : List Byte) (k : Nat) : Nat :=
  if q4 then
    let n := ((bs.getD (k / 2) 0).toNat / (if k % 2 = 0 then 1 else 16)) % 16
    lowBits 8 (sx 4 n)
  else if m = 0 ∨ m = 1 then (bs.getD k 0).toNat
  else fld bs (2 * k) 2

/-- Where a physical column of a tile comes from: the block, and its logical column. -/
def colSource (m pk col : Nat) : List (Nat × Nat) :=
  let n := if m = 2 ∨ m = 4 then col / 2 else col
  if pk = 2 then [(2 * (col / 16), n % 16), (2 * (col / 16) + 1, n % 16)]
  else if pk = 1 then [(col / 16, n % 16)]
  else [(0, n)]

/-- STATIONARY_COLUMN_WRITE (R69, R77): the feeder writes the next column of its oldest load once that column's
inactive slot is free, neither staged nor still in use; the load retires with column 31. Bytes of an unreadable codeword stage as zero (R250). -/
def execStationaryColumnWrite (d : CDie) (p : Phys) (a : ArrIx) (s : State) : Out :=
  let x := s.arr d p a
  .next <|
    match x.accepted.find? fun j => j.opc = opLds with
    | none => s
    | some j =>
      let w := j.ins.w; let m := awMode w; let col := j.pos
      if !s.arrLive d p a || x.staged.getLsbD col || x.inUse j.seq col then s
      else
        let n := cdiv (ldsK w * statBits m (ldsQ4 w)) 8
        let srcs := colSource m (awPack w) col
        let got := srcs.foldl (fun (st : State × Bool × List (List Byte)) y =>
          if y.2 < ldsN w then
            let base := sramDpa d p (ldsColAt w y.1 y.2)
            let (s', ok, bs) := st.1.readRange base n
            let bs := if ok then bs else (List.range n).map fun i =>
              if s'.readable (base + i) then bs.getD i 0 else 0
            (s', st.2.1 && ok, st.2.2 ++ [bs])
          else (st.1, st.2.1, st.2.2 ++ [[]])) (s, true, [])
        let (s, ok, blocks) := got
        let el (b : Nat) (k : Nat) : Nat :=
          let bs := blocks.getD b []
          if k < ldsK w ∧ bs ≠ [] then statElem m (ldsQ4 w) bs k else 0
        let hi := col % 2 = 1
        let cells := fun r =>
          if awPack w = 2 then (if r < 16 then columnCells m hi (el 0) r else columnCells m hi (el 1) (r - 16))
          else columnCells m hi (el 0) r
        let slot := 1 - x.activeSlot col
        let cs := (List.range 32).foldl (fun c r => Store.set 0 c (cellKey slot r col) (cells r)) x.cells
        let x := { x with cells := cs, modes := Store.set 0 x.modes (slot * 32 + col) (m + 1),
                          staged := x.staged ||| BitVec.ofNat 32 (2 ^ col), wdog := false }
        let x := x.update j.seq fun j => { j with pos := j.pos + 1, bad := j.bad || !ok }
        let s := s.setArr d p a x
        if col = 31 then
          (s.countF d (arrCtr p a 1) 1 (s.insHdr d p j.ins)).retireIns d p a j.ins j.seq (j.bad || !ok)
        else s

/-- PASS_TOKEN_FLIP (R76): a column whose flip was deferred flips once the feeder has completed it. -/
def execPassTokenFlip (d : CDie) (p : Phys) (a : ArrIx) (col : Fin 32) (s : State) : Out :=
  let x := s.arr d p a
  .next <|
    match x.deferred col with
    | [] => s
    | t :: ts =>
      if s.arrLive d p a ∧ (x.staged.getLsbD col ∨ x.loadBefore t col = false) then
        (s.setArr d p a { x.flip col with tokens := Store.set [] x.tokens col ts, wdog := false }).endSwap d p a t
      else s

/-! The streaming feeder (R63, R66, R68, R79). -/

/-- A streamed element of a row, zero beyond the row (R68). -/
def rowElem (m k : Nat) (bs : List Byte) (i : Nat) : Nat :=
  if k ≤ i then 0 else if m = 0 then (bs.getD i 0).toNat else fld bs (2 * i) 2

/-- The exact sum of an integer gang's column (R61, R63): `rows` of physical column `c`. -/
def columnSum (x : Arr) (m c : Nat) (rows : List Nat) (el : Nat → Nat) : Int :=
  rows.foldl (fun acc r =>
    let b := cellByte (x.cell (x.activeSlot c) r c)
    if m = 0 then acc + sx 8 (el (r % 32)) * sx 8 b
    else
      let e := el (r / 2)
      let streamed : Int := if r % 2 = 0 then (e % 256 : Nat) else sx 8 (e / 256)
      let stat : Int := if m = 1 ∨ c % 2 = 1 then sx 8 b else (b : Int)
      let sh := (if r % 2 = 0 then 0 else 8) + (if m = 2 ∧ c % 2 = 1 then 8 else 0)
      acc + streamed * stat * 2 ^ sh) 0

/-- The products of a float column: logical row k's streamed element with the stationary operand its cells hold. -/
def columnProds (x : Arr) (m c : Nat) (el : Nat → Nat) : List (Int × Int × Nat) :=
  if m = 3 then
    (List.range 32).map fun r =>
      let y := x.cell (x.activeSlot c) r c
      fProd (fopElem true (el r)) (fopOf true (cellNeg y) (cellExp y) (cellByte y))
  else
    (List.range 16).map fun k =>
      let lo := x.cell (x.activeSlot (c - 1)) (2 * k) (c - 1)
      let hi := x.cell (x.activeSlot c) (2 * k) c
      fProd (fopElem false (el k)) (fopOf false (cellNeg hi) (cellExp hi) (cellByte hi * 256 + cellByte lo))

/-- The slot and element of (r, c) of problem q (Table 4.1). -/
def placeOf (w : AWord) (q r c : Nat) : Nat × Nat :=
  let m := awMode w; let pk := awPack w; let acc := awAcc w
  if pk = 0 then
    if m = 2 ∨ m = 4 then (acc, 16 * r + c) else (acc + r / 8, 32 * (r % 8) + c)
  else if pk = 1 ∧ m = 3 then (acc + 2 * q + r / 16, 16 * (r % 16) + c)
  else (acc + q, 16 * r + c)

/-- What physical column `c` delivers for a row of a pass. `el q` gives the streamed elements of problem q's row. -/
def columnResults (x : Arr) (j : AJob) (c : Nat) (el : Nat → Nat → Nat) (poison : Nat → Bool) : List PassRes :=
  let w := j.ins.w; let m := awMode w; let pk := awPack w; let r := j.pos
  let mk (q n : Nat) (v : PassVal) (cause : Nat) : List PassRes :=
    if n < mmN w then
      let pl := placeOf w q r n
      [{ seq := j.seq, row := r, col := c, mode := m, init := mmInit w, slot := pl.1, elem := pl.2, val := v, cause := cause,
         poison := poison q }]
    else []
  if m = 0 ∧ pk = 2 then
    let q := 2 * (c / 16)
    mk q (c % 16) (.int (columnSum x m c (List.range 16) (el q))) 0 ++
      mk (q + 1) (c % 16) (.int (columnSum x m c ((List.range 16).map (· + 16)) fun i => el (q + 1) (i - 16))) 0
  else
    let q := if pk = 1 then c / 16 else 0
    let n := if pk = 1 then c % 16 else c
    if m = 0 ∨ m = 1 then mk q n (.int (columnSum x m c (List.range 32) (el q))) 0
    else if m = 2 then
      if c % 2 = 0 then []
      else mk 0 (c / 2) (.int (columnSum x m (c - 1) (List.range 32) (el 0) + columnSum x m c (List.range 32) (el 0))) 0
    else if m = 3 then
      let ps := columnProds x m c (el q)
      mk q n (groupOf (ps.map fun y => (y.1, y.2.1))) (lowestCause (ps.map (·.2.2)))
    else if c % 2 = 0 then []
    else
      let ps := columnProds x m c (el 0)
      mk 0 (c / 2) (groupOf (ps.map fun y => (y.1, y.2.1))) (lowestCause (ps.map (·.2.2)))

/-- STREAMED_ROW_ISSUE (R68, R74, R79, R86, R98): the oldest pass with rows left issues its next row when the array
is ON, no column waits for its flip and no droop holds the feeders (R418); the last row of a pass with SWAP carries the token. -/
def execStreamedRowIssue (d : CDie) (p : Phys) (a : ArrIx) (s : State) : Out :=
  let x := s.arr d p a
  .next <|
    match x.accepted.find? AJob.issuing with
    | none => s
    | some j =>
      if !s.arrLive d p a || !j.started || x.ramp != 2 || !x.tokens.isEmpty || s.flag d .CLK_STATUS_FSTALL then s
      else
        let w := j.ins.w; let m := awMode w; let n := mmK w * streamBytes m
        let (s, rows) := (List.range (packProblems (awPack w))).foldl
          (fun (st : State × List (Bool × List Byte)) q =>
            let (s', ok, bs) := st.1.readRange (sramDpa d p (mmRowAt w q j.pos)) n
            (s', st.2 ++ [(ok, bs)])) (s, [])
        let el (q i : Nat) : Nat := rowElem m (mmK w) (rows.getD q (true, [])).2 i
        let poison (q : Nat) : Bool := !(rows.getD q (true, [])).1
        let res := (List.range 32).flatMap fun c => columnResults x j c el poison
        let bad := rows.any fun y => !y.1
        let last := j.pos + 1 = mmRows w
        let x := { x with results := x.results ++ res, wdog := false, mode := m }
        let x := x.update j.seq fun j => { j with pos := j.pos + 1, bad := j.bad || bad }
        s.setArr d p a (if last ∧ mmSwap w then x.token j.seq else x)

/-! Results (R89-R91, R98-R102). -/

/-- First-exception capture (R90). -/
def State.fxCapture (s : State) (d p a : Nat) (hdr : List Byte) (r : PassRes) : State :=
  if r.cause = 0 then s
  else if s.flag d (.ARR_FXC0_VALID p a) then s.setF d (.ARR_FXC0_MORE p a) 1
  else
    let s := s.setReg d (Reg.ARR_FXC0 p a) (BitVec.ofNat 32 (2 ^ 31 + r.cause * 2 ^ 27 + r.slot * 256 + r.elem))
    let s := s.setReg d (Reg.ARR_FXC1 p a) (BitVec.ofNat 32 (hdrLayer hdr * 4096 + hdrOper hdr))
    s.setReg d (Reg.ARR_FXC2 p a) (BitVec.ofNat 32 (hdrMbid hdr))

/-- An integer enters an element at the mode's width; outside it the element is poisoned and IOVF sets (R99). -/
def State.addInt (s : State) (d p a slot e m : Nat) (fresh : Bool) (v : Int) (poison : Bool) : State :=
  let s := s.accMerge d p a slot e
  let old := if fresh then Elem.empty else s.elem d p a slot e
  let w := old.w + v
  if fitsWidth (intWidth m) w then
    s.setElem d p a slot e { old with w := w, poison := old.poison || poison }
  else
    let v := sx 96 (Config.freeAcc s.fresh).toNat
    (({ s with fresh := s.fresh + 1 }).setElem d p a slot e { old with w := v, poison := true }).setF d
      (.ARR_ACC_ERR_IOVF p a) 1

/-- The raises and truncations of a merge count (R101). -/
def State.tally (s : State) (d p a : Nat) (r : Merged) (hdr : List Byte) : State :=
  let s := if r.raises = 0 then s else s.countF d (arrCtr p a 5) r.raises hdr
  if r.truncs = 0 then s else s.countF d (arrCtr p a 6) r.truncs hdr

/-- An element becomes what a merge makes of it, and the merge counts. -/
def State.mergeInto (s : State) (d p a slot e : Nat) (merge : Elem → Merged) (hdr : List Byte) : State :=
  let s := s.accMerge d p a slot e
  let r := merge (s.elem d p a slot e)
  (s.setElem d p a slot e r.elem).tally d p a r hdr

/-- A float group enters an element (R100), and its raises and truncations count (R101). -/
def State.addGroup (s : State) (d p a slot e : Nat) (fresh : Bool) (eg : Option Int) (sum : Int) (cut : Nat) (poison : Bool)
    (hdr : List Byte) : State :=
  s.mergeInto d p a slot e (fun old =>
    let r := mergeGroup 96 (if fresh then Elem.empty else old) eg sum cut
    { r with elem := { r.elem with poison := r.elem.poison || poison } }) hdr

/-- One result is written into its slot. -/
def State.writeResult (s : State) (d p a : Nat) (hdr : List Byte) (r : PassRes) : State :=
  let poison := r.poison || decide (r.cause ≠ 0)
  let s := match r.val with
    | .int v => s.addInt d p a r.slot r.elem r.mode r.init v poison
    | .grp eg sum cut => s.addGroup d p a r.slot r.elem r.init eg sum cut poison hdr
  s.fxCapture d p a hdr r

/-- A pass trap (R91, R164): SPRG_STATUS.TRAP, a completion with EVT 2 and status FAULT. -/
def State.trap (s : State) (d p a : Nat) (j : AJob) : State :=
  let s := s.setF d (.SPRG_STATUS_TRAP p) 1
  match s.cmd d p j.ins.cmd with
  | some c =>
    (s.countF d (sprCtr p 3) 1 c.bytes).postEntry d p (56 + cmdCq c.bytes)
      (completionEntry c.bytes rcFault 2 (s.arrSrc d p a) 0 c.step []) false
  | none => s

/-- A pass retires after the last result of its last row has been written; it may trap (R91). -/
def State.endPass (s : State) (d p a seq : Nat) : State :=
  let x := s.arr d p a
  match x.accepted.find? fun j => j.seq = seq ∧ j.opc = opMm with
  | some j =>
    if j.issuing ∨ x.results.any fun r => r.seq = seq then s
    else
      let s := if j.exc ∧ mmTrap j.ins.w ∧ s.flag d (.ARR_CTL_TRAP_EN p a) then s.trap d p a j else s
      (s.countF d (arrCtr p a 0) 1 (s.insHdr d p j.ins)).retireIns d p a j.ins seq j.bad
  | none => s

/-- PASS_RESULT_WRITE (R98): the oldest row whose results wait at the column is written: slots in increasing order,
then elements (R90). -/
def execPassResultWrite (d : CDie) (p : Phys) (a : ArrIx) (col : Fin 32) (s : State) : Out :=
  let x := s.arr d p a
  .next <|
    match x.results.find? fun r => r.col = col.val with
    | none => s
    | some r0 =>
      if !s.arrLive d p a then s
      else
        let mine (r : PassRes) : Bool := r.col == col.val && r.seq == r0.seq && r.row == r0.row
        let rs := x.results.filter mine
        let exc := rs.any fun r => r.cause ≠ 0
        let x := { x with results := x.results.filter fun r => !mine r, wdog := false }
        let x := x.update r0.seq fun j => { j with exc := j.exc || exc }
        let hdr := match x.accepted.find? fun j => j.seq = r0.seq with
          | some j => s.insHdr d p j.ins
          | none => []
        let s := s.setArr d p a x
        (rs.foldl (fun s r => s.writeResult d p a hdr r) s).endPass d p a r0.seq

/-! Drains, ramps, watchdog. -/

/-- DRAIN_COMPLETE (R97): the oldest drain whose slots every earlier instruction has left completes. -/
def execDrainComplete (d : CDie) (p : Phys) (a : ArrIx) (s : State) : Out :=
  let x := s.arr d p a
  .next <|
    match x.accepted.find? fun j => j.opc = opDrain ∧ !x.waits j.ins.w j.seq with
    | some j =>
      if s.arrLive d p a then
        let s := s.setArr d p a (x.retire j.seq)
        (s.freeSlots d p a (slotsOf j.ins.w)).retireWord d p a j.ins rcOk
      else s
    | none => s

/-- RAMP_STEP (R85, R87): four columns turn on or off, or the ramp reverses, and the ARR_RAMPs that asked for it retire. A reversal
at the first boundary, where no column of UP is on yet or no column of DOWN is off yet, ends the ramp in OFF or ON at once
(DESIGN CHOICE, log 97). -/
def execRampStep (d : CDie) (p : Phys) (a : ArrIx) (s : State) : Out :=
  let x := s.arr d p a
  let up (c : Nat) : Arr := { x with cols := c, ramp := if 32 ≤ c then 2 else 1, reverse := false }
  let down (c : Nat) : Arr := { x with cols := c, ramp := if c = 0 then 0 else 3, reverse := false }
  .next <|
    if s.frozen then s
    else if x.ramp = 1 then
      if x.reverse then ((s.setArr d p a (down (x.cols - 4))).count d (arrCtr p a 4) 1).retireRamps d p a else s.setArr d p a (up (x.cols + 4))
    else if x.ramp = 3 then
      if x.reverse then ((s.setArr d p a (up (min 32 (x.cols + 4)))).count d (arrCtr p a 4) 1).retireRamps d p a
      else s.setArr d p a (down (x.cols - 4))
    else s

/-- IDLE_HOLD_EXPIRY (R87): an array that has been idle in ON enters DOWN. -/
def execIdleHoldExpiry (d : CDie) (p : Phys) (a : ArrIx) (s : State) : Out :=
  let x := s.arr d p a
  .next <|
    if !s.frozen ∧ x.ramp = 2 ∧ x.onlyLoads ∧ x.iq.all fun i => awOpc i.w = opLds then
      (s.setArr d p a { x with ramp := 3, reverse := false }).count d (arrCtr p a 4) 1
    else s

/-- OPERAND_WATCHDOG (R92): WDOG, WAIT_ON and a watchdog event with the command's IDs, once a stall. R92 and Table 6.9 name no STATUS
for its entry: it is TIMEOUT (DESIGN CHOICE, log 122). -/
def execOperandWatchdog (d : CDie) (p : Phys) (a : ArrIx) (s : State) : Out :=
  let x := s.arr d p a
  .next <|
    match x.accepted with
    | [] => s
    | j :: _ =>
      if !s.arrLive d p a || x.wdog then s
      else
        let s := (s.setArr d p a { x with wdog := true }).setF d (.ARR_ERR_WDOG p a) 1
        let s := s.setReg d (Reg.ARR_WAIT_ON p a) (BitVec.ofNat 32 (s.arrWait d p a))
        let s := match s.cmd d p j.ins.cmd with
          | some c => s.postEntry d p (56 + cmdCq c.bytes)
              (completionEntry c.bytes rcTimeout 1 (s.arrSrc d p a) 0 c.step []) false
          | none => s
        s.ownFault 0x30 d p 0 0 0 0

end Sys2Proof.Machine
end

