-- ==== Sys2Proof/Machine/Ieee.lean ====
section
/-! DEFINITION. binary16 and binary32 arithmetic (R45-R49, Table 2.5), the conversions of Table 2.6 and the canonical
order of R59. Encodings are numbers; flags are IV, DZ, OF, UF, NX from bit 4 down (Table 6.9 FPX). -/

namespace Sys2Proof.Machine

/-- An interchange format: precision, exponent range, width. -/
structure Fmt where
  p : Nat
  emin : Int
  emax : Int
  width : Nat
  deriving DecidableEq, Repr

def b16 : Fmt := { p := 11, emin := -14, emax := 15, width := 16 }
def b32 : Fmt := { p := 24, emin := -126, emax := 127, width := 32 }

/-- The exception flags IV, DZ, OF, UF, NX in bits 4-0 (R48). -/
abbrev FpFlags := BitVec 5

def fIV : FpFlags := 16#5
def fDZ : FpFlags := 8#5
def fOF : FpFlags := 4#5
def fUF : FpFlags := 2#5
def fNX : FpFlags := 1#5

/-- Rounding-direction attributes (Table 6.6 RM). -/
inductive FRnd where
  | tiesToEven | towardZero | towardPositive | towardNegative
  deriving DecidableEq, Repr

def frndOf (rm : Fin 4) : FRnd :=
  match rm with
  | 0 => .tiesToEven
  | 1 => .towardZero
  | 2 => .towardPositive
  | 3 => .towardNegative

def Fmt.signBit (f : Fmt) : Nat := 2 ^ (f.width - 1)
def Fmt.infMag (f : Fmt) : Nat := ((f.emax - f.emin).toNat + 2) * 2 ^ (f.p - 1)
def Fmt.mag (f : Fmt) (x : Nat) : Nat := x % f.signBit
def Fmt.neg (f : Fmt) (x : Nat) : Bool := x.testBit (f.width - 1)
def Fmt.isNaN (f : Fmt) (x : Nat) : Bool := f.infMag < f.mag x
def Fmt.isInf (f : Fmt) (x : Nat) : Bool := f.mag x = f.infMag
def Fmt.isZero (f : Fmt) (x : Nat) : Bool := f.mag x = 0
def Fmt.isFinite (f : Fmt) (x : Nat) : Bool := f.mag x < f.infMag
def Fmt.quietBit (f : Fmt) : Nat := 2 ^ (f.p - 2)
def Fmt.isSNaN (f : Fmt) (x : Nat) : Bool := f.isNaN x && !x.testBit (f.p - 2)

/-- A NaN quieted, its payload kept (R47). -/
def Fmt.quiet (f : Fmt) (x : Nat) : Nat := if x.testBit (f.p - 2) then x else x + f.quietBit

/-- The canonical quiet NaN: 0x7E00 and 0x7FC0_0000 (R47). -/
def Fmt.qNaN (f : Fmt) : Nat := f.infMag + f.quietBit

/-- The value of a finite encoding. -/
def Fmt.val (f : Fmt) (x : Nat) : Rat :=
  let m := f.mag x
  let ex := m / 2 ^ (f.p - 1)
  let fr := m % 2 ^ (f.p - 1)
  let v : Rat := if ex = 0 then (fr : Rat) * pow2 (f.emin - (f.p - 1 : Nat))
    else ((2 ^ (f.p - 1) + fr : Nat) : Rat) * pow2 ((ex : Int) - 1 + f.emin - (f.p - 1 : Nat))
  if f.neg x then -v else v

/-- A magnitude in units of the last place, rounded to a whole number in a direction. -/
def roundDir (r : FRnd) (neg : Bool) (x : Rat) : Nat :=
  let t := x.floor.toNat
  let exact : Bool := x = (t : Rat)
  match r with
  | .tiesToEven => roundMag .rne x
  | .towardZero => t
  | .towardPositive => if exact ∨ neg then t else t + 1
  | .towardNegative => if exact ∨ ¬ neg then t else t + 1

/-- An exact nonzero value rounded once into a format, with its flags; overflow by the attribute, tininess
after rounding (Table 2.5 clauses 4 and 7). -/
def Fmt.round (f : Fmt) (r : FRnd) (x : Rat) : Nat × FpFlags :=
  let a := ratAbs x
  let neg : Bool := x < 0
  let s := if neg then f.signBit else 0
  if a = 0 then (0, 0)
  else
    let e0 := ilog2 a
    let e := max e0 f.emin
    let u := pow2 (e - (f.p - 1 : Nat))
    let q := roundDir r neg (a / u)
    let mag := (e - f.emin).toNat * 2 ^ (f.p - 1) + q
    let inexact : Bool := ¬ ((q : Rat) * u = a)
    if f.infMag ≤ mag then
      let toInf := match r with
        | .tiesToEven => true
        | .towardZero => false
        | .towardPositive => !neg
        | .towardNegative => neg
      ((if toInf then f.infMag else f.infMag - 1) + s, fOF ||| fNX)
    else
      let u0 := pow2 (e0 - (f.p - 1 : Nat))
      let tiny : Bool := ((roundDir r neg (a / u0) : Nat) : Rat) * u0 < pow2 f.emin
      (mag + s, if inexact then (if tiny then fUF ||| fNX else fNX) else 0)

/-- The result of an exact sum of zero: +0, but −0 toward negative. -/
def Fmt.zeroSum (f : Fmt) (r : FRnd) : Nat := if r = .towardNegative then f.signBit else 0

/-- The first NaN operand in operand order, quieted; invalid when any operand is signalling (R47). -/
def Fmt.nanRule (f : Fmt) (ops : List Nat) : Option (Nat × FpFlags) :=
  match ops.find? f.isNaN with
  | none => none
  | some n => some (f.quiet n, if ops.any f.isSNaN then fIV else 0)

/-- fusedMultiplyAdd: a × b + c, one rounding. Infinity times 0 with a quiet NaN addend answers the NaN and raises no invalid, which IEEE 754-2019 leaves to
the implementation (DESIGN CHOICE, log 114). -/
def Fmt.fma (f : Fmt) (r : FRnd) (a b c : Nat) : Nat × FpFlags :=
  match f.nanRule [a, b, c] with
  | some x => x
  | none =>
    let ps := xor (f.neg a) (f.neg b)
    if (f.isInf a && f.isZero b) || (f.isZero a && f.isInf b) then (f.qNaN, fIV)
    else if f.isInf a || f.isInf b then
      if f.isInf c && (f.neg c != ps) then (f.qNaN, fIV)
      else (f.infMag + (if ps then f.signBit else 0), 0)
    else if f.isInf c then (c, 0)
    else
      let x := f.val a * f.val b + f.val c
      if x = 0 then
        if (f.isZero a || f.isZero b) && f.isZero c && ps == f.neg c then (c, 0)
        else (f.zeroSum r, 0)
      else f.round r x

def Fmt.add (f : Fmt) (r : FRnd) (a b : Nat) : Nat × FpFlags :=
  match f.nanRule [a, b] with
  | some x => x
  | none =>
    if f.isInf a then (if f.isInf b && (f.neg a != f.neg b) then (f.qNaN, fIV) else (a, 0))
    else if f.isInf b then (b, 0)
    else
      let x := f.val a + f.val b
      if x = 0 then
        if f.isZero a && f.isZero b && f.neg a == f.neg b then (a, 0) else (f.zeroSum r, 0)
      else f.round r x

/-- The operand with its sign changed; a NaN keeps its payload (R47). -/
def Fmt.negate (f : Fmt) (a : Nat) : Nat := if f.neg a then a - f.signBit else a + f.signBit

def Fmt.sub (f : Fmt) (r : FRnd) (a b : Nat) : Nat × FpFlags :=
  match f.nanRule [a, b] with
  | some x => x
  | none => f.add r a (f.negate b)

def Fmt.mul (f : Fmt) (r : FRnd) (a b : Nat) : Nat × FpFlags :=
  match f.nanRule [a, b] with
  | some x => x
  | none =>
    let s := if xor (f.neg a) (f.neg b) then f.signBit else 0
    if (f.isInf a && f.isZero b) || (f.isZero a && f.isInf b) then (f.qNaN, fIV)
    else if f.isInf a || f.isInf b then (f.infMag + s, 0)
    else if f.isZero a || f.isZero b then (s, 0)
    else f.round r (f.val a * f.val b)

def Fmt.div (f : Fmt) (r : FRnd) (a b : Nat) : Nat × FpFlags :=
  match f.nanRule [a, b] with
  | some x => x
  | none =>
    let s := if xor (f.neg a) (f.neg b) then f.signBit else 0
    if (f.isInf a && f.isInf b) || (f.isZero a && f.isZero b) then (f.qNaN, fIV)
    else if f.isInf a then (f.infMag + s, 0)
    else if f.isInf b then (s, 0)
    else if f.isZero b then (f.infMag + s, fDZ)
    else if f.isZero a then (s, 0)
    else f.round r (f.val a / f.val b)

/-- ⌊√n⌋, one bit a step from bit `k` down. -/
def isqrt (n : Nat) : Nat → Nat → Nat
  | 0, r => r
  | k + 1, r =>
    let c := r + 2 ^ k
    isqrt n k (if c * c ≤ n then c else r)

/-- A rational with the same rounding in every direction at precision `p` as √x, x > 0: √x cut at 2^-(p+4) units
of its own binade, with a half unit more when the cut is not exact. -/
def sqrtBracket (p : Nat) (x : Rat) : Rat :=
  let e := ilog2 x / 2
  let k : Int := (p + 4 : Nat) - e
  let y := x * pow2 (2 * k)
  let n := y.floor.toNat
  let s := isqrt n (Nat.log2 n / 2 + 1) 0
  let v : Rat := if ((s * s : Nat) : Rat) = y then (s : Rat) else (s : Rat) + 1 / 2
  v * pow2 (-k)

def Fmt.sqrt (f : Fmt) (r : FRnd) (a : Nat) : Nat × FpFlags :=
  match f.nanRule [a] with
  | some x => x
  | none =>
    if f.isZero a then (a, 0)
    else if f.neg a then (f.qNaN, fIV)
    else if f.isInf a then (a, 0)
    else f.round r (sqrtBracket f.p (f.val a))

/-- minimumNumber and maximumNumber (R47, 9.6): the other operand when exactly one is a NaN. -/
def Fmt.minMax (f : Fmt) (wantMax : Bool) (a b : Nat) : Nat × FpFlags :=
  let iv : FpFlags := if f.isSNaN a || f.isSNaN b then fIV else 0
  if f.isNaN a then (if f.isNaN b then f.quiet a else b, iv)
  else if f.isNaN b then (a, iv)
  else
    let key := fun x => if f.neg x then -((f.mag x : Int)) - 1 else (f.mag x : Int)
    (if wantMax then (if key a < key b then b else a) else (if key b < key a then b else a), 0)

/-- compareQuiet a ≥ 0 (Table 8.6 SEL): false for a NaN. -/
def Fmt.geZero (f : Fmt) (a : Nat) : Bool := !f.isNaN a && (!f.neg a || f.isZero a)

/-- convertFormat between binary16 and binary32 (R159 FCVT); a NaN keeps the leading bits of its payload. -/
def convertFormat (src dst : Fmt) (r : FRnd) (a : Nat) : Nat × FpFlags :=
  let s := if src.neg a then dst.signBit else 0
  if src.isNaN a then
    let fr := src.quiet a % 2 ^ (src.p - 1)
    let fr' := if src.p ≤ dst.p then fr * 2 ^ (dst.p - src.p) else fr / 2 ^ (src.p - dst.p)
    (dst.infMag + fr' + s, if src.isSNaN a then fIV else 0)
  else if src.isInf a then (dst.infMag + s, 0)
  else if src.isZero a then (s, 0)
  else dst.round r (src.val a)

/-- binary32 with every operation rounded to nearest even. -/
def fadd32 (a b : Nat) : Nat := (b32.add .tiesToEven a b).1
def fsub32 (a b : Nat) : Nat := (b32.sub .tiesToEven a b).1
def fmul32 (a b : Nat) : Nat := (b32.mul .tiesToEven a b).1
def fdiv32 (a b : Nat) : Nat := (b32.div .tiesToEven a b).1
def ffma32 (a b c : Nat) : Nat := (b32.fma .tiesToEven a b c).1
def fsqrt32 (a : Nat) : Nat := (b32.sqrt .tiesToEven a).1

/-- An exact value rounded once to binary32, RNE; zero is +0. -/
def toB32 (x : Rat) : Nat := (b32.round .tiesToEven x).1

/-- An exact value stored in a binary format: RNE, saturating at the largest finite magnitude, counted as a clip
(Table 4.8), with the flags of the conversion. -/
def toBinSat (f : Fmt) (x : Rat) : Nat × Bool × FpFlags :=
  let r := f.round .tiesToEven x
  if f.isInf r.1 then (r.1 - 1, true, r.2)
  else (if f.isZero r.1 ∧ x < 0 then f.signBit else r.1, false, r.2)

/-- binary16 or binary32 into L16 (Table 2.6); none is POISON. -/
def binToL16 (f : Fmt) (m : Rnd) (a : Nat) : Nat :=
  if f.isFinite a then (toL16 m (f.val a)).1 else l16Poison

/-- L16 into binary32 (Table 2.6), with its flags and whether it clipped. -/
def l16ToB32 (a : Nat) : Nat × FpFlags × Bool :=
  match l16Val a with
  | none => (b32.qNaN, 0, false)
  | some v =>
    if (a >>> 7) % 256 = 255 then
      (b32.infMag - 1 + (if a.testBit 15 then b32.signBit else 0), fOF ||| fNX, true)
    else ((b32.round .tiesToEven v).1, 0, false)

/-- L16 into binary16 (Table 2.6), with its flags and whether it clipped. -/
def l16ToB16 (a : Nat) : Nat × FpFlags × Bool :=
  match l16Val a with
  | none => (b16.qNaN, 0, false)
  | some v =>
    let (y, fl) := b16.round .tiesToEven v
    if b16.isInf y then (y - 1, fOF ||| fNX, true)
    else if b16.isZero y ∧ v < 0 then (b16.signBit, fl, false)
    else (y, fl, false)

/-- One chunk of R59: sequential addition in increasing index. -/
def chunkSum : List Nat → Nat
  | [] => 0
  | x :: xs => xs.foldl fadd32 x

/-- One level of the tree of R59: adjacent results added, an unpaired last result passed up. -/
def treeLevel : List Nat → List Nat
  | a :: b :: rest => fadd32 a b :: treeLevel rest
  | l => l

/-- The tree of R59 over chunk results, level by level. -/
def treeSum : Nat → List Nat → Nat
  | _, [] => 0
  | _, [x] => x
  | 0, x :: _ => x
  | n + 1, l => treeSum n (treeLevel l)

/-- The chunks of 16 consecutive elements. -/
def chunks16 {α : Type} (xs : List α) : List (List α) :=
  (List.range (cdiv xs.length 16)).map fun i => (xs.drop (16 * i)).take 16

/-- The canonical-order sum of R59. -/
def canonSum (xs : List Nat) : Nat :=
  treeSum xs.length ((chunks16 xs).map chunkSum)

end Sys2Proof.Machine
end

