-- ==== Sys2Proof/Machine/Random.lean ====
section
/-! DEFINITION. The stochastic-rounding generator (R52-R56). -/

namespace Sys2Proof.Machine

/-- Table 2.9: C[r], P[r], Q[r]. -/
def srConst : List (Word × Nat × Nat) :=
  [(0x7A3C15E1#32, 13, 18), (0xC4D29B07#32, 7, 26), (0x1F8E6A53#32, 21, 10), (0xA935F2C8#32, 11, 15),
   (0x3E710D9F#32, 17, 6), (0xD06B47A2#32, 5, 22), (0x5B2FC816#32, 25, 12), (0xE8A43371#32, 9, 27),
   (0x0C97D5BE#32, 19, 8), (0x96E31A4D#32, 14, 20), (0x41B8EF62#32, 23, 16), (0xF25D7C09#32, 6, 29)]

/-- One round of R55 under the key word of the round. -/
def srRound (key : Word) (c : Word × Nat × Nat) (x : Word × Word × Word × Word) : Word × Word × Word × Word :=
  let (x0, x1, x2, x3) := x
  let x0 := x0 + key + c.1
  let x1 := (x1 ^^^ x0).rotateLeft c.2.1
  let x2 := x2 + x1
  let x3 := (x3 ^^^ x2).rotateLeft c.2.2
  let x0 := x0 + x3
  (x1, x2, x3, x0)

/-- The twelve rounds, the key word taken as r mod 3. -/
def srRounds (k0 k1 k2 : Word) : List (Word × Nat × Nat) → Word × Word × Word × Word → Word × Word × Word × Word
  | [], x => x
  | c :: cs, x => srRounds k1 k2 k0 cs (srRound k0 c x)

/-- sr_call of R55: 128 bits from the job seed, tensor ID, step and logical element index. -/
def srCall (seed : BitVec 64) (tensor : BitVec 24) (step : Word) (index : BitVec 40) : BitVec 128 :=
  let k0 : Word := seed.extractLsb' 0 32
  let k1 : Word := seed.extractLsb' 32 32
  let k2 : Word := k0 ^^^ k1 ^^^ 0x2F6B94C3#32
  let x1 : Word := ((tensor.setWidth 32) <<< 8) ||| (index.extractLsb' 32 8).setWidth 32
  let (y0, y1, y2, y3) := srRounds k0 k1 k2 srConst (index.extractLsb' 0 32, x1, step, 0x5F1D2A47#32)
  (y3 + k0) ++ (y2 + k2) ++ (y1 + k1) ++ (y0 + k0)

/-- Lane j of a generator call: bits [16j+15:16j] (R53). -/
def srLane (w : BitVec 128) (lane : Nat) : Nat := bits w (16 * lane + 15) (16 * lane)

/-- The keys of a rounding consumer (R53): job seed, step, tensor ID, lane, and the mode fields it carries (R50). -/
structure SrKey where
  seed : BitVec 64
  step : Word
  tid : Nat
  lane : Nat
  rmode : Nat
  srk : Nat
  deriving DecidableEq, Repr

/-- The rounding of the element with a logical index (R50-R53). -/
def SrKey.rnd (k : SrKey) (index : Nat) : Rnd :=
  match k.rmode with
  | 0 => .rne
  | 1 =>
    let n := srBits k.srk
    .sr n (srLane (srCall k.seed (BitVec.ofNat 24 k.tid) k.step (BitVec.ofNat 40 index)) k.lane % 2 ^ n)
  | _ => .rz

/-- The sign of element i of a rotated dimension: negative when the generator's bit is 1 (R114). -/
def rotNegative (seed : BitVec 64) (rotId : Nat) (i : Nat) : Bool :=
  (srCall seed (BitVec.ofNat 24 rotId) 0xFFFFFFFF#32 (BitVec.ofNat 40 (i / 128))).getLsbD (i % 128)

end Sys2Proof.Machine
end

