-- ==== Sys2Proof/Machine/Accum.lean ====
section
/-! DEFINITION. ACC_LOAD, ACC_STORE, spill entries, rescale, and the outlier side unit (R103-R112, R121). -/

namespace Sys2Proof.Machine

/-! The scale-tag table. -/

/-- The eight words of scale-tag entry `i` (chapter 4). -/
def State.stagWords (s : State) (d p i : Nat) : List Word := (List.range 8).map fun k => s.reg d (stagBase p i + 4 * k)

/-- The conversion parameters of an entry: scale words, M, S, rounding keys and index step. -/
structure Conv where
  sa : Nat
  sb : Nat
  so : Nat
  mul : Nat
  shift : Nat
  key : SrKey
  irow : Nat
  deriving DecidableEq, Repr

def convOf (ws : List Word) (seed : BitVec 64) (step : Word) : Conv :=
  let w (i : Nat) : Word := ws.getD i 0
  { sa := (w 0).toNat, sb := (w 1).toNat, so := (w 2).toNat, mul := (w 3).toNat, shift := bits (w 4) 31 26,
    key := { seed := seed, step := step, tid := bits (w 5) 23 0, lane := bits (w 4) 18 16, rmode := bits (w 4) 25 24,
             srk := bits (w 4) 23 19 },
    irow := (w 6).toNat + bits (w 7) 7 0 * 2 ^ 32 }

/-- The job seed of a sprig's job context (R152). -/
def State.sprigSeed (s : State) (d p : Nat) : BitVec 64 := s.reg d (Reg.SPRG_SEED_HI p) ++ s.reg d (Reg.SPRG_SEED_LO p)

/-- The product scale (R94). -/
def Conv.scale (c : Conv) : Rat := (scaleOf c.sa).val * (scaleOf c.sb).val

/-- The exact value of an element (R94). -/
def Elem.value (e : Elem) (m : Nat) (scale : Rat) : Rat :=
  if modeFloat m then (e.w : Rat) * pow2 (e.anchor - 88) else (e.w : Rat) * scale

/-- What a converted store writes for an element, and what it reports (R103, R104, R112, Table 4.8). -/
def Conv.store (c : Conv) (m fmt index : Nat) (e : Elem) : Nat × Report :=
  let base : Report := { Report.none with elems := 1 }
  let rnd := c.key.rnd (index % 2 ^ 40)
  if e.poison then
    let code := if fmt = 2 then l16Poison else if fmt = 3 then 0x7E00 else if fmt = 4 then 0x7FC00000 else 0
    (code, { base with poison := 1, zeros := if fmt < 2 then 1 else 0 })
  else
    let x := e.value m c.scale
    let amax := amaxL16 x
    let (code, clip) : Nat × Bool :=
      if fmt < 2 then
        let n := if fmt = 0 then 8 else 16
        if (scaleOf c.so).zero then (0, decide (x ≠ 0))
        else if (scaleOf c.sa).zero ∨ (scaleOf c.sb).zero then (0, false)
        else
          let q := roundInt rnd ((e.w : Rat) * (c.mul : Rat) * pow2 (-(c.shift : Int)))
          let r := satQ n q
          (lowBits n r.1, r.2)
      else if fmt = 2 then toL16 rnd x
      else let r := toBinSat (if fmt = 3 then b16 else b32) x; (r.1, r.2.1)
    (code, { base with amax := amax, clips := clip.toNat, zeros := if code = 0 then 1 else 0 })

/-! Spill entries (R107, Table 4.9). -/

def spillOf (fl : Bool) (v : Nat) : Elem :=
  if fl then { w := sx 116 v, anchor := sx 10 (v / 2 ^ 116), sticky := v.testBit 126, poison := v.testBit 127 }
  else { w := sx 127 v, anchor := 0, sticky := false, poison := v.testBit 127 }

/-- An element as a spill entry (R107). A sum past the 127 bits of an integer entry keeps its low 127 bits, on which the spec is silent
(DESIGN CHOICE, log 116). -/
def Elem.spill (e : Elem) (fl : Bool) : Nat :=
  if fl then lowBits 116 e.w + lowBits 10 e.anchor * 2 ^ 116 + e.sticky.toNat * 2 ^ 126 + e.poison.toNat * 2 ^ 127
  else lowBits 127 e.w + e.poison.toNat * 2 ^ 127

/-- An element added into a spill entry: integers exactly in 127 bits, floats by the steps of R100 with the window of
116 bits (R107). -/
def spillAdd (fl : Bool) (entry e : Elem) : Merged :=
  if fl then mergeElem 116 entry e
  else { elem := { entry with w := entry.w + e.w, poison := entry.poison || e.poison }, raises := 0, truncs := 0 }

/-! ACC_STORE (R103-R107). -/

/-- The named slots are OPEN in the word's MODE with one row width (R103). -/
def storeTag (x : Arr) (i : AInst) : Bool :=
  match slotsOf i.w with
  | [] => false
  | a :: t => !((x.tag a).isOpen && (x.tag a).mode == awMode i.w &&
      t.all fun b => (x.tag b).isOpen && (x.tag b).mode == awMode i.w && (x.tag b).wide == (x.tag a).wide)

/-- The row width of the slots a store reads. -/
def storeWide (x : Arr) (w : AWord) : Bool := (x.tag (awAcc w)).wide

/-- The elements of the stored tile in tile order: row, column, slot, element (Table 4.1). -/
def tileElems (w : AWord) (slots : Nat) (wide : Bool) : List (Nat × Nat × Nat × Nat) :=
  (List.range (slots * 256)).map fun i =>
    (i / tileWidth wide, i % tileWidth wide, awAcc w + i / 256, i % 256)

/-- The store's move: reads the slots, each under its own scale-tag entry, converts or spills, writes sprig SRAM. `stag` holds the
eight words of each slot's entry, slot by slot. Answers whether every accumulator codeword and spill entry it read was readable. -/
def State.storeTile (s : State) (d p a : Nat) (w : AWord) (wide : Bool) (stag : List Word) (hdr : List Byte) (step : Word) :
    State × Bool :=
  let m := awMode w; let fl := modeFloat m; let n := accSlots w
  let conv (k : Nat) : Conv := convOf ((stag.drop (8 * k)).take 8) (s.sprigSeed d p) step
  let els := tileElems w n wide
  let spAt (i : Nat) : Nat := sramDpa d p ((if accKind w = 0 then 32 * stSpsrc w else 32 * stDst w) + 16 * i)
  let needSpill := (accKind w = 0 ∧ stSpadd w) ∨ accKind w = 2
  let (s, oks) := if needSpill then let r := s.readRange (spAt 0) (16 * els.length); (r.1, r.2.1) else (s, true)
  let (s, ok) := (slotsOf w).foldl (fun (x : State × Bool) k => let y := x.1.readSlot d p a k; (y.1, x.2 && y.2)) (s, oks)
  if !ok then
    let ranges := if accKind w = 0 then
        (List.range (tileRows n wide)).map fun r => (32 * (stDst w + r * stRstride w), tileWidth wide * fmtBytes (accFmt w))
      else [(32 * stDst w, 16 * els.length)]
    (ranges.foldl (fun s r => s.scramble (sramDpa d p r.1) r.2) s, false)
  else
    let step (acc : State × Report) (i : Nat) : State × Report :=
      let (s, rep) := acc
      let (r, col, slot, e) := els.getD i (0, 0, 0, 0)
      let x := s.elemRead d p a slot e
      let old := spillOf fl (leNat (s.view (spAt i) 16))
      if accKind w = 0 then
        let c := conv (i / 256)
        let g := if stSpadd w then spillAdd fl old x else { elem := x, raises := 0, truncs := 0 }
        let (code, rp) := c.store m (accFmt w) (stIbase w + r * c.irow + col) g.elem
        let k := fmtBytes (accFmt w)
        let dst := sramDpa d p (32 * (stDst w + r * stRstride w) + col * k)
        ((s.tally d p a g hdr).writeRange dst (natLe k code), rep.add rp)
      else
        let g := if accKind w = 2 then spillAdd fl old x else { elem := x, raises := 0, truncs := 0 }
        ((s.tally d p a g hdr).writeRange (spAt i) (natLe 16 (g.elem.spill fl)), rep)
    let slotStep (s : State) (k : Nat) : State :=
      let (s, rep) := ((List.range 256).map (256 * k + ·)).foldl step (s, Report.none)
      if accKind w = 0 then s.sage d (conv k).key.tid (some (hdrMbid hdr)) rep else s
    ((List.range n).foldl slotStep s, true)

/-! ACC_LOAD (R104, R106, R107). -/

/-- The element a converted load places (R104). -/
def loadElem (m fmt v : Nat) : Elem :=
  if !modeFloat m then { Elem.empty with w := if fmt = 0 then sx 8 v else sx 16 v }
  else
    let place (x : Rat) : Elem :=
      if x = 0 then Elem.empty
      else
        let A := ilog2 (ratAbs x)
        { Elem.empty with w := (x * pow2 (88 - A)).floor, anchor := A }
    let bad : Elem := { Elem.empty with poison := true }
    if fmt = 2 then (match l16Val v with | some x => place x | none => bad)
    else
      let f := if fmt = 3 then b16 else b32
      if f.isFinite v then place (f.val v) else bad

/-- A loaded element enters its slot: overwriting, or added (R104, R107). -/
def State.loadInto (s : State) (d p a slot e m : Nat) (add : Bool) (x : Elem) (hdr : List Byte) : State :=
  if modeFloat m then
    if add then s.mergeInto d p a slot e (mergeElem 96 · x) hdr
    else s.setElem d p a slot e x
  else s.addInt d p a slot e m (!add) x.w x.poison

/-- The load's move. Answers whether every source codeword was readable; an unreadable one poisons every element the
load writes (R250). -/
def State.loadTile (s : State) (d p a : Nat) (w : AWord) (hdr : List Byte) : State × Bool :=
  let m := awMode w; let fl := modeFloat m; let n := accSlots w; let wide := ldWide w
  let els := tileElems w n wide
  let k := if accKind w = 0 then fmtBytes (accFmt w) else 16
  let src (i r col : Nat) : Nat :=
    sramDpa d p (if accKind w = 0 then 32 * (ldSrc w + r * ldRstride w) + col * k else 32 * ldSrc w + 16 * i)
  let s := if ldAdd w then s else (slotsOf w).foldl (fun s k => s.accFresh d p a k) s
  let step (acc : State × Bool) (i : Nat) : State × Bool :=
    let (s, ok) := acc
    let (r, col, slot, e) := els.getD i (0, 0, 0, 0)
    let (s, ok', bs) := s.readRange (src i r col) k
    let v := leNat bs
    let x := if accKind w = 0 then loadElem m (accFmt w) v else spillOf fl v
    let outside := accKind w = 1 ∧ !fitsWidth (if fl then 96 else intWidth m) x.w
    let s :=
      if outside then
        let old := if ldAdd w then s.elem d p a slot e else x
        ({ s with fresh := s.fresh + 1 }.setElem d p a slot e
          { old with w := sx 96 (Config.freeAcc s.fresh).toNat, poison := true }).setF d (.ARR_ACC_ERR_RANGE p a) 1
      else s.loadInto d p a slot e m (ldAdd w) x hdr
    (s, ok && ok')
  let (s, ok) := (List.range els.length).foldl step (s, true)
  if ok then (s, true)
  else
    (els.foldl (fun s y => s.setElem d p a y.2.2.1 y.2.2.2 { s.elem d p a y.2.2.1 y.2.2.2 with poison := true }) s, false)

/-- The move of an accepted load or store that no longer waits; the instruction retires with it (R98, R106). -/
def State.moveTile (s : State) (d p a : Nat) (j : AJob) : State :=
  let w := j.ins.w
  let hdr := s.insHdr d p j.ins
  let step := match s.cmd d p j.ins.cmd with | some c => BitVec.ofNat 32 c.step | none => 0
  if awOpc w = opLoad then
    let (s, ok) := s.loadTile d p a w hdr
    s.retireIns d p a j.ins j.seq !ok
  else
    let (s, ok) := s.storeTile d p a w (j.pos = 1) j.stag hdr step
    let x := s.arr d p a
    let s := s.setArr d p a (x.retire j.seq)
    let s := if stFree w then s.freeSlots d p a (slotsOf w) else s
    s.retireIns d p a j.ins j.seq !ok

/-- An accepted load or store starts at once when no earlier instruction holds its slots. -/
def State.tryMove (s : State) (d p a seq : Nat) : State :=
  let x := s.arr d p a
  match x.accepted.find? fun j => j.seq = seq with
  | some j => if x.waits j.ins.w seq then s else s.moveTile d p a j
  | none => s

/-- ACC_LOAD (R95, R96, R104): updates slot tags as it is accepted, and moves its tile once its slots are free. -/
def execAccLoad (d : CDie) (p : Phys) (a : ArrIx) (s : State) : Out :=
  .next <| acceptHead s d p a opLoad (fun _ _ => true) (fun _ _ i => wordIllegal i.w false)
    (fun _ x i => decide (awMode i.w < 5 ∧ accShape i.w ≠ 3) &&
      !tagsAccept x (slotsOf i.w) (awMode i.w) (ldWide i.w) (ldStag i.w) (!ldAdd i.w))
    fun s i =>
      let x := s.arr d p a
      let x' := openSlots x (slotsOf i.w) (awMode i.w) (ldWide i.w) (ldStag i.w)
      (s.setArr d p a (x'.accept i false [])).tryMove d p a x.seq

/-- ACC_STORE (R103): samples the scale-tag entry of each slot as it is accepted, marks its slots draining with FREE, and moves its
tile once its slots are free. `pos` 1 keeps that the slots' rows are 32 wide. -/
def execAccStore (d : CDie) (p : Phys) (a : ArrIx) (s : State) : Out :=
  .next <| acceptHead s d p a opStore (fun _ _ => true) (fun _ x i => wordIllegal i.w (storeWide x i.w))
    (fun _ x i => decide (awMode i.w < 5 ∧ accShape i.w ≠ 3) && storeTag x i)
    fun s i =>
      let x := s.arr d p a
      let stag := (slotsOf i.w).flatMap fun k => s.stagWords d p (x.tag k).stag
      let wide := storeWide x i.w
      let x' := if stFree i.w then drainSlots x (slotsOf i.w) else x
      let x' := (x'.accept i false stag).update x.seq fun j => { j with pos := wide.toNat }
      (s.setArr d p a x').tryMove d p a x.seq

/-- SLOT_ACCESS_START (R98): the oldest accepted instruction that waited for its slots, and waits no more, begins to
read or write them: a load or store moves its tile, a pass may stream its rows. -/
def execSlotAccessStart (d : CDie) (p : Phys) (a : ArrIx) (s : State) : Out :=
  let x := s.arr d p a
  .next <|
    match x.accepted.find? fun j => !j.started ∧ j.opc ≠ opDrain ∧ !x.waits j.ins.w j.seq with
    | some j =>
      if s.arrLive d p a then
        if j.opc = opLoad ∨ j.opc = opStore then s.moveTile d p a j
        else s.setArr d p a { x.update j.seq fun j => { j with started := true } with wdog := false }
      else s
    | none => s

/-! The outlier side unit (R120, R121). -/

/-- OUTLIER_SIDE_ADD (R121): entry `entry` of an outlier record of row `row` adds rho x w[k][n], rounded to nearest even at the
slot's unit, into every output column of the N8 tile whose first slot is `slot`; a slot with rows of 16 holds a PK4 problem's whole
tile (Table 4.1). A POISON rho gives POISON in every column (R38). A FREE slot whose number is a multiple of 4 counts as the first
of a 32-wide N8 tile, and a misaligned wide slot is left alone (DESIGN CHOICE, log 74). -/
def execOutlierSideAdd (d : CDie) (p : Phys) (a : ArrIx) (rec : Dpa) (entry : Fin 64) (row slot : Fin 32)
    (wsrc rstride : BitVec 16) (q4 : Bool) (k nm1 : Fin 32) (s : State) : Out :=
  let t := (s.arr d p a).tag slot
  let narrow := t.isOpen && !t.wide
  .next <|
    if !s.live d p || (!narrow && slot.val % 4 != 0) || !s.jobRange rec.toNat 272 then s
    else
      let (s, ok, bs) := s.readRange rec.toNat 272
      if !ok ∨ fldBits bs 0 4 7 0 ≤ entry.val then s
      else
        let rho := l16Val (fldBits bs (16 + 4 * entry.val) 4 31 16)
        (List.range (nm1.val + 1)).foldl (fun s n =>
          let base := 32 * (wsrc.toNat + n * rstride.toNat)
          let at_ := base + (if q4 then k.val / 2 else k.val)
          if sramSize ≤ at_ then s
          else
            let (s, ok, b) := s.readRange (sramDpa d p at_) 1
            let wt := if q4 then sx 4 (fld b 0 1 / (if k.val % 2 = 0 then 1 else 16)) else sx 8 (fld b 0 1)
            let sl := if narrow then slot.val else slot.val + row.val / 8
            let e := if narrow then 16 * row.val + n else 32 * (row.val % 8) + n
            if narrow ∧ (16 ≤ row.val ∨ 16 ≤ n) then s
            else s.addInt d p a sl e 0 false (roundInt .rne (rho.getD 0 * (wt : Rat))) (!ok || rho.isNone)) s

end Sys2Proof.Machine
end

