-- ==== Sys2Proof/Machine/Exp.lean ====
section
/-! DEFINITION. EXPW of the attention-stream engine (R187). -/

namespace Sys2Proof.Machine

/-- L of R187: log₂ e rounded to 64 fraction bits. -/
def log2e : Rat := (0x171547652B82FE177 : Nat) * pow2 (-64)

/-- Precision in bits of the powers of two that EXPW evaluates. -/
def expPrec : Nat := 160

/-- The product over the set bits of f (bit `k` − 1 first) of 2^(2^(k−1−40)); `root` is 2^(2^-i) at `expPrec` bits. -/
def exp2Frac (f : Nat) : Nat → Nat → Nat → Nat
  | 0, _, acc => acc
  | k + 1, root, acc =>
    let r := isqrt (root * 2 ^ expPrec) (expPrec + 2) 0
    exp2Frac f k r (if f.testBit k then acc * r / 2 ^ expPrec else acc)

/-- 2^z for a multiple z of 2^-40, to `expPrec` bits, as an exact rational near the true value; exact when z is
whole. -/
def exp2 (z : Rat) : Rat :=
  let n := z.floor
  let f := ((z - (n : Rat)) * pow2 40).floor.toNat
  if f = 0 then pow2 n
  else ((exp2Frac f 40 (2 ^ (expPrec + 1)) (2 ^ expPrec) : Nat) : Rat) * pow2 (n - expPrec)

/-- A positive value rounded to nearest even at 24 significant bits. -/
def round24 (x : Rat) : Rat :=
  let e := ilog2 x - 23
  (roundMag .rne (x / pow2 e) : Rat) * pow2 e

/-- EXPW(s, K): the weight w (24 significant bits) and ŵ (a multiple of 2^-64). -/
def expw (s : Rat) (k : Int) : Rat × Rat :=
  let z := s * log2e - (k : Rat)
  let z' := (roundInt .rne (z * pow2 40) : Rat) * pow2 (-40)
  let w := round24 (exp2 z')
  (w, (roundMag .rne (w * pow2 64) : Rat) * pow2 (-64))

end Sys2Proof.Machine
end

