-- ==== Sys2Proof/Machine/Route.lean ====
section
/-! DEFINITION. The bridges between the dies and the fixed routes across them (R16-R21, R369). -/

namespace Sys2Proof.Machine

/-! Bridges (R16, Table 1.2): rows 0-13, columns 14-21, left end 22-25, right end 26-29 (log 48). -/

/-- The compute die at a bridge's left or upper end, or its only one. -/
def bridgeEnd (b : Nat) : Nat :=
  if b < 7 then b else if b < 14 then b + 1 else if b < 22 then b - 14
  else if b % 2 = 0 then (if b < 26 then 0 else 7) else (if b < 26 then 8 else 15)

/-- Its port there: W 0, E 1, V 2, X 3. -/
def bridgePort (b : Nat) : Nat :=
  if b < 14 then 1 else if b < 22 then 2 else if b < 24 then 0 else if b < 26 then 3 else if b < 28 then 1 else 3

/-- The die at a bridge's other end (Tables 1.1 and 1.2). -/
def bridgeFar (b : Nat) : Nat :=
  if b < 14 then bridgeEnd b + 1 else if b < 22 then bridgeEnd b + 8
  else if b < 24 then 16 else if b < 26 then 18 else if b < 28 then 17 else 19

/-- The compute dies that a bridge joins. -/
def bridgeDies (b : Nat) : List Nat :=
  if b < 14 then [bridgeEnd b, bridgeEnd b + 1] else if b < 22 then [bridgeEnd b, bridgeEnd b + 8] else [bridgeEnd b]

/-- The bridge that joins two dies. -/
def bridgeOf (x y : Nat) : Option Nat :=
  (List.range 30).find? fun b => (bridgeEnd b == x && bridgeFar b == y) || (bridgeEnd b == y && bridgeFar b == x)

/-- The bridges between consecutive dies of a route. -/
def bridgesOf : List Nat → List (Option Nat)
  | x :: y :: t => bridgeOf x y :: bridgesOf (y :: t)
  | _ => []

/-! Routes (R20). -/

/-- The column of a die; a link or control die lies beyond column 0 or column 7 (Table 1.1). -/
def dieCol (d : Nat) : Nat := if d < 16 then d % 8 else if d % 2 = 0 then 0 else 7

/-- The compute dies of a row from one column to another, both included. -/
def rowPath (row c0 c1 : Nat) : List Nat :=
  if c0 ≤ c1 then (List.range (c1 + 1 - c0)).map fun i => 8 * row + c0 + i
  else (List.range (c0 + 1 - c1)).map fun i => 8 * row + c0 - i

/-- A route that travels along a row: from the source to the row at the source's column, along it, and to the destination at
the destination's column. -/
def viaRow (row a b : Nat) : List Nat :=
  let path := rowPath row (dieCol a) (dieCol b)
  (if path.head? = some a then [] else [a]) ++ path ++ (if path.getLast? = some b then [] else [b])

/-- The row of a fixed route (R20): a compute die's own row; a packet of a link or control die takes its destination's row;
between two of those the upper row (log 81). -/
def routeRow (a b : Nat) : Nat := if a < 16 then a / 8 else if b < 16 then b / 8 else 0

/-- The dies of the fixed route between two dies, both included (R20). -/
def baseRoute (a b : Nat) : List Nat := if a = b then [a] else viaRow (routeRow a b) a b

/-- The detour through the other row (R369). -/
def detourRoute (a b : Nat) : List Nat := if a = b then [a] else viaRow (1 - routeRow a b) a b

/-- No die or bridge of a route is lost; `detours` lists a lost bridge as 32 + bridge. -/
def State.routeClear (s : State) (r : List Nat) : Bool :=
  (r.all fun d => !s.lostDies.contains d) &&
    (bridgesOf r).all fun b => match b with
      | some b => !s.detours.contains (32 + b)
      | none => false

/-- The dies that a packet crosses from one die to another: the fixed route, or its detour (R20, R369). -/
def State.route (s : State) (a b : Nat) : Option (List Nat) :=
  if s.routeClear (baseRoute a b) then some (baseRoute a b)
  else if s.routeClear (detourRoute a b) then some (detourRoute a b)
  else none

/-- A packet from a die reaches every die of a list. -/
def State.reaches (s : State) (a : Nat) (ds : List Nat) : Bool := ds.all fun b => (s.route a b).isSome

/-- Time across a route: 12 ns a bridge and 4 ns a die between (R17, R21). -/
def routeNs (r : List Nat) : Nat := 12 * (r.length - 1) + 4 * (r.length - 2)

end Sys2Proof.Machine
end

