-- ==== Sys2Proof/Machine/Fabric.lean ====
section
/-! DEFINITION. Ports, the fabric map, the Thyme tree and routes between modules (R300, R312-R318). -/

namespace Sys2Proof.Machine

/-! Ports. -/

def portDie (pt : Nat) : Nat := 16 + pt / 8
def portIx (pt : Nat) : Nat := pt % 8
def State.port (s : State) (pt : Nat) : PortS := Store.get PortS.fresh s.edge.ports pt
def State.setPort (s : State) (pt : Nat) (x : PortS) : State :=
  { s with edge := { s.edge with ports := Store.set PortS.fresh s.edge.ports pt x } }
def State.modPort (s : State) (pt : Nat) (f : PortS → PortS) : State := s.setPort pt (f (s.port pt))
def State.portState (s : State) (pt : Nat) : Nat := s.getF (portDie pt) (.LNK_PORT_STATUS_STATE (portIx pt))
def State.setPortState (s : State) (pt v : Nat) : State := s.setF (portDie pt) (.LNK_PORT_STATUS_STATE (portIx pt)) v
def State.portGen (s : State) (pt : Nat) : Nat := s.getF (portDie pt) (.LNK_PORT_STATUS_GEN (portIx pt))
/-- UP: STATE is UP or REPAIR (R302: no frame is lost while a lane moves). -/
def State.portUp (s : State) (pt : Nat) : Bool := s.portState pt = 2 || s.portState pt = 3
/-- A port that carries native or compatibility frames. -/
def State.nativeUp (s : State) (pt : Nat) : Bool := s.portUp pt && s.portGen pt ≠ 2
/-- The twin of a port (R300). -/
def twinOf (pt : Nat) : Nat := (pt + 8) % 16
/-- A port that takes traffic: its traffic is not away with its twin (R312). -/
def State.carries (s : State) (pt : Nat) : Bool := s.nativeUp pt && (!(s.port pt).away || !s.nativeUp (twinOf pt))
/-! The fabric and the Thyme tree (R314-R318). -/

/-- The port entry of a module in the fabric map. -/
def Job.fabricPort (j : Job) (m p : Nat) : Nat := fld j.fabric (16 + 80 * m + 16 + 4 * p) 4

/-- A link ends at a failed port of this module (R316). -/
def Job.deadLink (j : Job) (m p : Nat) : Bool :=
  let w := j.fabricPort m p
  if m = j.modIx then j.dead.contains p else w % 1024 == j.modIx && j.dead.contains (w / 1024 % 16)

/-- Neighbours of a module over PRESENT ports that carry frames, among the survivors and without failed ports: port and peer. -/
def Job.neighbours (j : Job) (m : Nat) : List (Nat × Nat) :=
  (List.range 16).filterMap fun p =>
    let w := j.fabricPort m p
    if w.testBit 14 ∧ !w.testBit 15 ∧ j.members.contains (w % 1024) ∧ !j.deadLink m p then some (p, w % 1024) else none

/-- Modules at growing hop distance from a set; the answer lists each reached module with its distance. -/
def Job.spread (j : Job) : Nat → Nat → List Nat → List (Nat × Nat) → List (Nat × Nat)
  | 0, _, _, seen => seen
  | n + 1, dist, front, seen =>
    let next := ((front.flatMap fun m => (j.neighbours m).map (·.2)).eraseDups).filter fun m => !(seen.any fun x => x.1 = m)
    if next.isEmpty then seen else j.spread n (dist + 1) next (seen ++ next.map fun m => (m, dist + 1))

/-- The hop distance between modules. -/
def Job.hops (j : Job) (a b : Nat) : Option Nat := ((j.spread 1024 0 [b] [(b, 0)]).find? fun x => x.1 = a).map (·.2)

/-- The group's Thyme root (R318). -/
def Job.root (j : Job) : Nat := (j.members.foldl min 1024)

/-- The Thyme parent of any module by the fabric map (R318). -/
def Job.treeParent (j : Job) (m : Nat) : Option Nat :=
  if m = j.root then none
  else
    let ns := (j.neighbours m).filterMap fun n => (j.hops n.2 j.root).map fun h => h * 1024 + n.2
    (ns.find? fun x => ns.all fun y => decide (x ≤ y)).map (· % 1024)

/-- The modules below this one on the Thyme tree. -/
def Job.treeKids (j : Job) : List Nat := j.members.filter fun m => j.treeParent m = some j.modIx

/-- The port that unscheduled traffic to a module takes (R316): a shortest path, the lower dimension and + direction first,
the L0 port for an even destination and the L1 port for an odd one unless it is down. -/
def State.routePort (s : State) (j : Job) (dst : Nat) : Option Nat :=
  let ns := ((j.neighbours j.modIx).filter fun n => s.carries n.1).filterMap fun n => (j.hops n.2 dst).map fun h => (h, n.1)
  let key (x : Nat × Nat) : Nat := x.1 * 64 + x.2 % 8 * 2 + (if x.2 / 8 = dst % 2 then 0 else 1)
  (ns.find? fun x => ns.all fun y => decide (key x ≤ key y)).map (·.2)

/-- The port of scheduled traffic, whose routes change at group-scope boundaries only (R316). -/
def State.schedPort (s : State) (j : Job) (dst : Nat) : Option Nat := s.routePort { j with dead := j.deadSched } dst

/-- Frames of credit that a port has for another SEND (R162, R308): what it holds on virtual channel 1, less the SENDs that wait
for a slot or to be placed. -/
def State.sendCredit (s : State) (j : Job) (pt : Nat) : Nat :=
  let x := s.port pt
  let out := s.outbox.filter fun m => match m with
    | .send k _ _ _ => s.routePort j k == some pt
    | _ => false
  x.credits.getD 1 0 - ((x.queue.filter fun f => f.1 = 1).length + out.length)

/-- The port that a SEND to another module takes, when it has no credit for it: what the SEND waits on (R162, R167). -/
def State.sendWait (s : State) (m : Nat) : Option Nat :=
  match s.job with
  | some j => (s.routePort j m).filter fun pt => s.sendCredit j pt = 0
  | none => none

end Sys2Proof.Machine
end

