-- ==== Sys2Proof/Machine/Heads.lean ====
section
/-! DEFINITION. What the scalar core does with the heads of its command queues: illegal heads, eligibility, room, the
round-robin choice, breakpoint matches, and what a waiting entry waits on (R149-R151, R155-R158, R167, R435). -/

namespace Sys2Proof.Machine

/-! Operands of commands (Tables 6.2, 6.4, 6.5). -/
def cmdA (b : List Byte) : AWord := BitVec.ofNat 128 (fld b 16 16)
def cmdB (b : List Byte) : AWord := BitVec.ofNat 128 (fld b 32 16)
def cmdCount (b : List Byte) : Nat := fld b 48 2 + 1
def cmdHasB (b : List Byte) : Bool := awOpc (cmdB b) ≠ 0
/-- The words that an ARR command issues in one repeat. -/
def cmdWords (b : List Byte) : List AWord := cmdA b :: (if cmdHasB b then [cmdB b] else [])
def dmaQueue (b : List Byte) : Nat := 16 + cmdOp b % 16
def engQueue (b : List Byte) : Nat := 48 + cmdOp b % 8
def cmdBarrier (b : List Byte) : Nat := fldBits b 16 4 27 0
def cmdWaitq (b : List Byte) : Nat := fld b 16 1
def cmdWaitCount (b : List Byte) : Nat := fld b 17 1
def sclWord (b : List Byte) (i : Nat) : Word := BitVec.ofNat 32 (fld b (16 + 4 * i) 4)

/-- The scalar operation words of an SCL command: those before its ending all-zero word. -/
def sclWords (b : List Byte) : List Word := ((List.range 12).map (sclWord b)).takeWhile (· ≠ 0)

def sclOps : List Nat := [0x01, 0x02, 0x03, 0x04, 0x05, 0x06, 0x07, 0x10, 0x11, 0x12, 0x13, 0x20, 0x21, 0x22]

/-- Reserved bits of a scalar operation word: bits [7:0] where Table 6.6 gives the OP none, RC [7:5] of an FFMA. -/
def sclReserved (w : Word) : Bool :=
  let o := bits w 31 26
  if o = 0x12 then bits w 7 5 ≠ 0
  else if o = 0x01 ∨ 0x20 ≤ o then false
  else bits w 7 0 ≠ 0

/-! Illegal commands (R156). -/

def zeroBytes (b : List Byte) (i n : Nat) : Bool := fld b i n = 0

/-- An opcode that Table 6.2 does not list, or an SCL list with a reserved OP. -/
def badOpcode (b : List Byte) : Bool :=
  let c := cmdClass b
  decide (7 ≤ c) || (decide (c = 0 ∨ c = 3 ∨ c = 5 ∨ c = 6) && cmdOp b != 0) || (c == 4 && decide (1 < cmdOp b)) ||
    (c == 5 && (sclWords b).any fun w => !sclOps.contains (bits w 31 26))

/-- A reserved bit that is not zero. -/
def badReserved (b : List Byte) : Bool :=
  let c := cmdClass b
  fldBits b 1 1 4 3 != 0 || fldBits b 2 3 23 20 != 0 || fldBits b 5 2 15 12 != 0 ||
    (c == 0 && !(fldBits b 54 1 7 1 == 0 && zeroBytes b 55 9)) ||
    (c == 1 && !(decide (cmdOp b < 16) && fldBits b 16 8 63 52 == 0 && fldBits b 24 8 63 52 == 0 && zeroBytes b 38 2 &&
      zeroBytes b 48 16)) ||
    (c == 2 && decide (8 ≤ cmdOp b)) ||
    (c == 3 && !(fldBits b 16 4 31 28 == 0 && zeroBytes b 20 4)) ||
    (c == 4 && cmdOp b == 0 && !(fldBits b 16 4 31 28 == 0 && zeroBytes b 20 44)) ||
    (c == 4 && cmdOp b == 1 && !zeroBytes b 18 46) ||
    (c == 5 && (sclWords b).any sclReserved) ||
    (c == 6 && !zeroBytes b 20 44)

/-- A field with a reserved code or outside its range. -/
def badField (b : List Byte) : Bool :=
  let c := cmdClass b
  (c == 1 && !decide (1 ≤ fld b 32 4 ∧ fld b 32 4 ≤ 2 ^ 24)) ||
    (c == 4 && cmdOp b == 0 && cmdBarrier b / 2 ^ 26 == 3) ||
    (c == 4 && cmdOp b == 1 && !decide (32 ≤ cmdWaitq b ∧ cmdWaitq b ≤ 63 ∧ 1 ≤ cmdWaitCount b ∧ cmdWaitCount b ≤ 64))

/-- The status with which an illegal command completes; the cases in R156's order. -/
def State.illegalCmd (s : State) (d p : Nat) (b : List Byte) : Option Nat :=
  if badOpcode b then some rcBadOpcode
  else if badReserved b || badField b then some rcBadArg
  else if cmdEpoch b ≠ s.getF d (.SPRG_EPOCH_EPOCH p) then some rcFault
  else none

/-- A fetched command of a unit that the drop list excludes (R370); CONTRIB and the other Fennel requests are no part of
a forward or backward unit. -/
def State.unitExcluded (s : State) (b : List Byte) : Bool :=
  match s.job with
  | some j => j.running && decide (j.phase ≤ 1) && !(cmdClass b == 2 && cmdOp b % 8 == 6) && j.excluded (hdrMbid b) (hdrLayer b)
  | none => false

/-- The status with which a head is discarded in place of a dispatch: illegal (R156), or of an excluded unit (R370). -/
def State.headDiscard (s : State) (d p : Nat) (b : List Byte) : Option Nat :=
  match s.illegalCmd d p b with
  | some st => some st
  | none => if s.unitExcluded b then some rcCancelled else none

/-! Waiting (R150, R155, R167). -/

/-- What a dispatched command waits on. -/
def State.cmdWait (s : State) (d p : Nat) (c : Cmd) : Nat :=
  let l := (s.logicalOf d p).getD 0
  let b := c.bytes
  match cmdClass b with
  | 0 => woSlot d l (awArr (cmdA b)) false 0
  | 1 => woEngine d 9
  | 2 => woEngine d (cmdOp b % 8)
  | 3 =>
    if fldBits b 16 4 27 18 = s.modIx then woSpace (fldBits b 16 4 17 0)
    else match s.sendWait (fldBits b 16 4 27 18) with | some pt => woPort (portDie pt) pt | none => 0
  | 4 => if cmdOp b = 0 then woBarrier (cmdBarrier b) else woEntry (s.qid d p (cmdWaitq b))
  | _ => 0

/-- The target's room (R150): what the command waits on when there is none. A busy issue unit or a full instruction queue shows as
accumulator slot 0 of its array, which Table 6.10 gives no class of its own (DESIGN CHOICE, log 98). -/
def State.roomWait (s : State) (d p : Nat) (b : List Byte) : Option Nat :=
  let l := (s.logicalOf d p).getD 0
  match cmdClass b with
  | 0 =>
    match ((cmdWords b).map awArr).find? fun a => (s.arr d p a).job.isSome || decide (8 ≤ (s.arr d p a).iq.length) with
    | some a => some (woSlot d l a false 0)
    | none => none
  | 1 =>
    let q := s.que d p (dmaQueue b)
    if q.accepts ∧ !q.full then none else some (woSpace (s.qid d p (dmaQueue b)))
  | 2 =>
    let q := s.que d p (engQueue b)
    if q.accepts ∧ !q.full then none else some (woSpace (s.qid d p (engQueue b)))
  | _ => none

/-- What a legal head waits on; none when it is eligible (R150). -/
def State.headWait (s : State) (d p q : Nat) (e : QEntry) : Option Nat :=
  if cmdTwait e.bytes ∧ s.getF d (.SPRG_TICK_TICK p) < e.tick then some (woTick e.tick)
  else if cmdFence e.bytes then
    match (s.spr d p).cmds.find? fun c => c.q = q with
    | some c => some (s.cmdWait d p c)
    | none => s.roomWait d p e.bytes
  else s.roomWait d p e.bytes

/-! The breakpoint (R435). -/

/-- The armed breakpoint, as the compute die holds it, matches a command. -/
def State.bpMatch (s : State) (d p : Nat) (b : List Byte) : Bool :=
  s.flag d .DBG_BP_CTL_ARM &&
    (s.flag d .DBG_BP_CTL_ANY_LAYER || s.getF d .DBG_BP_ID_LAYER == hdrLayer b) &&
    (s.flag d .DBG_BP_CTL_ANY_OPER || s.getF d .DBG_BP_ID_OPER == hdrOper b) &&
    (s.getF d .DBG_BP_CTL_MBID == 0xFFFF || s.getF d .DBG_BP_CTL_MBID == hdrMbid b) &&
    (!s.flag d .DBG_BP_CTL_STEP_EN || s.reg d Reg.DBG_BP_STEP == s.reg d (Reg.SPRG_STEP p))

/-! The choice (R150). -/

/-- Whether the core acts on a queue's head now: it is illegal, or eligible and not held by the breakpoint. -/
def State.headActs (s : State) (d p q : Nat) : Bool :=
  let x := s.que d p q
  match x.entries with
  | [] => false
  | e :: _ =>
    decide (x.st = .enabled) && decide (s.stop.held ≠ some (d, p, q)) &&
      ((s.headDiscard d p e.bytes).isSome || (s.headWait d p q e).isNone)

/-- The order in which the core looks at its command queues: after the one served last. -/
def rrOrder (n base : Nat) (last : Option Nat) : List Nat :=
  (List.range n).map fun i => base + ((match last with | some q => q + 1 - base | none => 0) + i) % n

/-- The queue the core serves now. -/
def State.pickQueue (s : State) (d p : Nat) : Option Nat :=
  if s.live d p ∧ !s.coreStalled d p ∧ (s.spr d p).st = .enabled then (rrOrder 16 0 (s.spr d p).last).find? fun q => s.headActs d p q else none

end Sys2Proof.Machine
end

