-- ==== Sys2Proof/Machine/Units.lean ====
section
/-! DEFINITION. The units of work of a phase and the drop entries of those that a fault skips (R370, R371). -/

namespace Sys2Proof.Machine

/-- TICK_LEN in force: the register's value at tick 0 of the step (R280). -/
def State.tickNow (s : State) : Nat :=
  match s.edge.tickLens.lookup 0 with
  | some n => n
  | none => s.getF 0 .GLB_TICK_CFG_TICK_LEN

/-- TICK_LEN in a step (R280): what is in force in the step that runs, what a later step starts with. -/
def State.tickLen (s : State) (j : Job) (step : Nat) : Nat :=
  if step = j.step ∧ s.edge.boundary ≠ some 0 then s.tickNow else s.getF 0 .GLB_TICK_CFG_TICK_LEN

/-- What a step's group plan is a function of beside the graph, the cut declaration and the placer (R276): the layout epoch, the
precision vector, TICK_LEN and the surviving modules. -/
def State.planInputs (s : State) (j : Job) (step : Nat) : List Byte :=
  natLe 2 (s.getF 0 .FNL_EPOCH_EPOCH) ++ natLe 4 (crc32 (Store.get [] s.gov.vectors step)).toNat ++ natLe 2 (s.tickLen j step) ++
    natLe 4 (crc32 (j.members.flatMap (natLe 2))).toNat

/-- The CRC-32 of a step's group plan, a function of its inputs: the one that the placer has formed for them, or, before it has, one
that nothing is known of (R276, R277; log 90). -/
def State.planOf (s : State) (j : Job) (step : Nat) : Word :=
  match j.plans.lookup (s.planInputs j step) with
  | some p => p.1
  | none => Config.groupPlan (s.planInputs j step)

/-- The group plan of a phase: within a step it changes only at its group-scope boundaries (R287). -/
def State.planFor (s : State) (j : Job) (step ph : Nat) : Word :=
  if step = j.step ∧ s.edge.boundary ≠ some 0 ∧ (ph = 1 ∨ ph = 2) then j.planNow else s.planOf j step

/-- The running variant's parts (R290, GLB_SCHED_STATUS.ENTRY). -/
def State.runningParts (s : State) : List VariantPart :=
  match s.job with
  | some j => if j.running && j.fetching then ((s.cache.lookup (s.getF 0 .GLB_SCHED_STATUS_ENTRY)).map CacheEntry.parts).getD [] else []
  | none => []

/-- The MBID, layer and operator of a template's commands in a slot. -/
def slotUnits (v : VariantPart) (e : SlotEntry) : List (Nat × Nat × Nat) :=
  (v.templates.getD e.tmpl []).map fun c =>
    (if c.side.getLsbD 4 then e.mbid.toNat else hdrMbid c.bytes, hdrLayer c.bytes, hdrOper c.bytes)

/-! Barriers (R283, R284, R319). -/

def barScope (id : Nat) : Nat := id / 2 ^ 26 % 4
def barPhase (id : Nat) : Nat := id / 2 ^ 24 % 4
def barTick (id : Nat) : Nat := id % 2 ^ 24

/-- The barriers that a sprig's part of a variant takes part in: those of its SYNC commands in slots that no drop entry covers. -/
def partBarriers (j : Job) (v : VariantPart) : List Nat :=
  (v.slots.filter fun e => !((slotUnits v e).any fun u => j.excluded u.1 u.2.1)).flatMap fun e =>
    (v.templates.getD e.tmpl []).filterMap fun c =>
      if cmdClass c.bytes = 4 ∧ cmdOp c.bytes = 0 then some (cmdBarrier c.bytes) else none

/-- The participants of a barrier by the running variant: die and logical sprig. -/
def State.barParts (s : State) (id : Nat) : List (Nat × Nat) :=
  match s.job with
  | none => []
  | some j => (s.runningParts.filter fun v => (partBarriers j v).contains id).map fun v => (v.die.val, v.logical.val)

/-- The participants of a barrier that have not arrived. -/
def State.missing (s : State) (id : Nat) : List (Nat × Nat) :=
  let arrived := ((s.barriers.find? fun b => b.id = id).map fun b => b.arrived.map (·.1)).getD []
  (s.barParts id).filter fun y => !arrived.contains (y.1 * 272 + s.physOf y.1 y.2)

/-- The step-start barrier (Table 10.12): group scope, tick 0 of the forward phase. -/
def barStart : Nat := 2 * 2 ^ 26

/-- This module has reached the boundary of a step-start barrier. -/
def State.reached (s : State) (id : Nat) : Bool := id != barStart || s.edge.boundary == some 0

/-- Everyone of this module and of the modules below it has arrived at a barrier (R284, R319). -/
def State.subtreeIn (s : State) (j : Job) (b : Barrier) : Bool :=
  s.reached b.id && (s.missing b.id).isEmpty && (barScope b.id != 2 || j.treeKids.all b.kids.contains)

/-- A barrier may release (R284, R319): everyone has arrived; away from the root a group barrier also needs the release frame. -/
def State.releasable (s : State) (j : Job) (b : Barrier) : Bool :=
  s.reached b.id && (if barScope b.id = 2 ∧ j.modIx ≠ j.root then b.release.isSome else s.subtreeIn j b)

/-- A module whose subtree has arrived at a group barrier tells its parent the latest arrival (R319). -/
def State.barrierUp (s : State) (id : Nat) : State :=
  match s.barriers.find? fun b => b.id = id, s.job with
  | some b, some j =>
    if barScope id = 2 ∧ j.modIx ≠ j.root ∧ s.subtreeIn j b then { s with outbox := s.outbox ++ [Sent.barrier 0 id (max b.last b.remote)] }
    else s
  | _, _ => s

/-- This module reaches the step-start barrier (R284): where no running variant has a sprig arrive at it, the module itself arrives. -/
def State.reachStart (s : State) : State :=
  let s := if (s.barParts barStart).isEmpty then
      (if s.barriers.any fun b => b.id = barStart then
        { s with barriers := s.barriers.map fun b => if b.id = barStart then { b with last := max b.last s.now } else b }
      else { s with barriers := s.barriers ++ [Barrier.new barStart s.now] })
    else s
  s.barrierUp barStart

/-- The dies of a barrier's scope: in die scope, those of its participants. -/
def State.barDies (s : State) (b : Barrier) : List Nat :=
  if barScope b.id = 0 then ((b.arrived.map fun (a : Nat × Nat) => a.1 / 272) ++ (s.barParts b.id).map fun (a : Nat × Nat) => a.1).eraseDups else List.range 16

/-- The barriers that the running variant plans and that have not been released: of its phase, and the one at which the phase ends. -/
def State.planned (s : State) : List Nat :=
  match s.job with
  | none => []
  | some j => ((s.runningParts.flatMap (partBarriers j)).eraseDups).filter fun b =>
      (barPhase b = j.phase ∨ barPhase b = (j.phase + 1) % 4) ∧ !s.edge.released.contains b

/-- An unreleased barrier that guards a tick of a die (R283): one with an arrival, or one that the running variant plans. -/
def State.guarded (s : State) (d tick : Nat) : Option Barrier :=
  match s.barriers.find? fun b => barTick b.id = tick ∧ (s.barDies b).contains d with
  | some b => some b
  | none => ((s.planned.map fun id => Barrier.new id 0).find? fun b => barTick b.id = tick ∧ (s.barDies b).contains d)

/-- The units of a forward or backward phase that are scheduled and not complete: slots not yet fetched, commands
queued, and commands in flight. -/
def State.unitsLeft (s : State) : List (Nat × Nat × Nat) :=
  let fetched := s.runningParts.flatMap fun v =>
    let x := s.spr v.die (s.physOf v.die v.logical)
    (v.slots.drop x.fetchPos).flatMap (slotUnits v)
  let held := s.sprigs.flatMap fun y =>
    let x := y.2
    let queued := (List.range 16).flatMap fun q => (x.que q).entries.map fun e => e.bytes
    ((x.held.map fun e => e.bytes) ++ queued ++ x.cmds.map fun c => c.bytes).map fun b => (hdrMbid b, hdrLayer b, hdrOper b)
  (fetched ++ held).eraseDups

/-- Adjacent entries of one stage set become one entry. -/
def mergeDrops : List Drop → List Drop
  | [] => []
  | x :: t =>
    match mergeDrops t with
    | y :: u =>
      if x.lo + x.nm1 + 1 = y.lo ∧ x.stage0 = y.stage0 ∧ x.stride = y.stride ∧ x.n = y.n ∧ x.cause = y.cause then
        { x with nm1 := x.nm1 + 1 + y.nm1 } :: u
      else x :: y :: u
    | [] => [x]

/-- The drop entries of every unit of this module that is left in the phase (R370). -/
def State.phaseDrops (s : State) (cause : Nat) : List Drop :=
  match s.job with
  | some j =>
    if j.running ∧ j.phase ≤ 1 ∧ !s.replaying then
      let us := s.unitsLeft.filter fun u => !j.excluded u.1 u.2.1
      mergeDrops (us.foldl (fun a u => insertDrop (j.unitDrop u.1 u.2.1 u.2.2 cause s.faultIndex) a) [])
    else []
  | none => []

/-- A fault whose path skips the rest of the phase: the event names how many entries it adds, and they are sent. -/
def State.faultSkipping (s : State) (code die unit : Nat) (how : Nat) : State :=
  let ds := s.phaseDrops code
  (s.ownFault code die unit ds.length 0 0 how).addDrops ds

end Sys2Proof.Machine
end

