-- ==== Sys2Proof/Machine/SprigOps.lean ====
section
/-! DEFINITION. Draining, cancelling, aborting and enabling sprigs and queues (R170, R174-R176, R181). -/

namespace Sys2Proof.Machine

/-- SPRG_DRAIN_TMO in ns. -/
def State.drainNs (s : State) (d : Nat) : Nat := s.getF d .SPRG_DRAIN_TMO_US * 1000

/-- The destination rows of a DMA command (Table 6.5). -/
def dmaDests (b : List Byte) : List (Nat × Nat) :=
  (List.range (fld b 36 2 + 1)).map fun r => (fldBits b 24 8 51 0 + r * fld b 44 4, fld b 32 4)

def dmaSrcs (b : List Byte) : List (Nat × Nat) :=
  (List.range (fld b 36 2 + 1)).map fun r => (fldBits b 16 8 51 0 + r * fld b 40 4, fld b 32 4)

/-! Cancelling (Table 6.12). -/

/-- The CANCELLED entry of a receive entry goes to the sender's event queue 56 + CQ, with SPRG_STEP at the SEND's dispatch (R152). Its
SRC names space in the receive queue that was disabled (DESIGN CHOICE, log 98). -/
def State.cancelReceive (s : State) (d p q : Nat) (e : List Byte) (step : Nat) : State :=
  let qid := fldBits e 16 4 17 0
  let mod := fldBits e 16 4 27 18
  let c := completionEntry e rcCancelled 0 (woSpace (s.qid d p q)) 0 step []
  if mod = s.modIx then
    let sd := qid / 2 ^ 14
    s.postEntry sd (s.physOf sd (qid / 64 % 256)) (56 + cmdCq e) c true
  else { s with outbox := s.outbox ++ [Sent.send mod (qid / 64 * 64 + 56 + cmdCq e) step c] }

/-- One entry of a queue that is disabled, not started. -/
def State.cancelEntry (s : State) (d p q : Nat) (e : QEntry) : State :=
  if q < 16 then
    s.report d p e.bytes rcCancelled 0 (s.coreSrc d p q) 0 (s.reg d (Reg.SPRG_STEP p)).toNat []
  else if q < 32 then s.complete d p e.cmd rcCancelled (woEngine d 9) 0 []
  else if q < 48 then s.cancelReceive d p q e.bytes e.tick
  else s.complete d p e.cmd rcCancelled (woEngine d (q - 48)) 0 (noDetail (q - 48))

/-- Every entry of a queue is cancelled, oldest first; event queues keep theirs. -/
def State.cancelQueue (s : State) (d p q : Nat) : State :=
  if 56 ≤ q then s
  else
    let es := (s.que d p q).entries
    let s := es.foldl (fun s _ => s.popQ d p q) s
    es.foldl (fun s e => s.cancelEntry d p q e) s

/-! Aborting. -/

/-- The slots of a discarded instruction become FREE with empty elements (R174). -/
def State.dropSlots (s : State) (d p a : Nat) (slots : List Nat) : State :=
  slots.foldl (fun s i => (s.clearSlot d p a i).setArr d p a ((s.arr d p a).setTag i SlotTag.free)) s

/-- An array discards every instruction that has not retired (R174). -/
def State.abortArray (s : State) (d p a : Nat) : State :=
  let x := s.arr d p a
  let ws := x.accepted.map (fun j => j.ins.w) ++ x.iq.map fun i => i.w
  let s := s.setArr d p a { x with job := none, iq := [], accepted := [], results := [], tokens := [], wdog := false }
  s.dropSlots d p a (ws.flatMap slotsOf)

/-- A command waits in a DMA or engine-request queue and has not started. -/
def State.cmdQueued (s : State) (d p : Nat) (c : Cmd) : Bool :=
  match cmdClass c.bytes with
  | 1 => (s.que d p (dmaQueue c.bytes)).entries.any fun e => e.cmd = c.id
  | 2 => (s.que d p (engQueue c.bytes)).entries.any fun e => e.cmd = c.id
  | _ => false

/-- The producer that a completion of an engine names: the engine, or, of Fennel, the reduction (R163, R321). -/
def EReq.producer (r : EReq) (d : Nat) (e : EngineId) : Nat :=
  match r.rid with | some x => woReduction x | none => woEngine d (engIx e)

/-- A request that an engine has taken is aborted: its destination is undefined, with parity deltas where it is update state
(R211), and its command completes ABORTED. -/
def State.abortRequest (s : State) (d : Nat) (e : EngineId) (r : EReq) : State :=
  let x := s.eng d e
  let s := s.setEng d e { x with accepted := x.accepted.filter fun y => !(y.p == r.p && y.cmd == r.cmd) }
  let op := fld r.bytes 16 1
  let s := if e = .upd ∧ (op = 1 ∨ op = 4) then s.scrambleTracked r.dests (hdrLayer r.bytes) r.step else s.scrambleAll r.dests
  s.complete d r.p r.cmd rcAborted (r.producer d e) r.fpx r.detail

/-- A request that waits in Fennel as its completion would show it, with the ranges that it was to write (Table 11.8). -/
def FWait.request (w : FWait) : EReq :=
  let n := fld w.desc 12 4
  let dests := if fld w.bytes 16 1 = 2 then [(fldBits w.bytes 32 8 51 0, 2 * n)]
    else if fld w.bytes 16 1 = 3 then [(fldBits w.bytes 24 8 51 0, 64 * n)] else []
  w.fin.getD { p := w.p, cmd := w.cmd, bytes := w.bytes, step := w.step.toNat, status := rcAborted, fpx := 0, detail := [],
               dests := dests, work := 0, chv := [], rid := some (fldBits w.desc 0 4 27 0) }

/-- The requests that wait in Fennel on a die. -/
def State.setFnlWaits (s : State) (d : Nat) (f : List FWait → List FWait) : State :=
  let ws := Store.get [] s.edge.fnl.waits d
  { s with edge := { s.edge with fnl := { s.edge.fnl with waits := Store.set [] s.edge.fnl.waits d (f ws) } } }

def allEngines : List EngineId := [.chv, .ats, .nrm, .emb, .lay, .upd, .fnl]

/-- A dispatched command is aborted. -/
def State.abortCmd (s : State) (d p : Nat) (c : Cmd) : State :=
  let l := (s.logicalOf d p).getD 0
  match cmdClass c.bytes with
  | 0 => s.complete d p c.id rcAborted (woSlot d l (awArr (cmdA c.bytes)) false 0) 0 []
  | 1 =>
    let s := match (s.spr d p).dma.find? fun r => r.entry.cmd = c.id with
      | some r => (s.modSpr d p fun x => { x with dma := x.dma.filter fun y => y.entry.cmd ≠ c.id }).scrambleDests
          (dmaDests r.entry.bytes)
      | none => s
    s.complete d p c.id rcAborted (woEngine d 9) 0 []
  | 2 =>
    match allEngines.find? fun e => (s.eng d e).accepted.any fun r => r.p = p ∧ r.cmd = c.id with
    | some e =>
      match (s.eng d e).accepted.find? fun r => r.p = p ∧ r.cmd = c.id with
      | some r => s.abortRequest d e r
      | none => s
    | none =>
      match (Store.get [] s.edge.fnl.waits d).find? fun w => w.p == p && w.cmd == c.id with
      | some w =>
        let s := s.setFnlWaits d fun ws => ws.filter fun y => !(y.p == p && y.cmd == c.id)
        (s.scrambleAll w.request.dests).complete d p c.id rcAborted (w.request.producer d .fnl) 0 []
      | none => s.complete d p c.id rcAborted (woEngine d (cmdOp c.bytes % 8)) 0 []
  | 3 =>
    (s.modSpr d p fun x => { x with sends := x.sends.filter fun y => y.cmd ≠ c.id }).complete d p c.id rcAborted
      (s.coreSrc d p c.q) 0 []
  | _ =>
    let key := d * 272 + p
    let leave (b : Barrier) : Barrier := { b with arrived := b.arrived.filter fun y => y ≠ (key, c.id) }
    let s := { s with barriers := s.barriers.map leave }
    s.complete d p c.id rcAborted (s.coreSrc d p c.q) 0 []

/-- The work of a sprig in flight: everything dispatched that does not wait in a queue. -/
def State.sprigBusy (s : State) (d p : Nat) : Bool := (s.spr d p).cmds.any fun c => !s.cmdQueued d p c

/-- The work of one queue in flight: a transfer of a DMA queue, requests that an engine took from a request queue. -/
def State.queueWork (s : State) (d p q : Nat) : List Cmd :=
  (s.spr d p).cmds.filter fun c =>
    (cmdClass c.bytes == 1 && dmaQueue c.bytes == q || cmdClass c.bytes == 2 && engQueue c.bytes == q) &&
      !s.cmdQueued d p c

/-! Entering and leaving DRAINING. -/

/-- EN of a sprig is cleared (R174). -/
def State.disableSprig (s : State) (d p : Nat) : State :=
  let x := s.spr d p
  if s.offline d p then s
  else
    let s := s.setF d (.SPRG_CTL_EN p) 0
    if x.st = .enabled then s.setSpr d p { x with st := .draining, enReq := false, drainAt := s.now + s.drainNs d }
    else s.setSpr d p { x with enReq := false }

/-- EN of a queue is cleared. -/
def State.disableQueue (s : State) (d p q : Nat) : State :=
  let x := s.que d p q
  let s := s.setF d (.QUE_CTL_EN p q) 0
  if x.st = .enabled then s.setQue d p q { x with st := .draining, enReq := false, drainAt := s.now + s.drainNs d }
  else s.setQue d p q { x with enReq := false }

/-- An enabled queue starts empty, HEAD and TAIL at 0 (R176). -/
def Queue.start (q : Queue) : Queue := { q with entries := [], head := 0, st := .enabled, enReq := false }

/-- EN of a queue is set (R176): in DRAINING it takes effect once DISABLED is reached. -/
def State.enableQueue (s : State) (d p q : Nat) : State :=
  let x := s.que d p q
  let s := s.setF d (.QUE_CTL_EN p q) 1
  match x.st with
  | .enabled => s
  | .draining => s.setQue d p q { x with enReq := true }
  | .disabled => (s.setQue d p q x.start).unstall d p q 64

/-- Producers that wait for the event queues of a sprig place their entries (R161). -/
def State.unstallAll (s : State) (d p : Nat) : State := (List.range 8).foldl (fun s k => s.unstall d p (56 + k) 64) s

/-- A sprig becomes ENABLED with every queue empty; producers that waited for its event queues find room (R161). -/
def State.startSprig (s : State) (d p : Nat) : State :=
  (s.modSpr d p fun x =>
    (List.range 64).foldl (fun x q => x.setQue q { x.que q with entries := [], head := 0 })
      { x with st := .enabled, enReq := false }).unstallAll d p

/-- EN of a sprig is set; ignored while STATE is OFFLINE. -/
def State.enableSprig (s : State) (d p : Nat) : State :=
  if s.offline d p then s
  else
    let s := s.setF d (.SPRG_CTL_EN p) 1
    match (s.spr d p).st with
    | .enabled => s
    | .draining => s.modSpr d p fun x => { x with enReq := true }
    | .disabled => s.startSprig d p

/-- EN of an engine is cleared (R181): it drains as R174 gives. -/
def State.disableEngine (s : State) (d : Nat) (e : EngineId) : State :=
  let x := s.eng d e
  let s := s.setF d (engEn e) 0
  if x.st = .enabled then s.setEng d e { x with st := .draining, enReq := false, drainAt := s.now + s.drainNs d }
  else s.setEng d e { x with enReq := false }

/-- EN of an engine is set. -/
def State.enableEngine (s : State) (d : Nat) (e : EngineId) : State :=
  let x := s.eng d e
  let s := s.setF d (engEn e) 1
  match x.st with
  | .enabled => s
  | .draining => s.setEng d e { x with enReq := true }
  | .disabled => s.setEng d e { x with st := .enabled, enReq := false }

/-- The block's software reset of a sprig: the registers of its window but the queues' and the SRAM return to their reset
values, its queues and arrays are empty (R176, R409). -/
def State.resetSprig (s : State) (d p : Nat) : State :=
  let base := sprigBase p
  let s := s.resetRegs d base (base + 0x10000)
  let s := { s with
    counters := Store.clear s.counters (d * 2 ^ 28 + base) (d * 2 ^ 28 + base + 0x10000),
    acc := Store.clear s.acc (accKey d p 0 0 0) (accKey d p 4 0 0) }
  let waiting := (s.spr d p).stalled
  (s.setSpr d p { Sprig.fresh with stalled := waiting }).unstallAll d p

/-- The sprig complex has left reset when none of its sprigs waits for it: the registers that its sprigs share return to
their Reset values, and ARR, SPRG and QUE of RST_BLK_SRST read 0 (R408). -/
def State.settleSprigs (s : State) (d : Nat) : State :=
  if bits (s.reg d Reg.RST_BLK_SRST) 9 7 = 0 ∨ (List.range 272).any fun p => (s.spr d p).srstReq then s
  else
    let s := (s.resetRegs d 0x30000 0x40000).resetRegs d Reg.SPRG_DRAIN_TMO (Reg.SPRG_DRAIN_TMO + 4)
    s.setReg d Reg.RST_BLK_SRST (setBits (s.reg d Reg.RST_BLK_SRST) 9 7 0)

/-- The bit of RST_BLK_SRST of an engine (Table 14.5). -/
def engSrst : EngineId → Nat
  | .chv => 14 | .ats => 16 | .nrm => 17 | .emb => 18 | .lay => 19 | .upd => 15 | .fnl => 13

/-- The register block of an engine. -/
def engBlock : EngineId → Nat × Nat
  | .chv => (0x40000, 0x50000) | .ats => (0x70000, 0x71000) | .nrm => (0x71000, 0x72000) | .emb => (0x72000, 0x73000)
  | .lay => (0x73000, 0x74000) | .upd => (0x80000, 0x90000) | .fnl => (0xC0000, 0xD0000)

/-- The die counters of an engine (Table 15.3). -/
def engCounters : EngineId → List Nat
  | .chv => [18, 19] | .ats => [20, 21] | .nrm => [22, 23] | .emb => [24, 25] | .lay => [26, 27]
  | .upd => [29, 30, 31, 32, 33, 34] | .fnl => [35, 36, 37]

/-- The block's software reset of an engine (R181, R409). -/
def State.resetEngine (s : State) (d : Nat) (e : EngineId) : State :=
  let s := s.resetRegs d (engBlock e).1 (engBlock e).2
  let s := (engCounters e).foldl (fun s k => s.setCtr d (dieCtr k) 0) s
  let s := if e = .fnl then s.setFnlWaits d fun _ => [] else s
  s.setEng d e Engine.fresh

end Sys2Proof.Machine
end

