-- ==== Sys2Proof/Machine/Bus.lean ====
section
/-! DEFINITION. Register accesses: what a read answers, what a write does to the fields of a register, counters and
their holding registers, and the registers of a sprig's window (R5-R12, R167-R168, Table 6.13). -/

namespace Sys2Proof.Machine

/-! Writes to fields (Table 0.4, R10, R11). -/

/-- One field of a register after a write. `hwSet` and `hwClr` are the bits that hardware sets and clears in the same
cycle (R10). `ok`: the written encoding is not reserved (R11). -/
def writeField (onK : Bool) (val hwSet hwClr : Word) (ok : Bool) (w : Word) (f : RegField) : Word :=
  let old := bits w f.hi f.lo; let v := bits val f.hi f.lo
  let hs := bits hwSet f.hi f.lo; let hc := bits hwClr f.hi f.lo
  let mask := 2 ^ (f.hi + 1 - f.lo) - 1
  let put (x : Nat) : Word := setBits w f.hi f.lo x
  let legal := ok && (f.legal.isEmpty || f.legal.any fun r => decide (r.1 ≤ v ∧ v ≤ r.2))
  match f.acc with
  | .rw => if legal then put v else w
  | .rwK => if onK && legal then put v else w
  | .w1c => put ((old &&& (mask ^^^ v)) ||| hs)
  | .w1s => put ((old &&& (mask ^^^ hc)) ||| v)
  | .ro => w
  | .wo => w
  | .rsvd => w

/-- FMAX as a write of PWR_FREQ leaves it. -/
def fmaxAfter (old val : Word) : Nat := if 80 ≤ bits val 15 8 ∧ bits val 15 8 ≤ 165 then bits val 15 8 else bits old 15 8

/-- The last legal POS of injection of a kind: byte 508 after the FEC, symbol 541 before it (LNK_INJ_POS). -/
def injPosMax (kind : Nat) : Nat := if kind = 2 then 508 else 541

/-- Reserved encodings that depend on more than one field (R11): a stripe of fewer than two dies, FMIN above FMAX, an
injection position beyond its kind's range, an aperture BASE outside spaces 0-2, NOTIFY of a queue that is no event queue. -/
def State.legalTogether (s : State) (d off : Nat) (val : Word) (f : RegField) : Bool :=
  if off = Reg.MEM_PAR_MASK then decide (2 ≤ (setBitsOf 16 (bits val 15 0)).length)
  else if off = Reg.PWR_FREQ ∧ f.lo = 0 then decide (bits val 7 0 ≤ fmaxAfter (s.reg d off) val)
  else if 0xB0000 ≤ off ∧ off < 0xB2000 ∧ off % 0x400 = 0x28 then
    decide (bits val 15 0 ≤ injPosMax (s.getF d (.LNK_INJ_CTL_KIND ((off - 0xB0000) / 0x400))))
  else if Reg.MEM_AP_SLOT 0 ≤ off ∧ off ≤ Reg.MEM_AP_SLOT 15 ∧ f.lo = 0 then decide (bits val 12 10 ≤ 2)
  else if 0x2000000 ≤ off ∧ off % 0x10000 / 0x1000 = 2 ∧ off % 0x40 = 0 ∧ f.lo = 1 then
    decide (56 ≤ off % 0x1000 / 0x40) || bits val 1 1 == 0
  else true

/-- ARR_FXC0 and ECC_LOG0: the first word of a first-event capture (R90, R264). -/
def isCapture (off : Nat) : Bool :=
  decide (off = Reg.ECC_LOG0) || decide (0x2000000 ≤ off ∧ off % 0x10000 / 0x400 = 1 ∧ off % 0x100 = 0x10)

/-- A register write's effect on the register itself. Clearing the valid bit of a capture clears its MORE (R90, R264). -/
def State.plainWrite (s : State) (d off : Nat) (val hwSet hwClr : Word) : State :=
  match regRow d off with
  | none => s
  | some r =>
    let old := s.reg d off
    let new := r.fields.foldl (fun w f => writeField (decide (18 ≤ d)) val hwSet hwClr (s.legalTogether d off val f) w f) old
    s.setReg d off (if isCapture off && bit old 31 && !bit new 31 then setBits new 30 30 0 else new)

/-- An event meets a capture: the first one is recorded, a further one sets MORE (R90, R264). -/
def State.captureEvent (s : State) (d off : Nat) (w0 w1 w2 : Word) : State :=
  if bit (s.reg d off) 31 then s.setReg d off (setBits (s.reg d off) 30 30 1)
  else ((s.setReg d off (setBits w0 31 30 2)).setReg d (off + 4) w1).setReg d (off + 8) w2

/-! Counters (R12, R426). -/

/-- The lower word of the counter pair that an offset belongs to: Tables 6.11 and 15.2-15.4, the Thyme count, energy. -/
def counterPair (d off : Nat) : Option Nat :=
  let low := off - off % 8
  if 0x2000000 ≤ off ∧ d < 16 then
    let r := off % 0x10000
    if 0x100 ≤ r ∧ r < 0x120 then some low
    else if r / 0x400 = 1 ∧ 0x48 ≤ r % 0x100 ∧ r % 0x100 < 0x80 then some low
    else if r / 0x1000 = 2 ∧ 0x10 ≤ r % 0x40 ∧ r % 0x40 < 0x28 then some low
    else none
  else if 0xB0000 ≤ off ∧ off < 0xB2000 ∧ (d = 16 ∨ d = 17) then
    if 0x100 ≤ off % 0x400 ∧ off % 0x400 < 0x168 then some low else none
  else if 0x141000 ≤ off ∧ off < 0x141800 then some low
  else if off / 8 = Reg.TMB_NOW_LO / 8 then some low
  else if off / 8 = Reg.PWR_ENERGY_LO / 8 ∨ off / 8 = Reg.PWR_STACK_ENERGY_LO / 8 then some low
  else none

/-- The 64 bits of a pair: the Thyme timestamp (R414), or the counter. -/
def State.pairValue (s : State) (d low : Nat) : BitVec 64 :=
  if low = Reg.TMB_NOW_LO then
    BitVec.ofNat 64 (s.now % 2 ^ 62 + (s.getF d .TMB_NOW_HI_UNLOCKED) * 2 ^ 63)
  else s.ctr d low

/-! Views: what hardware shows in registers that it computes. -/

def DState.code : DState → Nat
  | .enabled => 0 | .draining => 1 | .disabled => 2

/-- SPRG_STATUS (R173): STATE, LOGICAL and MAPPED follow the map. -/
def State.sprigStatus (s : State) (d p : Nat) : Word :=
  let x := s.spr d p
  let trap := (s.getF d (.SPRG_STATUS_TRAP p)) * 2 ^ 18 + x.last.getD 0
  match s.logicalOf d p with
  | none => BitVec.ofNat 32 (3 * 2 ^ 30 + trap)
  | some l => BitVec.ofNat 32 (x.st.code * 2 ^ 30 + l * 2 ^ 20 + 2 ^ 19 + trap)

/-- ARR_STATUS. -/
def State.arrStatus (s : State) (d p a : Nat) : Word :=
  let x := s.arr d p a
  let ldsWait := match x.accepted.find? fun j => j.opc = opLds with
    | some j => x.staged.getLsbD j.pos || x.inUse j.seq j.pos
    | none => false
  BitVec.ofNat 32 (x.ramp * 2 ^ 30 + x.cols * 2 ^ 24 + x.mode * 2 ^ 21 + (!x.accepted.isEmpty).toNat * 2 ^ 20 +
    (!x.tokens.isEmpty).toNat * 2 ^ 19 + (x.staged != 0).toNat * 2 ^ 18 + ldsWait.toNat * 2 ^ 17)

/-- ARR_ACC_TAGn. -/
def State.accTag (s : State) (d p a n : Nat) : Word :=
  let x := s.arr d p a
  let t := x.tag n
  let busy := x.accepted.any fun j => (slotsOf j.ins.w).contains n
  BitVec.ofNat 32 ((t.isOpen || t.draining).toNat * 2 ^ 31 + t.mode * 2 ^ 28 + t.wide.toNat * 2 ^ 27 + t.stag * 2 ^ 21 +
    t.draining.toNat * 2 ^ 20 + busy.toNat * 2 ^ 19)

/-- QUE_STATUS. -/
def State.queStatus (s : State) (d p q : Nat) : Word :=
  let x := s.que d p q
  BitVec.ofNat 32 (x.st.code * 2 ^ 30 + x.full.toNat * 2 ^ 29 + x.entries.isEmpty.toNat * 2 ^ 28 +
    x.entries.length * 2 ^ 16 + x.head * 2 ^ 8 + x.tail)

def engOfIx (i : Nat) : EngineId :=
  match i with
  | 0 => .chv | 1 => .ats | 2 => .nrm | 3 => .emb | 4 => .lay | 5 => .upd | _ => .fnl

/-- The requests that an engine holds: accepted ones, and of Fennel those that wait for contributions (R178). -/
def State.engLoad (s : State) (d : Nat) (e : EngineId) : Nat :=
  (s.eng d e).accepted.length + (if e = .fnl then ((Store.get [] s.edge.fnl.waits d).filter fun w => !w.redo).length else 0)

/-- The event queue whose space the scalar core awaits (R161). -/
def State.coreSpace (s : State) (d p : Nat) : Option Nat :=
  ((s.spr d p).stalled.find? fun x => x.src / 2 ^ 28 = 1).map fun x => woSpace (s.qid d p x.q)

/-- QUE_WAIT_ON (R167). A command queue whose core waits for an event queue's space waits on that; the heads of DMA and engine-request
queues wait on an engine that runs what it can take, waits for an event queue, or takes nothing. -/
def State.queWait (s : State) (d p q : Nat) : Nat :=
  match (s.que d p q).entries with
  | [] => 0
  | e :: _ =>
    if q < 16 then
      match s.coreSpace d p with
      | some w => w
      | none => if (s.headDiscard d p e.bytes).isSome then 0 else (s.headWait d p q e).getD 0
    else if q < 32 then
      let x := s.spr d p
      if 4 ≤ x.dma.length ∨ s.dmaStalled d p ∨ x.dma.any fun r => r.q = q then woEngine d 9 else 0
    else if 48 ≤ q ∧ q < 55 then
      let g := engOfIx (q - 48)
      if (s.eng d g).st = .enabled ∧ s.engLoad d g < 16 ∧ (s.engSpace d (q - 48)).isNone then 0 else woEngine d (q - 48)
    else if q = 55 then 11 * 2 ^ 28 + d * 2 ^ 23
    else 0

/-- An engine's STATUS; other bits are what the register file holds. -/
def State.engStatus (s : State) (d : Nat) (e : EngineId) (off : Nat) : Word :=
  let x := s.eng d e
  let emu := x.accepted.any fun r => cmdClass r.bytes = 2 ∧ fld r.bytes 16 1 = 0x10
  let n := s.engLoad d e
  let w := setBits (s.reg d off) 31 30 x.st.code
  let w := setBits w 15 8 n
  let w := setBits w 0 0 (decide (n ≠ 0)).toNat
  if e = .ats ∨ e = .nrm ∨ e = .emb ∨ e = .lay then setBits w 1 1 emu.toNat else w

/-- The WAIT_ON register of an engine (R167): space in the event queue that its completion waits for, or, of Fennel, the reduction that
its oldest waiting request awaits. -/
def State.engWait (s : State) (d : Nat) (e : EngineId) : Word :=
  match s.engSpace d (engIx e), (if e = .fnl then (Store.get [] s.edge.fnl.waits d).filter fun w => w.fin.isNone else []) with
  | some q, _ => BitVec.ofNat 32 (woSpace q)
  | none, w :: _ => BitVec.ofNat 32 (woReduction (fldBits w.desc 0 4 27 0))
  | none, [] => 0

/-- SAGE_WAIT_ON (R167): the reduction of records that waits in the die's Fennel part. -/
def State.sageWait (s : State) (d : Nat) : Word :=
  match (Store.get [] s.edge.fnl.waits d).find? fun w => fld w.bytes 16 1 = 3 && w.fin.isNone with
  | some w => BitVec.ofNat 32 (woReduction (fldBits w.desc 0 4 27 0))
  | none => 0

/-- GLB_ID and the serial-independent identity (Table 0.1). -/
def State.glbId (s : State) : Word :=
  BitVec.ofNat 32 (0x4820 * 2 ^ 16 + s.inv.mem % 16 * 2 ^ 12 + s.inv.links % 16 * 2 ^ 8 + s.inv.stepping % 256)

/-- A sprig window's registers that hardware computes. -/
def State.windowView (s : State) (d p r : Nat) : Option Word :=
  if r = 4 then some (s.sprigStatus d p)
  else if r / 0x400 = 1 then
    let a := r % 0x400 / 0x100; let k := r % 0x100
    if k = 4 then some (s.arrStatus d p a)
    else if 0x80 ≤ k ∧ k % 4 = 0 then some (s.accTag d p a ((k - 0x80) / 4))
    else if k = 0x20 then some (BitVec.ofNat 32 (s.arrWait d p a))
    else none
  else if r / 0x1000 = 2 then
    let q := r % 0x1000 / 0x40; let k := r % 0x40
    if k = 4 then some (s.queStatus d p q)
    else if k = 0xC then some (BitVec.ofNat 32 (s.queWait d p q))
    else if k = 0x28 then some (BitVec.ofNat 32 (s.que d p q).tickBase)
    else none
  else none

/-- What a register reads as, with no reader's latch (R9): WO fields read 0. -/
def State.peek (s : State) (d off : Nat) : Word :=
  match counterPair d off with
  | some low => if off = low then (s.pairValue d low).setWidth 32 else ((s.pairValue d low) >>> 32).setWidth 32
  | none =>
    if 0x2000000 ≤ off ∧ d < 16 ∧ off < 0x2000000 + 272 * 0x10000 then
      match s.windowView d ((off - 0x2000000) / 0x10000) (off % 0x10000) with
      | some v => v
      | none => s.reg d off
    else if d < 16 ∧ off = Reg.CHV_STATUS then s.engStatus d .chv off
    else if d < 16 ∧ off = Reg.UPD_STATUS then s.engStatus d .upd off
    else if d < 16 ∧ off = Reg.FNL_STATUS then s.engStatus d .fnl off
    else if d < 16 ∧ off = Reg.SAGE_WAIT_ON then s.sageWait d
    else if d < 16 ∧ (allEngines.any fun e => off = (engBlock e).1 + 0xC) then
      match allEngines.find? fun e => off = (engBlock e).1 + 0xC with | some e => s.engWait d e | none => 0
    else if d < 16 ∧ 0x70000 ≤ off ∧ off < 0x74000 ∧ off % 0x1000 = 4 then s.engStatus d (engOfIx ((off - 0x70000) / 0x1000 + 1)) off
    else if 18 ≤ d ∧ off = Reg.GLB_ID then s.glbId
    else if 18 ≤ d ∧ off = Reg.DBG_AUTH_STATUS then
      setBits (s.reg d off) 16 0 (if s.flag 18 .DBG_AUTH_STATUS_HELD then (s.edge.auth.until_ - s.now) / 1000000000 else 0)
    else s.reg d off

/-- An agent reads a register (R12): a lower word latches its upper word; the next read of that upper word by the same
agent returns the latch and empties it. -/
def State.readAs (s : State) (ag : Agent) (d off : Nat) : State × Word :=
  match counterPair d off with
  | none => (s, s.peek d off)
  | some low =>
    let rest := s.holds.filter fun h => h.1 ≠ ag
    let key := regKey d low
    if off = low then
      let v := s.pairValue d low
      ({ s with holds := rest ++ [(ag, key, (v >>> 32).setWidth 32)] }, v.setWidth 32)
    else
      match s.holds.find? fun h => h.1 = ag ∧ h.2.1 = key with
      | some h => ({ s with holds := rest }, h.2.2)
      | none => (s, s.peek d off)

/-! The window of a sprig (Table 6.13). -/

/-- A write to a register of a sprig's window: its fields, then what the field starts: EN of the sprig or of a queue, the
high-water mark's floor. -/
def State.windowWrite (s : State) (d p r : Nat) (val : Word) (hwSet hwClr : Word := 0) : State :=
  let off := sprigBase p + r
  if r = 0 then (if s.offline d p then s else if bit val 0 then s.enableSprig d p else s.disableSprig d p)
  else if r / 0x1000 = 2 ∧ r % 0x40 = 0 then
    let q := r % 0x1000 / 0x40
    let s := s.plainWrite d off val hwSet hwClr
    if bit val 0 then s.enableQueue d p q else s.disableQueue d p q
  else if r / 0x1000 = 2 ∧ r % 0x40 = 8 then (s.plainWrite d off val hwSet hwClr).raiseHwm d p (r % 0x1000 / 0x40)
  else s.plainWrite d off val hwSet hwClr

end Sys2Proof.Machine
end

