-- ==== Sys2Proof/Machine/Flags.lean ====
section
/-! DEFINITION. Flags: the floating-point exception flags of a scalar core (R48). -/

namespace Sys2Proof.Machine

/-- A sprig's floating-point status accumulates exception flags (R48). -/
def State.raiseFlags (s : State) (d p : Nat) (f : FpFlags) : State :=
  s.setReg d (Reg.SPRG_FPSR p) (s.reg d (Reg.SPRG_FPSR p) ||| f.setWidth 32)

end Sys2Proof.Machine
end

