-- ==== Sys2Proof/Machine/StopOps.lean ====
section
/-! DEFINITION. Issuing a global stop: the stop ID, the target, merging (R432-R435). -/

namespace Sys2Proof.Machine

/-- A Thyme time in its two-word form, set on every die. -/
def State.setStopTime (s : State) (t : Nat) : State :=
  allDies.foldl (fun s d => (s.setReg d Reg.DBG_STOP_T_LO (BitVec.ofNat 32 t)).setReg d Reg.DBG_STOP_T_HI
    (BitVec.ofNat 32 (t / 2 ^ 32))) s

/-- The stop units take a message (R434): the smallest target is in force; one that arrives in STOPPED or RESUMING is
merged. -/
def State.takeStop (s : State) (src : Nat) (group : Bool) (id t : Nat) (who : List Nat) : State :=
  let st := s.getF 18 .DBG_STOP_STATUS_STATE
  if 2 ≤ st then s.countK 10 1
  else if st = 1 ∧ s.stop.target ≤ t then s
  else
    let s := { s with stop := { s.stop with target := t, who := who } }
    let s := s.setFs allDies .DBG_STOP_STATUS_STATE 1
    let s := s.setFs allDies .DBG_STOP_STATUS_SRC src
    let s := s.setFs allDies .DBG_STOP_STATUS_SCOPE group.toNat
    let s := s.setFs allDies .DBG_STOP_STATUS_SMEAR 0
    let s := s.setFs allDies .DBG_STOP_STATUS_LATE 0
    (s.setFs allDies .DBG_STOP_ID_ID id).setStopTime t

/-- A stop is issued by this module (R432, R433, R439): T is 12 ns on, or GLEAD on in group scope, when frames carry it. -/
def State.issueStop (s : State) (src : Nat) (group : Bool) (who : List Nat) : State :=
  let n := s.stop.issues
  let id := s.modIx % 1024 * 65536 + n % 65536
  let t := s.now + (if group then s.getF 18 .DBG_STOP_CFG_GLEAD * 1000 else 12)
  if 2 ≤ s.getF 18 .DBG_STOP_STATUS_STATE then s.countK 10 1
  else
    let s := { s with stop := { s.stop with issues := n + 1 } }
    let s := if group then { s with outbox := s.outbox ++ [Sent.stop 0 id t none], stop := { s.stop with seen := s.stop.seen ++ [id] } } else s
    s.takeStop src group id t who

/-- The scope of register, pin and breakpoint issues (R432). -/
def State.stopScope (s : State) : Bool := s.flag 18 .DBG_STOP_CTL_SCOPE

/-- The records of a die's dual-clock queues at the freeze (R437). What a queue holds is not the model's: the pointers are free
values that a queue of its depth can show, each view behind the pointer it follows (log 15). -/
def State.recordQueues (s : State) : State :=
  let qs := allDies.flatMap fun d => (Config.clockQueues d).map fun q => (d, q)
  let free (i k : Nat) : Nat := ((Config.freeAcc (s.fresh + 4 * i + k)).setWidth 32).toNat
  let rec_ (i : Nat) (q : Nat × Nat × Nat × Nat) : QRecord :=
    let depth := q.2.2.2
    let held := free i 1 % (depth + 1)
    let rp := free i 0; let wp := rp + held
    { die := q.1, wp := BitVec.ofNat 32 wp, rp := BitVec.ofNat 32 rp,
      rpSeen := BitVec.ofNat 32 (rp + 2 ^ 32 - free i 2 % (depth + 1 - held)), wpSeen := BitVec.ofNat 32 (wp + 2 ^ 32 - free i 3 % (held + 1)),
      wdom := q.2.1, rdom := q.2.2.1, depth := depth }
  { s with fresh := s.fresh + 4 * qs.length, stop := { s.stop with queues := qs.mapIdx rec_ } }

/-- The module freezes (R436, R437): STATE is STOPPED on every die, the dual-clock queues record, and the STOPPED event follows
(Table 15.11). -/
def State.freezeNow (s : State) : State :=
  let s := (s.recordQueues.setFs allDies .DBG_STOP_STATUS_STATE 2).countK 9 1
  let w := s.stop.who
  let src := s.getF 18 .DBG_STOP_STATUS_SRC
  let g (i : Nat) : Nat := if src = 3 then w.getD i 0 else 0
  s.event 7 1 [BitVec.ofNat 32 (s.getF 18 .DBG_STOP_ID_ID), BitVec.ofNat 32 s.stop.target, BitVec.ofNat 32 (s.stop.target / 2 ^ 32),
    BitVec.ofNat 32 (src + s.getF 18 .DBG_STOP_STATUS_SCOPE * 8 + s.getF 18 .DBG_STOP_STATUS_SMEAR * 16 + g 0 % 32 * 32 +
      g 1 % 256 * 1024), BitVec.ofNat 32 (g 2), BitVec.ofNat 32 (g 3 % 4096 + g 4 * 65536)]

/-- The module resumes (R442): the RESUMED event, the held command is served first; an aborted job's timers shift. -/
def State.resumeNow (s : State) : State :=
  let r := s.stop.resumeAt.getD s.now
  let s := s.advanceTo r
  let s := match s.stop.held with
    | some (d, p, q) => s.modSpr d p fun x => { x with last := some ((q + 15) % 16) }
    | none => s
  let id := s.getF 18 .DBG_STOP_ID_ID
  let s := s.setFs allDies .DBG_STOP_STATUS_STATE 0
  let s := { s with stop := { s.stop with held := none, who := [], resumeAt := none } }
  s.event 7 2 [BitVec.ofNat 32 id, BitVec.ofNat 32 r, BitVec.ofNat 32 (r / 2 ^ 32)]

end Sys2Proof.Machine
end

