-- ==== Sys2Proof/Machine/Scalar.lean ====
section
/-! DEFINITION. The scalar operations of an SCL command (Table 6.6, R159) and the exception flags of the scalar core (R48). -/

namespace Sys2Proof.Machine

/-- What a scalar operation answers: the state, whether it executed, the exception flags it raised. -/
abbrev SclOut := State × Bool × FpFlags

def State.gpr (s : State) (d p i : Nat) : BitVec 64 := (s.spr d p).gpr i

def State.setGpr (s : State) (d p i : Nat) (v : BitVec 64) : State := s.modSpr d p fun x => x.setGpr i v

/-- An integer operation writes its result. -/
def State.sclInt (s : State) (d p rd : Nat) (v : BitVec 64) : SclOut := (s.setGpr d p rd v, true, 0)

/-- A float operation writes its result in the low bits of RD, the rest zero, and accumulates its flags. -/
def State.sclFloat (s : State) (d p rd : Nat) (r : Nat × FpFlags) : SclOut :=
  ((s.setGpr d p rd (BitVec.ofNat 64 r.1)).raiseFlags d p r.2, true, r.2)

/-- SHL: RA shifted left by RB; by 64 or more the result is a free value (log 11). -/
def shl64 (a b : BitVec 64) : BitVec 64 := if b.toNat < 64 then a <<< b.toNat else Config.shlBeyond a b

/-- SHR: RA shifted right by RB; by 64 or more, or with bit 63 set, the result is a free value (log 11). -/
def shr64 (a b : BitVec 64) : BitVec 64 := if b.toNat < 64 ∧ bit a 63 = false then a >>> b.toNat else Config.shrBeyond a b

/-- A float operand: bits [15:0] or [31:0] of a register. -/
def State.fop (s : State) (d p i : Nat) (f16 : Bool) : Nat := (s.gpr d p i).toNat % (if f16 then 2 ^ 16 else 2 ^ 32)

def fmtOf (f16 : Bool) : Fmt := if f16 then b16 else b32

def State.sclFadd (s : State) (d p rd ra rb : Nat) (f16 : Bool) (rm : Fin 4) : SclOut :=
  s.sclFloat d p rd ((fmtOf f16).add (frndOf rm) (s.fop d p ra f16) (s.fop d p rb f16))

def State.sclFmul (s : State) (d p rd ra rb : Nat) (f16 : Bool) (rm : Fin 4) : SclOut :=
  s.sclFloat d p rd ((fmtOf f16).mul (frndOf rm) (s.fop d p ra f16) (s.fop d p rb f16))

def State.sclFfma (s : State) (d p rd ra rb rc : Nat) (f16 : Bool) (rm : Fin 4) : SclOut :=
  s.sclFloat d p rd ((fmtOf f16).fma (frndOf rm) (s.fop d p ra f16) (s.fop d p rb f16) (s.fop d p rc f16))

/-- FCVT: F16 names the result format. -/
def State.sclFcvt (s : State) (d p rd ra : Nat) (f16 : Bool) (rm : Fin 4) : SclOut :=
  s.sclFloat d p rd (convertFormat (fmtOf !f16) (fmtOf f16) (frndOf rm) (s.fop d p ra !f16))

/-! Memory and register operations (R159). -/

/-- The byte address of LD32, ST32 and LDTAG; beyond 2^64 it wraps (DESIGN CHOICE, log 106). -/
def State.sclAddr (s : State) (d p ra off : Nat) : Nat := ((s.gpr d p ra).toNat + 4 * off) % 2 ^ 64

/-- An offset within the sprig's register window that an address names. -/
def winOff (a : Nat) : Option Nat := if 0x1000000 ≤ a ∧ a < 0x1010000 then some (a - 0x1000000) else none

/-- LD32: a 4-byte word of sprig SRAM or of the register window, zero-extended. -/
def State.sclLd32 (s : State) (d p rd ra off : Nat) : SclOut :=
  let a := s.sclAddr d p ra off
  if a % 4 ≠ 0 then (s, false, 0)
  else if a < sramSize then
    let (s, ok, bs) := s.readRange (sramDpa d p a) 4
    if ok then (s.setGpr d p rd (BitVec.ofNat 64 (leNat bs)), true, 0)
    else
      let (s, bs) := s.freeBytes 4
      (s.setGpr d p rd (BitVec.ofNat 64 (leNat bs)), true, 0)
  else match winOff a with
    | some r => (s.setGpr d p rd ((s.peek d (sprigBase p + r)).setWidth 64), true, 0)
    | none => (s, false, 0)

/-- ST32: RD[31:0] to sprig SRAM or to the register window. -/
def State.sclSt32 (s : State) (d p rd ra off : Nat) : SclOut :=
  let a := s.sclAddr d p ra off
  let v := (s.gpr d p rd).setWidth 32
  if a % 4 ≠ 0 then (s, false, 0)
  else if a < sramSize then (s.writeRange (sramDpa d p a) (natLe 4 v.toNat), true, 0)
  else match winOff a with
    | some r => (s.windowWrite d p r v, true, 0)
    | none => (s, false, 0)

/-- LDTAG: 32 bytes of sprig SRAM into the scale-tag entry that the low six bits of register RD name (DEDUCED, log 34), as
eight register writes in address order. -/
def State.sclLdtag (s : State) (d p rd ra off : Nat) : SclOut :=
  let a := s.sclAddr d p ra off
  if a % 32 ≠ 0 ∨ sramSize < a + 32 then (s, false, 0)
  else
    let i := (s.gpr d p rd).toNat % 64
    let (s, ok, bs) := s.readRange (sramDpa d p a) 32
    let (s, bs) := if ok then (s, bs) else s.freeBytes 32
    ((List.range 8).foldl (fun s k => s.windowWrite d p (0x1000 + 0x20 * i + 4 * k) (BitVec.ofNat 32 (fld bs (4 * k) 4))) s,
      true, 0)

/-- One scalar operation word. Answers also whether it met unusable data (R250). -/
def State.sclStep (s : State) (d p : Nat) (w : Word) : SclOut :=
  let rd := bits w 25 21; let ra := bits w 20 16; let rb := bits w 15 11
  let f16 := bit w 10; let rm : Fin 4 := ⟨bits w 9 8 % 4, Nat.mod_lt _ (by decide)⟩
  let off := bits w 7 0
  let x := s.gpr d p ra; let y := s.gpr d p rb
  match bits w 31 26 with
  | 0x01 => s.sclInt d p rd (BitVec.ofNat 64 (bits w 15 0))
  | 0x02 => s.sclInt d p rd (x + y)
  | 0x03 => s.sclInt d p rd (x - y)
  | 0x04 => s.sclInt d p rd (x &&& y)
  | 0x05 => s.sclInt d p rd (x ||| y)
  | 0x06 => s.sclInt d p rd (shl64 x y)
  | 0x07 => s.sclInt d p rd (shr64 x y)
  | 0x10 => s.sclFadd d p rd ra rb f16 rm
  | 0x11 => s.sclFmul d p rd ra rb f16 rm
  | 0x12 => s.sclFfma d p rd ra rb (bits w 4 0) f16 rm
  | 0x13 => s.sclFcvt d p rd ra f16 rm
  | 0x20 => s.sclLd32 d p rd ra off
  | 0x21 => s.sclSt32 d p rd ra off
  | 0x22 => s.sclLdtag d p rd ra off
  | _ => (s, false, 0)

/-- The unusable data that an LD32 or LDTAG would read (R250). -/
def State.sclBad (s : State) (d p : Nat) (w : Word) : Bool :=
  let a := s.sclAddr d p (bits w 20 16) (bits w 7 0)
  let o := bits w 31 26
  (o == 0x20 && decide (a % 4 = 0 ∧ a < sramSize) && !((s.readRange (sramDpa d p a) 4).2.1)) ||
    (o == 0x22 && decide (a % 32 = 0 ∧ a + 32 ≤ sramSize) && !((s.readRange (sramDpa d p a) 32).2.1))

/-- What the list of an SCL command does: the operations in order, to the first with a bad address (R159). Answers the
status and the flags raised. -/
def State.sclRun (s : State) (d p : Nat) (bad : Bool) (f : FpFlags) : List Word → State × Nat × FpFlags
  | [] => (s, if bad then rcFault else rcOk, f)
  | w :: ws =>
    let b := s.sclBad d p w
    let (s', ok, g) := s.sclStep d p w
    if ok then s'.sclRun d p (bad || b) (f ||| g) ws else (s, rcBadArg, f)

/-! The rows of the scalar operations: one operation executes in the core of a sprig. -/

/-- An operation executes while the sprig runs; one with a bad address does not execute. -/
def runScl (d p : Nat) (s : State) (f : State → SclOut) : Out :=
  .next (if s.live d p then (if (f s).2.1 then (f s).1 else s) else s)

def execMovi (d : CDie) (p : Phys) (rd : Fin 32) (imm : BitVec 16) (s : State) : Out :=
  runScl d p s fun s => s.sclInt d p rd (imm.setWidth 64)
def execAdd (d : CDie) (p : Phys) (rd ra rb : Fin 32) (s : State) : Out :=
  runScl d p s fun s => s.sclInt d p rd (s.gpr d p ra + s.gpr d p rb)
def execSub (d : CDie) (p : Phys) (rd ra rb : Fin 32) (s : State) : Out :=
  runScl d p s fun s => s.sclInt d p rd (s.gpr d p ra - s.gpr d p rb)
def execAnd (d : CDie) (p : Phys) (rd ra rb : Fin 32) (s : State) : Out :=
  runScl d p s fun s => s.sclInt d p rd (s.gpr d p ra &&& s.gpr d p rb)
def execOr (d : CDie) (p : Phys) (rd ra rb : Fin 32) (s : State) : Out :=
  runScl d p s fun s => s.sclInt d p rd (s.gpr d p ra ||| s.gpr d p rb)
def execShl (d : CDie) (p : Phys) (rd ra rb : Fin 32) (s : State) : Out :=
  runScl d p s fun s => s.sclInt d p rd (shl64 (s.gpr d p ra) (s.gpr d p rb))
def execShr (d : CDie) (p : Phys) (rd ra rb : Fin 32) (s : State) : Out :=
  runScl d p s fun s => s.sclInt d p rd (shr64 (s.gpr d p ra) (s.gpr d p rb))
def execFadd (d : CDie) (p : Phys) (rd ra rb : Fin 32) (f16 : Bool) (rm : Fin 4) (s : State) : Out :=
  runScl d p s fun s => s.sclFadd d p rd ra rb f16 rm
def execFmul (d : CDie) (p : Phys) (rd ra rb : Fin 32) (f16 : Bool) (rm : Fin 4) (s : State) : Out :=
  runScl d p s fun s => s.sclFmul d p rd ra rb f16 rm
def execFfma (d : CDie) (p : Phys) (rd ra rb rc : Fin 32) (f16 : Bool) (rm : Fin 4) (s : State) : Out :=
  runScl d p s fun s => s.sclFfma d p rd ra rb rc f16 rm
def execFcvt (d : CDie) (p : Phys) (rd ra : Fin 32) (f16 : Bool) (rm : Fin 4) (s : State) : Out :=
  runScl d p s fun s => s.sclFcvt d p rd ra f16 rm
def execLd32 (d : CDie) (p : Phys) (rd ra : Fin 32) (off : BitVec 8) (s : State) : Out :=
  runScl d p s fun s => s.sclLd32 d p rd ra off.toNat
def execSt32 (d : CDie) (p : Phys) (rd ra : Fin 32) (off : BitVec 8) (s : State) : Out :=
  runScl d p s fun s => s.sclSt32 d p rd ra off.toNat
def execLdtag (d : CDie) (p : Phys) (rd ra : Fin 32) (off : BitVec 8) (s : State) : Out :=
  runScl d p s fun s => s.sclLdtag d p rd ra off.toNat

end Sys2Proof.Machine
end

