-- ==== Sys2Proof/Machine/Sprig.lean ====
section
/-! DEFINITION. The sprig commands (R149-R166, R466): dispatch, DMA transfers, SEND, barriers, waits, SCL and CTX. -/

namespace Sys2Proof.Machine

/-! Dispatch (R149, R150, R156, R435). -/

/-- A discarded head: illegal ones set SPRG_ERR and count (R156), and every one writes a completion. -/
def State.discardHead (s : State) (d p q : Nat) (e : QEntry) (status : Nat) : State :=
  let s := s.popQ d p q
  let s := if status = rcFault then s.setF d (.SPRG_ERR_EPOCH p) 1
    else if status = rcCancelled then s else s.setF d (.SPRG_ERR_ILLEGAL p) 1
  let s := if status = rcCancelled then s else s.countF d (sprCtr p 1) 1 e.bytes
  let s := s.report d p e.bytes status 0 (s.coreSrc d p q) 0 (s.reg d (Reg.SPRG_STEP p)).toNat []
  if status = rcBadOpcode ∨ status = rcBadArg then (s.ownFault 0x29 d p 0 0 0 1).illegalPath else s

/-- A head whose codewords give no data (R250) leaves its queue: the command that it held completes with FAULT, under the header as
it was read (log 108). -/
def State.faultHead (s : State) (d p q : Nat) (e : QEntry) : State :=
  let s := (s.popQ d p q).report d p e.bytes rcFault 0 (s.coreSrc d p q) 0 (s.reg d (Reg.SPRG_STEP p)).toNat []
  s.skipUnit e.bytes 0x03

/-- A matching head is held, the stop is issued, and ARM clears on every die (R435, R391). -/
def State.holdHead (s : State) (d p q : Nat) (e : QEntry) : State :=
  let l := (s.logicalOf d p).getD 0
  let s := { s with stop := { s.stop with held := some (d, p, q) } }
  let s := s.setFs allDies .DBG_BP_CTL_ARM 0
  let replay := s.flag 18 .JRN_STATUS_REPLAY
  let mark (r : Replay) : Replay := { r with stopped := true }
  let s := if replay then { s.setF 18 .JRN_STATUS_STOPPED 1 with edge := { s.edge with replay := s.edge.replay.map mark } } else s
  s.issueStop 3 (s.stopScope || replay) [d, l, hdrLayer e.bytes, hdrOper e.bytes, hdrMbid e.bytes]

/-- A dispatch row: the core serves the head that the round-robin picks, when the head's class is the row's. -/
def dispatch (d p : Nat) (mine : List Byte → Bool) (go : State → Nat → QEntry → State) (s : State) : State :=
  match s.pickQueue d p with
  | none => s
  | some q =>
    let s₀ := s
    let (s, ok) := s.readHead d p q
    match (s.que d p q).entries with
    | [] => s₀
    | e :: _ =>
      if !ok then (s.modSpr d p fun x => { x with last := some q }).faultHead d p q e
      else if !mine e.bytes then s₀
      else
        match s.headDiscard d p e.bytes with
        | some st => (s.modSpr d p fun x => { x with last := some q }).discardHead d p q e st
        | none =>
          if s.bpMatch d p e.bytes then s.holdHead d p q e
          else
            let s := s.modSpr d p fun x => { x with last := some q }
            go ((s.popQ d p q).countF d (sprCtr p 0) 1 e.bytes) q e

/-- ARR_COMMAND (R150, R158): the words' arrays take the command's words in their issue units. The row also discards a
head of a reserved class. -/
def execArrCommand (d : CDie) (p : Phys) (s : State) : Out :=
  .next <| dispatch d p (fun b => cmdClass b = 0 ∨ cmdClass b = 7) (fun s q e =>
    let b := e.bytes
    let n := cmdCount b
    let (s, id) := s.launch d p q b ((cmdWords b).length * n)
    let job (a b' : Option AWord) : IssueJob :=
      { cmd := id, a := a, b := b', cnt := n, da := fld b 50 2, db := fld b 52 2, initFirst := fldBits b 54 1 0 0 = 1, next := 0 }
    let give (s : State) (a : Nat) (j : IssueJob) : State := s.setArr d p a { s.arr d p a with job := some j }
    if !cmdHasB b then give s (awArr (cmdA b)) (job (some (cmdA b)) none)
    else if awArr (cmdA b) = awArr (cmdB b) then give s (awArr (cmdA b)) (job (some (cmdA b)) (some (cmdB b)))
    else give (give s (awArr (cmdA b)) (job (some (cmdA b)) none)) (awArr (cmdB b)) (job none (some (cmdB b)))) s

/-- DMA_COMMAND (R150, R151): the command enters its DMA queue. -/
def execDmaCommand (d : CDie) (p : Phys) (s : State) : Out :=
  .next <| dispatch d p (fun b => cmdClass b = 1) (fun s q e =>
    let (s, id) := s.launch d p q e.bytes 1
    s.pushQ d p (dmaQueue e.bytes) { e with cmd := id }) s

/-- ENG_COMMAND (R150, R160): the command enters its engine-request queue; one for an engine in DRAINING or DISABLED is
cancelled at once (R181). -/
def execEngCommand (d : CDie) (p : Phys) (s : State) : Out :=
  .next <| dispatch d p (fun b => cmdClass b = 2) (fun s q e =>
    let (s, id) := s.launch d p q e.bytes 1
    let k := cmdOp e.bytes % 8
    if k < 7 ∧ (s.eng d (engOfIx k)).st ≠ .enabled then s.complete d p id rcCancelled (woEngine d k) 0 (noDetail k)
    else s.pushQ d p (engQueue e.bytes) { e with cmd := id }) s

/-- A receive entry (R162): bytes 16-19 carry the sender's QID and module index. -/
def State.receiveEntry (s : State) (d p q : Nat) (b : List Byte) : List Byte :=
  splice b 16 (natLe 4 (s.modIx % 1024 * 2 ^ 18 + s.qid d p q))

/-- QUE_SEND (R162): the entry is on its way to its receive queue. -/
def execQueSend (d : CDie) (p : Phys) (s : State) : Out :=
  .next <| dispatch d p (fun b => cmdClass b = 3) (fun s q e =>
    let (s, id) := s.launch d p q e.bytes 1
    s.modSpr d p fun x => { x with sends := x.sends ++
      [{ cmd := id, q := q, entry := s.receiveEntry d p q e.bytes, qid := fldBits e.bytes 16 4 17 0,
         module := fldBits e.bytes 16 4 27 18 }] }) s

/-- SYNC_BARRIER (R284, R319): the command's dispatch is an arrival; a group barrier's arrivals go up the Thyme tree once the
module's subtree is complete. The row
also discards a SYNC head with a reserved OP. -/
def execSyncBarrier (d : CDie) (p : Phys) (s : State) : Out :=
  .next <| dispatch d p (fun b => cmdClass b = 4 ∧ cmdOp b ≠ 1) (fun s q e =>
    let (s, id) := s.launch d p q e.bytes 1
    let b := cmdBarrier e.bytes
    let who := (d.val * 272 + p.val, id)
    let s := if s.barriers.any fun x => x.id = b then
        { s with barriers := s.barriers.map fun x =>
          if x.id = b then { x with arrived := x.arrived ++ [who], last := max x.last s.now } else x }
      else { s with barriers := s.barriers ++
        [{ Barrier.new b s.now with arrived := [who] }] }
    s.barrierUp b) s

/-- A WAITQ in flight whose queue holds its count completes; on an event queue it removes the oldest COUNT entries, and
producers that waited place theirs (R157, R466). No command takes entries from a receive queue: they leave only when the queue or its
sprig is cancelled (DESIGN CHOICE, log 107). -/
def State.settleWait (s : State) (d p : Nat) (c : Cmd) : State :=
  let q := cmdWaitq c.bytes
  let n := cmdWaitCount c.bytes
  if (s.que d p q).entries.length < n then s
  else
    let s := if 56 ≤ q then ((List.range n).foldl (fun s _ => s.popQ d p q) s).unstall d p q 64 else s
    s.complete d p c.id rcOk (s.coreSrc d p c.q) 0 []

/-- Every WAITQ of a sprig in flight, in order of dispatch. -/
def State.settleWaits (s : State) (d p : Nat) : State :=
  ((s.spr d p).cmds.filter fun c => cmdClass c.bytes = 4 ∧ cmdOp c.bytes = 1).foldl (fun s c => s.settleWait d p c) s

/-- SYNC_WAITQ (R157, R466): a WAITQ dispatches and waits; waits whose count is there complete. -/
def execSyncWaitq (d : CDie) (p : Phys) (s : State) : Out :=
  .next <| if s.frozen then s else
    (dispatch d p (fun b => cmdClass b = 4 ∧ cmdOp b = 1) (fun s q e => (s.launch d p q e.bytes 1).1) s).settleWaits d p

/-- SCL (R157, R159): the operations of the list, and the completion with the last one. -/
def execScl (d : CDie) (p : Phys) (s : State) : Out :=
  .next <| dispatch d p (fun b => cmdClass b = 5) (fun s q e =>
    let (s, id) := s.launch d p q e.bytes 1
    let (s, st, f) := s.sclRun d p false 0 (sclWords e.bytes)
    s.complete d p id st (s.coreSrc d p q) f.toNat []) s

/-- CTX_STEP (R152): the schedule writes SPRG_STEP. -/
def execCtxStep (d : CDie) (p : Phys) (s : State) : Out :=
  .next <| dispatch d p (fun b => cmdClass b = 6) (fun s q e =>
    let (s, id) := s.launch d p q e.bytes 1
    (s.setReg d (Reg.SPRG_STEP p) (BitVec.ofNat 32 (fld e.bytes 16 4))).complete d p id rcOk (s.coreSrc d p q) 0 []) s

/-! The DMA engine (R151). -/

/-- The DMA queue whose head starts next: round-robin over queues with no transfer running. -/
def State.dmaPick (s : State) (d p : Nat) : Option Nat :=
  let x := s.spr d p
  if x.dma.length < 4 ∧ x.st = .enabled ∧ s.live d p ∧ !s.dmaStalled d p then
    (rrOrder 16 16 x.dmaLast).find? fun q =>
      !(x.que q).entries.isEmpty && (x.que q).st = .enabled && x.dma.all fun r => r.q ≠ q
  else none

/-- DMA_TRANSFER_START (R151): the engine takes the head of the next DMA queue; a head that gives no data completes with FAULT
(R250). -/
def execDmaTransferStart (d : CDie) (p : Phys) (s : State) : Out :=
  .next <|
    match s.dmaPick d p with
    | none => s
    | some q =>
      let (s, ok) := s.readHead d p q
      match (s.que d p q).entries with
      | [] => s
      | e :: _ =>
        let s := (s.popQ d p q).modSpr d p fun x => { x with dmaLast := some q }
        if ok then s.modSpr d p fun x => { x with dma := x.dma ++ [{ q := q, entry := e }] }
        else s.complete d p e.cmd rcFault (woEngine d 9) 0 []

/-- The rows of a transfer are copied in order; answers the status (R235, R250, R256). -/
def State.copyRows (s : State) : List ((Nat × Nat) × (Nat × Nat)) → State × Nat
  | [] => (s, rcOk)
  | (src, dst) :: t =>
    let (s, ok, bs) := s.readRange src.1 src.2
    if ok then
      let (s, w) := s.requestWrite dst.1 bs
      let (s, st) := s.copyRows t
      (s, if w then st else rcDenied)
    else
      let (s, _) := (s.scrambleDests [dst]).copyRows t
      (s, rcFault)

/-- The dies that a transfer reads and writes, in place and reached by a route (R20, R368, R369). -/
def State.dmaReaches (s : State) (d : Nat) (b : List Byte) : Bool :=
  let ds := ((dmaSrcs b ++ dmaDests b).map fun y => dpaDie y.1).filter (· < 16)
  s.reaches d ds && !(ds.any fun t => s.lostDies.contains t)

/-- DMA_TRANSFER_COMPLETE (R157, R235): a running transfer of a queue moves its bytes, unless any byte is unmapped, and
its command completes. A lost die answers no transaction (R368). -/
def execDmaTransferComplete (d : CDie) (p : Phys) (q : Fin 16) (s : State) : Out :=
  .next <|
    match (s.spr d p).dma.find? fun r => r.q = 16 + q.val with
    | none => s
    | some r =>
      if !s.live d p || s.dmaStalled d p || !s.dmaReaches d r.entry.bytes then s
      else
        let b := r.entry.bytes
        let s := s.modSpr d p fun x => { x with dma := x.dma.filter fun y => y.q ≠ r.q }
        if (dmaSrcs b).all (fun y => s.jobRange y.1 y.2) ∧ (dmaDests b).all (fun y => s.jobRange y.1 y.2) then
          let (s, st) := s.copyRows (List.zip (dmaSrcs b) (dmaDests b))
          s.complete d p r.entry.cmd st (woEngine d 9) 0 []
        else (s.setF d .MEM_ERR_UNMAPPED 1).complete d p r.entry.cmd rcBadArg (woEngine d 9) 0 []

/-! SEND (R162, R166). -/

/-- Where a SEND goes inside this module: its die, physical sprig and queue, when the queue can take entries at all. -/
def State.sendTarget (s : State) (qid : Nat) : Option (Nat × Nat × Nat) :=
  let d := qid / 2 ^ 14; let q := qid % 64
  let p := s.physOf d (qid / 64 % 256)
  if 32 ≤ q ∧ q < 48 ∧ !s.offline d p ∧ !s.lostDies.contains d ∧ (s.spr d p).st = .enabled ∧ (s.que d p q).accepts then
    some (d, p, q)
  else none

/-- SEND_RECEIVE (R162, R166): the oldest SEND of a command queue reaches its receive queue, which accepts it, has no room
yet, or is absent, disabled or draining. For another module's queue, credit of the local link port stands for its space, and the queue
answers through the links. -/
def execSendReceive (d : CDie) (p : Phys) (cq : Fin 16) (remoteAccepts : Bool) (s : State) : Out :=
  .next <|
    match (s.spr d p).sends.find? fun x => x.q = cq.val with
    | none => s
    | some x =>
      if !s.live d p then s
      else
        let gone (s : State) : State := s.modSpr d p fun y => { y with sends := y.sends.filter fun z => z.cmd ≠ x.cmd }
        let src := s.coreSrc d p x.q
        if x.module = s.modIx then
          match s.sendTarget x.qid with
          | none => (gone s).complete d p x.cmd rcDenied src 0 []
          | some (d', p', q') =>
            if (s.que d' p' q').full then s
            else
              let step := match s.cmd d p x.cmd with | some c => c.step | none => 0
              ((gone s).pushQ d' p' q' { bytes := x.entry, tick := step, cmd := 0 }).complete d p x.cmd rcOk src 0 []
        else if x.qid % 64 < 32 ∨ 48 ≤ x.qid % 64 ∨ !remoteAccepts then (gone s).complete d p x.cmd rcDenied src 0 []
        else if (s.sendWait x.module).isSome then s
        else
          let step := match s.cmd d p x.cmd with | some c => c.step | none => 0
          ({ gone s with outbox := s.outbox ++ [Sent.send x.module x.qid step x.entry] }).complete d p x.cmd rcOk src 0 []

/-! The schedule fetcher (R154, R294). -/

/-- The command of a slot that the fetcher would enter: expanded, with its command queue and full tick. -/
def expand (v : VariantPart) (e : SlotEntry) (i : Nat) : Option (Nat × QEntry) :=
  match (v.templates.getD e.tmpl [])[i]? with
  | none => none
  | some c =>
    let tick := (e.tickBase.toNat + cmdTicklo c.bytes) % 2 ^ 24
    let b := if c.side.getLsbD 4 then splice c.bytes 7 (natLe 2 e.mbid.toNat) else c.bytes
    let bias (b : List Byte) (at_ : Nat) : List Byte :=
      let w := fld b at_ 8
      splice b at_ (natLe 8 (w / 2 ^ 52 * 2 ^ 52 + (w % 2 ^ 52 + e.bias.toNat) % 2 ^ 52))
    let b := if c.side.getLsbD 5 then bias b 16 else b
    let b := if c.side.getLsbD 6 then bias b 24 else b
    let b := splice b 14 (natLe 2 tick)
    some (c.side.toNat % 16, { bytes := b, tick := tick, cmd := 0 })
where
  cmdTicklo (b : List Byte) : Nat := fld b 14 2

/-- A command enters a command queue: its full tick resolves from the base, which an empty queue takes from it (R154). -/
def State.enterCmd (s : State) (d p q : Nat) (e : QEntry) : State :=
  let x := s.que d p q
  let base := if x.entries.isEmpty then e.tick else x.tickBase
  let lo := cmdTickLo e.bytes
  let up := base / 65536 * 65536 + lo
  let full := if base ≤ up then up else up + 65536
  (s.setQue d p q { x with tickBase := full % 2 ^ 24 }).pushQ d p q { e with tick := full % 2 ^ 24 }

/-- Whether a command may enter its queue now: the queue has room and accepts, and its tick lies within 65,535 of the base
(R154, R174). -/
def State.mayEnter (s : State) (d p q : Nat) (e : QEntry) : Bool :=
  let x := s.que d p q
  x.accepts && (s.spr d p).st = .enabled && !x.full && (x.entries.isEmpty || decide (e.tick ≤ x.tickBase + 65535))

/-- The position after command `i` of slot `n`: the next command, the next slot. -/
def nextFetch (v : VariantPart) (n i : Nat) : Nat × Nat :=
  match v.slots[n]? with
  | some e => if i + 1 < (v.templates.getD e.tmpl []).length then (n, i + 1) else (n + 1, 0)
  | none => (n, i)

/-- The held command that may enter: the first held one of its queue, whose queue takes it (R174). -/
def State.heldNext (s : State) (d p : Nat) (held : List QEntry) : Option QEntry :=
  held.find? fun h => s.mayEnter d p h.cmd h && decide ((held.find? fun g => g.cmd = h.cmd) = some h)

/-- SCHEDULE_FETCH (R294): a held command enters its queue first; otherwise the next command of the slot table is expanded and
enters its queue, or is held while that queue refuses entries or holds earlier ones back; a slot that a drop entry covers (R370),
and an N8 command that a fallback replaced (R122), are not entered. -/
def execScheduleFetch (d : CDie) (p : Phys) (s : State) : Out :=
  .next <|
    match s.logicalOf d p, s.job with
    | some l, some j =>
      if s.frozen || !j.running then s
      else
        let x := s.spr d p
        match s.heldNext d p x.held with
        | some h => (s.modSpr d p fun x => { x with held := x.held.erase h }).enterCmd d p h.cmd { h with cmd := 0 }
        | none =>
          match s.runningParts.find? fun v => v.die = d ∧ v.logical.val = l with
          | none => s
          | some v =>
            match v.slots[x.fetchPos]? with
            | none => s
            | some e =>
              let nx := nextFetch v x.fetchPos x.fetchTmpl
              let skip (n : Nat × Nat) (s : State) : State := s.modSpr d p fun x => { x with fetchPos := n.1, fetchTmpl := n.2 }
              if (slotUnits v e).any fun u => j.excluded u.1 u.2.1 then skip (x.fetchPos + 1, 0) s
              else
                match expand v e x.fetchTmpl with
                | none => skip (x.fetchPos + 1, 0) s
                | some (q, c) =>
                  if x.fallbacks.any fun f => f.n8.contains c.bytes then skip nx s
                  else if ((s.que d p q).accepts ∧ x.st = .enabled) ∧ !(x.held.any fun h => h.cmd = q) then
                    if s.mayEnter d p q c then (skip nx s).enterCmd d p q c else s
                  else (skip nx s).modSpr d p fun x => { x with held := x.held ++ [{ c with cmd := q }] }
    | _, _ => s

end Sys2Proof.Machine
end

