-- ==== Sys2Proof/Machine/SprigState.lean ====
section
/-! DEFINITION. Faults, drains and restarts of sprigs, queues and engines (R170, R171, R174-R176, R181, R466). -/

namespace Sys2Proof.Machine

/-- Slots that accepted instructions of an array were writing hold undefined words, and the inactive stationary slot of each column
that a load had reached holds undefined cells (R170). -/
def State.loseSlots (s : State) (d p a : Nat) : State :=
  let x := s.arr d p a
  let slots := (x.accepted.filter fun j => j.opc = opMm ∨ j.opc = opLoad).flatMap fun j => slotsOf j.ins.w
  let s := slots.eraseDups.foldl (fun s i =>
    (List.range 256).foldl (fun s e =>
      { s with acc := Store.set 0 s.acc (accKey d p a i e) (Config.freeAcc s.fresh), fresh := s.fresh + 1 }) s) s
  let free (k : Nat) : BitVec 17 := (Config.freeAcc (s.fresh + k)).setWidth 17
  let cols := match x.accepted.find? fun j => j.opc = opLds with
    | some j => if j.pos = 0 then [] else List.range (j.pos + 1)
    | none => []
  let cells := cols.foldl (fun m c => (List.range 32).foldl (fun m r =>
    Store.set 0 m (cellKey (1 - x.activeSlot c) r c) (free (32 * c + r))) m) x.cells
  { s with fresh := s.fresh + 32 * cols.length }.setArr d p a
    { x with cells := cells, job := none, iq := [], accepted := [], results := [], tokens := [], wdog := false }

/-- SPRIG_FAULT (R170, R171): FAILED sets; a sprig that runs a logical number has its queued entries cancelled and its
dispatched work abandoned, and its units are skipped; an unused spare is only reported. -/
def execSprigFault (d : CDie) (p : Phys) (s : State) : Out :=
  .next <|
    if s.failed d p then s
    else
      let f := Fld.SPRG_MAP_FAILED (p / 17)
      let sets (s : State) : State :=
        let s := s.setF d f (s.getF d f ||| 2 ^ (p.val % 17))
        { s with repair := Store.set 0 s.repair (d.val * 16 + p.val / 17) (s.reg d (Reg.SPRG_MAP (p / 17))) }
      match s.logicalOf d p with
      | none => (sets s).ownFault 0x10 d p 0 0 0 2
      | some _ =>
        let ds := s.phaseDrops 0x10
        let s := (List.range 56).foldl (fun s q => s.cancelQueue d p q) s
        let s := (s.spr d p).dma.foldl (fun s r => s.scrambleDests (dmaDests r.entry.bytes)) s
        let s := (List.range 4).foldl (fun s a => s.loseSlots d p a) s
        let leave (b : Barrier) : Barrier := { b with arrived := b.arrived.filter fun y => y.1 ≠ d.val * 272 + p.val }
        let s := { s with barriers := s.barriers.map leave }
        let s := s.modSpr d p fun x => { x with cmds := [], dma := [], sends := [], held := [], stalled := x.stalled.filter fun y => y.cancelled }
        ((sets s).ownFault 0x10 d p ds.length 0 0 1).addDrops ds

/-- SPRIG_DISABLE (R174): EN is cleared. -/
def execSprigDisable (d : CDie) (p : Phys) (s : State) : Out := .next (s.disableSprig d p)

/-- QUEUE_DISABLE (R174): EN of a queue is cleared. -/
def execQueueDisable (d : CDie) (p : Phys) (q : QIx) (s : State) : Out := .next (s.disableQueue d p q)

/-- SPRIG_ENABLE (R176). -/
def execSprigEnable (d : CDie) (p : Phys) (s : State) : Out := .next (s.enableSprig d p)

/-- QUEUE_ENABLE (R176). -/
def execQueueEnable (d : CDie) (p : Phys) (q : QIx) (s : State) : Out := .next (s.enableQueue d p q)

/-- ENGINE_DISABLE (R181). -/
def execEngineDisable (d : CDie) (e : EngineId) (s : State) : Out := .next (s.disableEngine d e)

/-- ENGINE_ENABLE (R181). -/
def execEngineEnable (d : CDie) (e : EngineId) (s : State) : Out := .next (s.enableEngine d e)

/-- The DRAIN field of an engine's error register. -/
def engDrainErr : EngineId → Fld
  | .chv => .CHV_ERR_DRAIN | .ats => .ENG_ERR_DRAIN 0 | .nrm => .ENG_ERR_DRAIN 1 | .emb => .ENG_ERR_DRAIN 2
  | .lay => .ENG_ERR_DRAIN 3 | .upd => .UPD_ERR_DRAIN | .fnl => .FNL_ERR_DRAIN

/-- Fennel's requests that wait on a die become running ones. -/
def State.fnlUnwait (s : State) (d : Nat) : State :=
  let reqs := ((Store.get [] s.edge.fnl.waits d).filter fun w => !w.redo).map FWait.request
  ((s.setFnlWaits d fun _ => []).setReg d Reg.FNL_AON 0).setEng d .fnl { s.eng d .fnl with accepted := (s.eng d .fnl).accepted ++ reqs }

/-- DRAIN_TIMEOUT (R174, R181): work still running when the timeout expires is aborted. -/
def execDrainTimeout (t : DrainTarget) (s : State) : Out :=
  .next <|
    if s.frozen then s
    else match t with
    | .sprig d p =>
      let x := s.spr d p
      if x.st = .draining ∧ s.sprigBusy d p then
        let s := (s.advanceTo x.drainAt).setF d (.SPRG_ERR_DRAIN_TMO p) 1
        let s := (List.range 4).foldl (fun s a => s.abortArray d p a) s
        (x.cmds.filter fun c => !s.cmdQueued d p c).foldl (fun s c => s.abortCmd d p c) s
      else s
    | .queue d p q =>
      let x := s.que d p q
      let w := s.queueWork d p q
      if x.st = .draining ∧ !w.isEmpty then
        w.foldl (fun s c => s.abortCmd d p c) ((s.advanceTo x.drainAt).setF d (.SPRG_ERR_DRAIN_TMO p) 1)
      else s
    | .engine d e =>
      let s' := if e = .fnl then s.fnlUnwait d else s
      let x := s'.eng d e
      if x.st = .draining ∧ !x.accepted.isEmpty then
        x.accepted.foldl (fun s r => s.abortRequest d e r) ((s'.advanceTo x.drainAt).setF d (engDrainErr e) 1)
      else s

/-- A CANCELLED entry of a sprig waits for room: in its own event queues, or, of a receive entry, in those of its sender (R174, R175). -/
def State.returning (s : State) (d p : Nat) : Bool :=
  ((s.spr d p).stalled.any fun y => y.cancelled) || s.sprigs.any fun x => x.2.stalled.any fun y =>
    y.cancelled && (List.range 16).any fun k => fld y.bytes 20 4 == woSpace (s.qid d p (32 + k))

/-- DRAIN_END (R174-R176, R181): with no work in flight, entries that have not started return CANCELLED; once those are
written the target is DISABLED, and an EN or a software reset that waited takes effect. -/
def execDrainEnd (t : DrainTarget) (s : State) : Out :=
  .next <|
    if s.frozen then s
    else match t with
    | .sprig d p =>
      if (s.spr d p).st = .draining ∧ !s.sprigBusy d p then
        let s := (List.range 56).foldl (fun s q => s.cancelQueue d p q) s
        if s.returning d p then s
        else
          let x := s.spr d p
          let s := s.setSpr d p { x with st := .disabled, enReq := false, srstReq := false }
          let s := if x.srstReq then (s.resetSprig d p).settleSprigs d else s
          if x.enReq then s.startSprig d p else s
      else s
    | .queue d p q =>
      if (s.que d p q).st = .draining ∧ (s.queueWork d p q).isEmpty then
        let s := s.cancelQueue d p q
        let x := s.que d p q
        if s.returning d p then s
        else if x.enReq then (s.setQue d p q x.start).unstall d p q 64
        else s.setQue d p q { x with st := .disabled }
      else s
    | .engine d e =>
      let x := s.eng d e
      if x.st = .draining ∧ x.accepted.isEmpty ∧ (e ≠ .fnl ∨ (Store.get [] s.edge.fnl.waits d).isEmpty) then
        let s := (List.range 272).foldl (fun s p => s.cancelQueue d p (48 + engIx e)) s
        let s := if x.srstReq then (s.resetEngine d e).setReg d Reg.RST_BLK_SRST (setBits (s.reg d Reg.RST_BLK_SRST) (engSrst e) (engSrst e) 0) else s
        s.setEng d e { s.eng d e with st := if x.enReq ∨ x.srstReq then .enabled else .disabled, enReq := false, srstReq := false }
      else s

/-- The die supervisor takes every request of a sprig's queue 55: it copies it to Milmar firmware and completes its command. The
spec gives these requests no operand (log 95). -/
def State.supServe (s : State) (d p : Nat) : State :=
  (s.que d p 55).entries.foldl (fun s _ =>
    let (s, ok) := s.readHead d p 55
    match (s.que d p 55).entries with
    | [] => s
    | e :: _ =>
      if ok then { s.popQ d p 55 with fwInbox := s.fwInbox ++ [(d, e.bytes)] }.complete d p e.cmd rcOk (woEngine d 7) 0 []
      else (s.popQ d p 55).complete d p e.cmd rcFault (woEngine d 7) 0 []) s

/-- The die supervisor removes the oldest entry of an event queue and copies it to Milmar firmware (R466), when it gives data (R250). -/
def State.supTake (s : State) (d p q : Nat) : State :=
  let (s, ok) := s.readHead d p q
  match (s.que d p q).entries with
  | [] => s
  | e :: _ => if !ok then s.popQ d p q else { s.popQ d p q with fwInbox := s.fwInbox ++ [(d, e.bytes)] }

/-- CANCELLED_COMPLETION_WRITE (R175): a CANCELLED completion that waited for space is written; the die supervisor reads
the queue while the sprig drains. -/
def execCancelledCompletionWrite (d : CDie) (p : Phys) (s : State) : Out :=
  .next <|
    match (s.spr d p).stalled.find? fun x => x.cancelled with
    | none => s
    | some x =>
      if !(s.que d p x.q).accepts then s else
      let s := if (s.que d p x.q).full then s.supTake d p x.q else s
      (s.modSpr d p fun y => { y with stalled := y.stalled.erase x }).writeEvent d p x.q x.bytes

/-- EVENT_QUEUE_FULL_SERVICE (R466): the die supervisor removes the oldest entry until the producer's entry is accepted. -/
def execEventQueueFullService (d : CDie) (p : Phys) (ev : Fin 8) (s : State) : Out :=
  let q := 56 + ev.val
  .next <|
    if (s.que d p q).full ∧ (s.spr d p).stalled.any fun x => x.q = q then (s.supTake d p q).unstall d p q 1 else s

end Sys2Proof.Machine
end

