-- ==== Sys2Proof/Machine/Engine.lean ====
section
/-! DEFINITION. What the engines share: taking a request, checking it, element formats, and writing the completion
(R177-R182, Tables 4.8 and 7.1). -/

namespace Sys2Proof.Machine

/-- A request as its engine accepts it: the sprig, the command, its operand and descriptor. -/
structure EJob where
  d : Nat
  p : Nat
  id : Nat
  bytes : List Byte
  opr : List Byte
  desc : List Byte
  step : Word
  seed : BitVec 64
  /-- Fennel takes the request up again after a failure (R329). -/
  retry : Bool := false
  deriving DecidableEq, Repr

/-- What a request answers: its status, flags, DETAIL, the ranges it wrote, its work, and what Chervil made of row groups. -/
structure EAns where
  status : Nat
  fpx : FpFlags
  detail : List Nat
  dests : List (Nat × Nat)
  work : Nat
  chv : List ChvPart
  deriving DecidableEq, Repr

def EAns.code (st : Nat) : EAns := { status := st, fpx := 0, detail := [], dests := [], work := 0, chv := [] }

def EJob.op (j : EJob) : Nat := fld j.opr 0 1
def EJob.flags (j : EJob) : Nat := fld j.opr 1 1
def EJob.count (j : EJob) : Nat := fld j.opr 6 2
/-- Address field `i` of the operand (R177). -/
def EJob.addr (j : EJob) (i : Nat) : Nat := fldBits j.opr (8 + 8 * i) 8 51 0
/-- The destination tensor of the command (Table 6.1). -/
def EJob.tid (j : EJob) : Nat := cmdTid j.bytes
def EJob.mbid (j : EJob) : Nat := hdrMbid j.bytes

/-- The reserved bits of the common frame (R177). -/
def EJob.frameOk (j : EJob) : Bool :=
  fldBits j.opr 2 4 31 26 == 0 && fldBits j.opr 2 4 25 0 % 64 == 0 && (List.range 5).all fun i => fldBits j.opr (8 + 8 * i) 8 63 52 == 0

def EJob.key (j : EJob) (tid lane rmode srk : Nat) : SrKey :=
  { seed := j.seed, step := j.step, tid := tid, lane := lane, rmode := rmode, srk := srk }

/-! Element formats (Table 4.8 codes). -/

/-- An element's exact value under a scale word; none for POISON, NaN or infinity. -/
def elemVal (fmt scale v : Nat) : Option Rat :=
  match fmt with
  | 0 => some ((sx 8 v : Rat) * (scaleOf scale).val)
  | 1 => some ((sx 16 v : Rat) * (scaleOf scale).val)
  | 2 => l16Val v
  | 3 => if b16.isFinite v then some (b16.val v) else none
  | _ => if b32.isFinite v then some (b32.val v) else none

/-- The code that stands for no value in a format (Table 4.8, R42). -/
def poisonCode (fmt : Nat) : Nat := if fmt = 2 then l16Poison else if fmt = 3 then 0x7E00 else if fmt = 4 then 0x7FC00000 else 0

/-- What storing an element gives: its code, whether it clipped, the exact value that was stored (none: POISON) and the flags
of a conversion to a binary format. -/
structure Stored where
  code : Nat
  clip : Bool
  val : Option Rat
  fl : FpFlags
  deriving DecidableEq, Repr

/-- An element without a value (R42). -/
def Stored.poison (fmt : Nat) : Stored := { code := poisonCode fmt, clip := false, val := none, fl := 0 }

/-- An element written as 0 whatever its format. -/
def Stored.zero : Stored := { code := 0, clip := false, val := some 0, fl := 0 }

/-- An exact value stored in a format (R36, R40, R49, Table 4.8). A binary format is rounded to nearest even whatever RMODE says, as
Table 2.7 gives the other modes for L16 and Q results (DESIGN CHOICE, log 114). -/
def storeVal (fmt scale : Nat) (rnd : Rnd) (x : Rat) : Stored :=
  if fmt < 2 then
    let sc := scaleOf scale
    if sc.zero then { code := 0, clip := decide (x ≠ 0), val := some x, fl := 0 }
    else
      let n := if fmt = 0 then 8 else 16
      let q := satQ n (roundInt rnd (x / sc.val))
      { code := lowBits n q.1, clip := q.2, val := some x, fl := 0 }
  else if fmt = 2 then let r := toL16 rnd x; { code := r.1, clip := r.2, val := some x, fl := 0 }
  else let r := toBinSat (if fmt = 3 then b16 else b32) x; { code := r.1, clip := r.2.1, val := some x, fl := r.2.2 }

/-- What an output element reports (R128, R129). -/
def outReport (fmt : Nat) (x : Option Rat) (code : Nat) (clip : Bool) : Report :=
  match x with
  | none => { Report.none with elems := 1, poison := 1, zeros := if fmt < 2 then 1 else 0 }
  | some x => { Report.none with elems := 1, amax := amaxL16 x, clips := clip.toNat, zeros := if code = 0 then 1 else 0 }

/-- What a stored element reports. -/
def Stored.report (fmt : Nat) (c : Stored) : Report := outReport fmt c.val c.code c.clip

/-- What a run of stored elements reports. -/
def reportAll (fmt : Nat) (cs : List Stored) : Report := cs.foldl (fun a c => a.add (c.report fmt)) Report.none

/-- The flags that a run of stored elements raised. -/
def flagsAll (cs : List Stored) : FpFlags := cs.foldl (fun f c => f ||| c.fl) 0

/-- Conversions that clipped, as a report (Table 2.6: L16 with EXP 255). -/
def clipReport (n : Nat) : Report := { Report.none with clips := n }

/-- An element rounded once to binary32 from its exact value, with its flags and whether it clipped; POISON and NaN become
NaN (Table 2.6). -/
def elemB32 (fmt scale v : Nat) : Nat × FpFlags × Bool :=
  match fmt with
  | 2 => l16ToB32 v
  | 3 => let r := convertFormat b16 b32 .tiesToEven v; (r.1, r.2, false)
  | 4 => (v, 0, false)
  | _ => match elemVal fmt scale v with
    | some x => let r := b32.round .tiesToEven x; (r.1, r.2, false)
    | none => (b32.qNaN, 0, false)

/-- A binary32 result stored in a format; a NaN or an infinity stores the format's POISON, and a zero keeps its sign in
binary16. Binary16 follows the stores of Table 4.8 here (0x7E00, saturation), not convertFormat: the spec does not say which of the two
an engine's result takes (DESIGN CHOICE, log 114). -/
def storeB32 (fmt scale : Nat) (rnd : Rnd) (v : Nat) : Stored :=
  if fmt = 4 then { code := v, clip := false, val := if b32.isFinite v then some (b32.val v) else none, fl := 0 }
  else if fmt = 3 ∧ b32.isZero v then { Stored.zero with code := if b32.neg v then b16.signBit else 0 }
  else if b32.isFinite v then storeVal fmt scale rnd (b32.val v)
  else Stored.poison fmt

/-! Canonical sums with their flags (R59). -/

def add32 (a : Nat × FpFlags) (b : Nat) : Nat × FpFlags :=
  let r := b32.add .tiesToEven a.1 b
  (r.1, a.2 ||| r.2)

def chunkSumF : List Nat → Nat × FpFlags
  | [] => (0, 0)
  | x :: xs => xs.foldl add32 (x, 0)

def treeLevelF : List (Nat × FpFlags) → List (Nat × FpFlags)
  | a :: b :: rest => (let r := b32.add .tiesToEven a.1 b.1; (r.1, a.2 ||| b.2 ||| r.2)) :: treeLevelF rest
  | l => l

def treeSumF : Nat → List (Nat × FpFlags) → Nat × FpFlags
  | _, [] => (0, 0)
  | _, [x] => x
  | 0, x :: _ => x
  | n + 1, l => treeSumF n (treeLevelF l)

def canonSumF (xs : List Nat) : Nat × FpFlags := treeSumF xs.length ((chunks16 xs).map chunkSumF)

/-! Ranges. -/

/-- A request moves nothing when any byte is unmapped (R235), and answers DENIED for a parity unit (R256). -/
def State.checkRanges (s : State) (rd wr : List (Nat × Nat)) : Option Nat :=
  if !((rd ++ wr).all fun r => s.jobRange r.1 r.2) then some rcBadArg
  else if wr.any fun r => s.touchesParity r.1 r.2 then some rcDenied
  else none

/-- The state after a request that was refused for its ranges. -/
def State.refuseRanges (s : State) (d st : Nat) : State :=
  s.setF d (if st = rcDenied then .MEM_ERR_PARWRITE else .MEM_ERR_UNMAPPED) 1

/-- A request's reads and writes are checked, its sources read, and then it runs; a source without usable data makes the
destinations undefined and the status FAULT (R250). `tracked`: what changes sends its parity delta (R230). -/
def State.engineRun (s : State) (j : EJob) (rd wr : List (Nat × Nat)) (run : State → List (List Byte) → State × EAns)
    (tracked : Bool := false) : State × EAns :=
  match s.checkRanges rd wr with
  | some st => (s.refuseRanges j.d st, EAns.code st)
  | none =>
    let (s, ok, bss) := rd.foldl (fun (acc : State × Bool × List (List Byte)) r =>
      let (s, ok, bs) := acc.1.readRange r.1 r.2
      (s, acc.2.1 && ok, acc.2.2 ++ [bs])) (s, true, [])
    if ok then
      let (s, a) := run s bss
      (s, { a with dests := wr })
    else ((if tracked then s.scrambleTracked wr (hdrLayer j.bytes) j.step.toNat else s.scrambleAll wr),
      { EAns.code rcFault with dests := wr })

/-! Taking a request (R178). -/

/-- The state records of an attention-stream request: start and length (R183). -/
def atsStates (opr desc : List Byte) : Nat × Nat :=
  (fldBits opr 24 8 51 0, (fld opr 6 2 / 1024 + 1) * (48 + 256 * (fldBits desc 0 1 3 0 + 1)))

def overlaps (a b : Nat × Nat) : Bool := decide (a.1 < b.1 + b.2 ∧ b.1 < a.1 + a.2)

/-- A head of queue 49 whose state records overlap those of a request that the engine has accepted and not completed: it waits
in its queue until that one completes (R179; log 87). -/
def State.atsHeld (s : State) (d : Nat) (opr : List Byte) : Bool :=
  decide (1 ≤ fld opr 0 1 ∧ fld opr 0 1 ≤ 3) &&
    (s.eng d .ats).accepted.any fun r => match r.states with
      | some y => overlaps (atsStates opr (s.view (dpa d 1 (fldBits opr 2 4 25 0)) 64)) y
      | none => false

/-- The next request of an engine: round-robin by logical sprig number, one from the head of a queue. -/
def State.nextRequest (s : State) (d : Nat) (e : EngineId) : Option (Nat × Nat × QEntry) :=
  let x := s.eng d e
  let q := 48 + engIx e
  if s.frozen ∨ x.st ≠ .enabled ∨ 16 ≤ x.accepted.length ∨ (s.engSpace d (engIx e)).isSome then none
  else
    (rrOrder 256 0 x.last).findSome? fun l =>
      let p := s.physOf d l
      if s.failed d p ∨ (s.spr d p).st ≠ .enabled ∨ (s.que d p q).st ≠ .enabled then none
      else match (s.que d p q).entries with
        | h :: _ => if e = .ats ∧ s.atsHeld d (slice h.bytes 16 48) then none else some (l, p, h)
        | [] => none

/-- The descriptor of a request (R177); its frame names it. -/
def State.readDesc (s : State) (d : Nat) (opr : List Byte) : State × Bool × List Byte :=
  s.readRange (dpa d 1 (fldBits opr 2 4 25 0)) 64

/-- What awaits its completion once a request has been answered; the attention-stream engine's DETAIL names no row unless one is
refused (Table 7.1). -/
def EJob.answered (e : EngineId) (j : EJob) (a : EAns) : EReq :=
  { p := j.p, cmd := j.id, bytes := j.bytes, step := j.step.toNat, status := a.status, fpx := a.fpx.toNat,
    detail := if a.detail = [] then noDetail (engIx e) else a.detail.flatMap (natLe 4), dests := a.dests,
    work := a.work, chv := a.chv, states := if e = .ats ∧ 1 ≤ j.op ∧ j.op ≤ 3 then some (atsStates j.opr j.desc) else none }

/-- A row of an engine: it accepts the next request when `mine` takes its OP, and runs it. `framed`: the operand has the
common frame and a descriptor. `bad`: the field that a malformed request sets (R180). A request or a descriptor that gives no data
answers FAULT (R250). -/
def acceptRequest (d : Nat) (e : EngineId) (framed : Bool) (mine : Nat → Bool) (bad : Fld) (legal : EJob → Bool)
    (run : State → EJob → State × EAns) (s : State) : State :=
  match s.nextRequest d e with
  | none => s
  | some (l, p, q) =>
    let s₀ := s
    let (s, ok) := s.readHead d p (48 + engIx e)
    let q := (s.que d p (48 + engIx e)).entries.headD q
    let opr := slice q.bytes 16 48
    if ok && !mine (fld opr 0 1) then s₀
    else
      let s := s.popQ d p (48 + engIx e)
      let s := s.setEng d e { s.eng d e with last := some l }
      let step := match s.cmd d p q.cmd with | some c => BitVec.ofNat 32 c.step | none => s.reg d (Reg.SPRG_STEP p)
      let seed := s.reg d (Reg.SPRG_SEED_HI p) ++ s.reg d (Reg.SPRG_SEED_LO p)
      let (s, dok, desc) := if framed && ok then s.readDesc d opr else (s, ok, [])
      let j : EJob := { d := d, p := p, id := q.cmd, bytes := q.bytes, opr := opr, desc := desc, step := step, seed := seed }
      let (s, a) :=
        if framed && ok && !j.frameOk then (s.setF d bad 1, EAns.code rcBadArg)
        else if !dok then (s, EAns.code rcFault)
        else if !legal j then (s.setF d bad 1, EAns.code rcBadArg)
        else run s j
      let s := if a.status = rcFault then s.skipUnit j.bytes 0x03 else s
      s.setEng d e { s.eng d e with accepted := (s.eng d e).accepted ++ [j.answered e a] }

/-! EMU_MM (R204). -/

/-- One element of EMU_MM: chunks of 16 products, each chunk added to the accumulator. Each product of two binary16 values is
exact in binary32. -/
def emuElement (acc : Nat × FpFlags) (ps : List (Nat × Nat)) : Nat × FpFlags :=
  let widen (x : Nat) : Nat × FpFlags := convertFormat b16 b32 .tiesToEven x
  (chunks16 ps).foldl (fun acc ch =>
    let t := match ch with
      | [] => (0, 0)
      | x :: rest =>
        let a := widen x.1; let b := widen x.2
        let first := b32.mul .tiesToEven a.1 b.1
        rest.foldl (fun (t : Nat × FpFlags) (y : Nat × Nat) =>
          let a := widen y.1; let b := widen y.2
          let m := b32.mul .tiesToEven a.1 b.1
          let r := b32.add .tiesToEven t.1 m.1
          (r.1, t.2 ||| m.2 ||| r.2 ||| a.2 ||| b.2)) (first.1, first.2 ||| a.2 ||| b.2)
    let r := b32.add .tiesToEven acc.1 t.1
    (r.1, acc.2 ||| t.2 ||| r.2)) acc

/-- The reserved bits and codes of an EMU_MM request. -/
def emuLegal (j : EJob) : Bool :=
  decide (j.flags < 4) && j.count == 0 && decide (fld j.desc 8 4 < 2 ^ 24) && zeroBytes j.desc 24 40

/-- EMU_MM: C := A x B, or C := C + A x B; with OUT16 the C that is read is binary16 too (log 83). It reports C's elements. -/
def runEmu (s : State) (j : EJob) : State × EAns :=
  let M := fld j.desc 0 4 + 1; let N := fld j.desc 4 4 + 1; let K := fld j.desc 8 4 + 1
  let lda := fld j.desc 12 4; let ldb := fld j.desc 16 4; let ldc := fld j.desc 20 4
  let accum := j.flags.testBit 0; let out16 := j.flags.testBit 1
  let cb := if out16 then 2 else 4
  let rows (a n ld w : Nat) (cnt : Nat) : List (Nat × Nat) := (List.range cnt).map fun i => (a + i * ld * w, n * w)
  let rdA := rows (j.addr 0) K lda 2 M
  let rdB := rows (j.addr 1) N ldb 2 K
  let wr := rows (j.addr 2) N ldc cb M
  let rdC := if accum then wr else []
  s.engineRun j (rdA ++ rdB ++ rdC) wr fun s bss =>
    let A (i k : Nat) : Nat := fld (bss.getD i []) (2 * k) 2
    let B (k n : Nat) : Nat := fld (bss.getD (M + k) []) (2 * n) 2
    let C (i n : Nat) : Nat × FpFlags :=
      if accum then
        let c := fld (bss.getD (M + K + i) []) (cb * n) cb
        if out16 then convertFormat b16 b32 .tiesToEven c else (c, 0)
      else (0, 0)
    let f := if out16 then b16 else b32
    let step (acc : State × FpFlags × Report) (i : Nat) : State × FpFlags × Report :=
      let es := (List.range N).map fun n =>
        let r := emuElement (C i n) ((List.range K).map fun k => (A i k, B k n))
        if out16 then let c := convertFormat b32 b16 .tiesToEven r.1; (c.1, r.2 ||| c.2) else r
      (acc.1.writeRange (j.addr 2 + i * ldc * cb) (es.flatMap fun e => natLe cb e.1), es.foldl (fun f e => f ||| e.2) acc.2.1,
        es.foldl (fun a e => a.add (outReport 4 (if f.isFinite e.1 then some (f.val e.1) else none) e.1 false)) acc.2.2)
    let (s, fl, rep) := (List.range M).foldl step (s, 0, Report.none)
    (s.sage j.d j.tid (some j.mbid) rep, { EAns.code rcOk with fpx := fl, work := M * N * K })

/-- The BADREQ field of an engine of Table 7.7. -/
def engBad : EngineId → Fld
  | .ats => .ENG_ERR_BADREQ 0 | .nrm => .ENG_ERR_BADREQ 1 | .emb => .ENG_ERR_BADREQ 2 | .lay => .ENG_ERR_BADREQ 3
  | .chv => .CHV_ERR_BADREQ | .upd => .UPD_ERR_BADREQ | .fnl => .FNL_ERR_BADREQ

/-- EMU_MM (R204) on one of the four vector units. -/
def execEmuMm (d : CDie) (e : EngineId) (s : State) : Out :=
  .next <| if e = .ats ∨ e = .nrm ∨ e = .emb ∨ e = .lay then
    acceptRequest d e true (fun o => o = 0x10) (engBad e) emuLegal runEmu s
  else s

/-! Completion (R178, R180, R466). -/

/-! Fallback (R122, R298). -/

/-- The fallback scale-tag entry of a row group (R122): SA.EXP lowered by 8 - t, SHIFT raised by 8 - t, or M shifted right by
the excess over 63 with round to nearest even. Answers SA, M and S. -/
def fallbackTag (sa m sh t : Nat) : Nat × Nat × Nat :=
  let k := 8 - t
  let sa' := lowBits 8 ((scaleOf sa).e - (k : Int)) * 2 ^ 24 + sa % 2 ^ 24
  if 63 < sh + k then (sa', roundMag .rne ((m : Rat) * pow2 (-((sh + k - 63 : Nat) : Int))), 63) else (sa', m, sh + k)

/-- A sprig writes the fallback entry `j` from the operator's entry `i`. -/
def State.writeFallbackTag (s : State) (d p i j t : Nat) : State :=
  let w (k : Nat) : Word := s.reg d (stagBase p i + 4 * k)
  let r := fallbackTag (w 0).toNat (w 3).toNat (bits (w 4) 31 26) t
  (List.range 8).foldl (fun s k =>
    s.setReg d (stagBase p j + 4 * k)
      (if k = 0 then BitVec.ofNat 32 r.1 else if k = 3 then BitVec.ofNat 32 r.2.1 else if k = 4 then setBits (w 4) 31 26 r.2.2
        else w k)) s

/-- The largest scale exponent step: s_f = s x 2^(t - 8), t raised until the exponent fits (R122). -/
def fallbackOf (tid row scale t : Nat) : Fallback :=
  let e := (scaleOf scale).e
  let t := if e + (t : Int) - 8 < -128 then ((-120 : Int) - e).toNat else t
  { tid := tid, row := row, t := t, scale := lowBits 8 (e + (t : Int) - 8) * 2 ^ 24 + scale % 2 ^ 24, n8 := [] }

/-- The Chervil command again for its rows of a group, with OUT_FMT Q16 and s_f, into the group's destination (Table 4.10); it no
longer waits for a tick. -/
def requestAgain (b : List Byte) (f : Fallback) (dst tick : Nat) : List Byte :=
  let opr := slice b 16 48
  let row0 := fld opr 24 4
  let first := max row0 f.row
  let last := min (row0 + fld opr 46 2 + 1) (f.row + 32)
  let w := fld opr 36 4
  let b := splice b 16 (natLe 8 (fldBits opr 0 8 51 0 + (first - row0) * fldBits opr 28 4 31 8 * 2))
  let b := splice (splice b 24 (natLe 8 (dst + (first - f.row) * fldBits opr 28 4 31 8 * 2))) 40 (natLe 4 first)
  let b := splice (splice b 48 (natLe 4 f.scale)) 52 (natLe 4 (w / 2 ^ 31 * 2 ^ 31 + 2 * 2 ^ 28 + w % 2 ^ 28))
  splice (splice (b.set 1 (b.getD 1 0 &&& 0x7F)) 14 (natLe 2 tick)) 62 (natLe 2 (last - first - 1))

/-- The sprigs whose running part holds the placer's routine for a row group take its decision (R122, R298): the fallback entry, the
requests for the Q16 rows from the sprigs that made the first ones, the M16 commands, and no N8 command of the group. -/
def State.takeFallback (s : State) (ps : List ChvSeen) (f : Fallback) : State :=
  s.runningParts.foldl (fun s v =>
    (v.routines.filter fun x => x.tid.toNat = f.tid ∧ x.row.toNat = f.row).foldl (fun s x =>
      let d' := v.die.val; let p' := s.physOf d' v.logical
      let tick (q : Nat) : Nat := max (s.getF d' (.SPRG_TICK_TICK p')) (s.que d' p' q).tickBase
      let again : List QEntry := match x.dst with
        | some a => (ps.filter fun y => y.die = d' ∧ y.p = p').map fun y =>
            { bytes := requestAgain y.bytes f a.toNat (tick y.cq), tick := tick y.cq, cmd := y.cq }
        | none => []
      let m16 : List QEntry := x.m16.map fun c =>
        let q := c.side.toNat % 16
        { bytes := splice c.bytes 14 (natLe 2 (tick q)), tick := tick q, cmd := q }
      let kept (e : QEntry) : Bool := !x.n8.contains e.bytes
      (s.writeFallbackTag d' p' x.tag x.ftag f.t).modSpr d' p' fun y =>
        let y := (List.range 16).foldl (fun y q => y.setQue q { y.que q with entries := (y.que q).entries.filter kept }) y
        { y with held := again ++ m16 ++ y.held.filter kept, fallbacks := y.fallbacks ++ [{ f with n8 := x.n8 }] }) s) s

/-- Where the rows of a part's group end: after 32, or with the tensor (R298). -/
def State.groupEnd (s : State) (x : ChvSeen) : Nat :=
  let all := match s.job.bind fun j => j.tensor x.part.tid with
    | some t => t.dims.foldl (· * ·) 1 / max 1 (fldBits x.bytes 44 4 31 8)
    | none => x.part.hi
  min (x.part.row + 32) (max x.part.hi all)

/-- The parts of one row group. -/
def ChvSeen.same (x y : ChvSeen) : Bool := x.part.tid == y.part.tid && x.part.mbid == y.part.mbid && x.part.row == y.part.row

/-- The parts of a group report: with a fallback only their outliers and OVF blocks, and the rest once, in Q16 form (R128). -/
def State.reportGroup (s : State) (ps : List ChvSeen) (falls : Bool) : State :=
  ps.foldl (fun s y =>
    let r := y.part.rep
    s.sage y.die y.part.tid (some y.part.mbid) (if falls then { Report.none with outl := r.outl, ovf := r.ovf } else r)) s

/-- The fallback decision of a group, once records of all its rows are there (R122, R298): any OVF among them, and their largest
T_NEED. -/
def State.decideGroup (s : State) (x : ChvSeen) : State :=
  let ps := s.chvSeen.filter x.same
  if !(List.range (s.groupEnd x - x.part.row)).all fun i =>
      ps.any fun y => decide (y.part.lo ≤ x.part.row + i ∧ x.part.row + i < y.part.hi) then s
  else
    let s := { s with chvSeen := s.chvSeen.filter fun y => !x.same y }
    let falls := ps.any fun y => decide (0 < y.part.rep.ovf)
    let s := s.reportGroup ps falls
    if falls then
      let f := fallbackOf x.part.tid x.part.row x.part.scale ((ps.map fun y => y.part.t).foldl max 0)
      let who := (ps.map fun y => (y.die, y.p)).eraseDups
      (who.foldl (fun s y => s.modSpr y.1 y.2 fun z => { z with fallbacks := z.fallbacks ++ [f] }) s).takeFallback ps f
    else s

/-- Groups that no further request completes report what they have (R128). -/
def State.flushGroups (s : State) : State := { s.reportGroup s.chvSeen false with chvSeen := [] }

/-- ENGINE_COMPLETION (R178): the engine finishes its oldest request of a sprig and writes the completion; the counters of
Table 15.3 advance, and fallback decisions reach the sprig (R122). -/
def execEngineCompletion (d : CDie) (e : EngineId) (s : State) : Out :=
  .next <|
    if s.frozen ∨ (s.engSpace d (engIx e)).isSome then s
    else match (s.eng d e).accepted with
    | [] => s
    | r :: rest =>
      let s := s.setEng d e { s.eng d e with accepted := rest }
      let k := match e with | .chv => 18 | .ats => 20 | .nrm => 22 | .emb => 24 | .lay => 26 | .upd => 29 | .fnl => 35
      let s := s.countF d (dieCtr k) 1 r.bytes
      let emu := (e = .ats ∨ e = .nrm ∨ e = .emb ∨ e = .lay) ∧ fld r.bytes 16 1 = 0x10
      let s := if r.work = 0 ∨ e = .fnl then s
        else s.countF d (dieCtr (if emu then 28 else k + 1)) r.work r.bytes
      let s := if e = .fnl ∧ r.status = rcPartial then s.countF d (dieCtr 36) 1 r.bytes else s
      let cq := match s.cmd d r.p r.cmd with | some c => c.q | none => 0
      let s := r.chv.foldl (fun s x =>
        let y : ChvSeen := { die := d, p := r.p, cq := cq, bytes := r.bytes, part := x }
        { s with chvSeen := s.chvSeen ++ [y] }.decideGroup y) s
      s.complete d r.p r.cmd r.status (r.producer d e) r.fpx r.detail

end Sys2Proof.Machine
end

