-- ==== Sys2Proof/Machine/Attention.lean ====
section
/-! DEFINITION. The attention-stream engine: FWD, DELTA and BWD over state records (R183-R191). -/

namespace Sys2Proof.Machine

/-! The request (R183, Table 7.3). -/
def atsKeys (j : EJob) : Nat := j.count % 1024 + 1
def atsRows (j : EJob) : Nat := j.count / 1024 + 1
def atsFirst (j : EJob) : Bool := j.flags.testBit 7
def atsLast (j : EJob) : Bool := j.flags.testBit 6
def atsQ0 (j : EJob) : Nat := fld j.opr 40 3
def atsK0 (j : EJob) : Nat := fld j.opr 43 3
def atsDv (j : EJob) : Nat := (fldBits j.desc 0 1 3 0 + 1) * 16
def atsVfmt (j : EJob) : Nat := fldBits j.desc 1 1 2 0
def atsMask (j : EJob) : Nat := fldBits j.desc 2 1 1 0
def atsSegLog (j : EJob) : Nat := fld j.desc 3 1
def atsWindow (j : EJob) : Nat := fld j.desc 4 3
def atsNseg (j : EJob) : Nat := fld j.desc 8 2 + 1
def atsOut (j : EJob) : Nat := fld j.desc 10 1
def atsPfmt (j : EJob) : Nat := fld j.desc 13 1
def atsDsfmt (j : EJob) : Nat := fld j.desc 14 1
def atsScale (j : EJob) (i : Nat) : Nat := fld j.desc (16 + 4 * i) 4
def atsPdelta (j : EJob) : Int := sx 32 (fld j.desc 36 4)
/-- Bytes of a state record. -/
def atsRec (j : EJob) : Nat := 48 + 16 * atsDv j

/-- No reserved code and no nonzero reserved bit, also in the scale words (R180, R44). A value of SEGLOG outside 10-23 is answered
the same way, though the spec states no answer for it (log 85). -/
def atsLegal (j : EJob) : Bool :=
  if j.op = 0x10 then emuLegal j
  else
    decide (1 ≤ j.op ∧ j.op ≤ 3) && decide (j.flags % 64 = 0) && fld j.opr 46 2 == 0 &&
      fldBits j.desc 0 1 7 4 == 0 && fldBits j.desc 1 1 7 3 == 0 && decide (atsVfmt j < 4) &&
      fldBits j.desc 2 1 7 2 == 0 && decide (atsMask j < 3) && decide (10 ≤ atsSegLog j ∧ atsSegLog j ≤ 23) &&
      fld j.desc 7 1 == 0 && decide (atsOut j < 4) && fldBits j.desc 11 1 7 5 == 0 && rmodeLegal (fldBits j.desc 11 1 1 0) &&
      fldBits j.desc 12 1 7 5 == 0 && srkLegal (fldBits j.desc 12 1 4 0) && decide (atsPfmt j < 3) &&
      (atsDsfmt j == 1 || atsDsfmt j == 2 || atsDsfmt j == 4) && fld j.desc 15 1 == 0 && zeroBytes j.desc 53 11 &&
      (List.range 5).all fun i => atsScale j i % 16 == 0

/-- The positions lie below 2^23, and the keys of a request lie in one segment (R183, R185); otherwise BAD_ARG. A scale word
with m below 0x8000 is used as it stands: R44 calls it malformed, and no rule of these engines says what a request with one
answers (log 85). -/
def atsArgs (j : EJob) : Bool :=
  decide (atsQ0 j + atsRows j ≤ 2 ^ 23 ∧ atsK0 j + atsKeys j ≤ 2 ^ 23) &&
    atsK0 j / 2 ^ atsSegLog j == (atsK0 j + atsKeys j - 1) / 2 ^ atsSegLog j

/-! State records (Table 7.4). -/
structure AtsRow where
  k : Int
  max : Nat
  last : Nat
  started : Bool
  poison : Bool
  done : Bool
  dsum : Nat
  delta : Nat
  d : Elem
  n : List Elem
  deriving DecidableEq, Repr

def atsEmpty (dv : Nat) : AtsRow :=
  { k := 0, max := 0, last := 0, started := false, poison := false, done := false, dsum := 0, delta := 0, d := Elem.empty,
    n := List.replicate dv Elem.empty }

def atsDecode (dv : Nat) (b : List Byte) : AtsRow :=
  let f := fld b 12 4
  { k := sx 32 (fld b 0 4), max := fld b 4 4, last := fld b 8 3, started := f.testBit 0, poison := f.testBit 1,
    done := f.testBit 2, dsum := fld b 16 4, delta := fld b 20 4, d := spillOf true (fld b 32 16),
    n := (List.range dv).map fun i => spillOf true (fld b (48 + 16 * i) 16) }

def AtsRow.bytes (r : AtsRow) : List Byte :=
  natLe 4 (lowBits 32 r.k) ++ natLe 4 r.max ++ natLe 4 r.last ++
    natLe 4 (r.started.toNat + 2 * r.poison.toNat + 4 * r.done.toNat) ++ natLe 4 r.dsum ++ natLe 4 r.delta ++ natLe 8 0 ++
    natLe 16 (r.d.spill true) ++ r.n.flatMap fun e => natLe 16 (e.spill true)

/-! Forward (R185-R189). -/

/-- An unmasked key for a query (Table 7.3, MASK). -/
def atsOpen (j : EJob) (q k : Nat) : Bool :=
  match atsMask j with
  | 0 => true
  | 1 => decide (k ≤ q)
  | _ => decide (q < k + atsWindow j ∧ k ≤ q)

/-- The rank of a key position for a query (R185). -/
def atsRank (j : EJob) (q k : Nat) : Nat :=
  let n := atsNseg j
  (q / 2 ^ atsSegLog j + n * 2 ^ 24 - k / 2 ^ atsSegLog j) % n

/-- The request comes later in the canonical order than the row's LASTPOS (R186). -/
def atsInOrder (j : EJob) (q : Nat) (r : AtsRow) : Bool :=
  let a := atsRank j q r.last; let b := atsRank j q (atsK0 j)
  !r.started || decide (a < b) || (a == b && decide (r.last < atsK0 j))

/-- An exact value merged into an entry on the 116-bit window (R100, R107). -/
def mergeOne (e : Elem) (x : Rat) : Elem :=
  if x = 0 then e
  else
    let g := ilog2 (ratAbs x)
    let y := x * pow2 (88 - g)
    let t : Int := if y < 0 then -((ratAbs y).floor) else y.floor
    (mergeGroup 116 e (some g) t (decide ((t : Rat) ≠ y)).toNat).elem

/-- An entry's exact rescale by 2^-n (R188). -/
def rescaleEntry (n : Int) (e : Elem) : Elem :=
  if e.anchor - n < -512 then { Elem.empty with sticky := true } else { e with anchor := e.anchor - n }

/-- One unmasked key enters a row (R188): its score (binary32) and its values. -/
def atsKey (r : AtsRow) (k s : Nat) (vs : List (Option Rat)) : AtsRow :=
  if !b32.isFinite s ∨ vs.any Option.isNone then { r with poison := true, last := k }
  else
    let sv := b32.val s
    let r := if !r.started ∨ b32.val r.max < sv then { r with max := s } else r
    let kn := (b32.val r.max * log2e).ceil
    let r := if !r.started then { r with k := kn } else r
    let r := if r.k < kn then
        { r with d := rescaleEntry (kn - r.k) r.d, n := r.n.map (rescaleEntry (kn - r.k)), k := kn }
      else r
    let wq := (expw sv r.k).2
    { r with d := mergeOne r.d wq, n := List.zipWith (fun e v => mergeOne e (wq * v.getD 0)) r.n vs, started := true, last := k }

/-- An entry's exact value relative to 2^K. -/
def entryVal (e : Elem) : Rat := (e.w : Rat) * pow2 (e.anchor - 88)

/-- The finalisation of a row (R189): DSUM, DONE, the outputs, and the flags that rounding them raised. -/
def atsFinal (j : EJob) (r : AtsRow) (q : Nat) : AtsRow × List Stored × FpFlags :=
  let fmt := atsOut j
  let key := j.key (fld j.desc 40 3) (fldBits j.desc 11 1 4 2) (fldBits j.desc 11 1 1 0) (fldBits j.desc 12 1 4 0)
  let d := entryVal r.d
  let sv : Rat := if atsVfmt j < 2 then (scaleOf (atsScale j 0)).val else 1
  let outs := r.n.mapIdx fun i e =>
    if r.poison then Stored.poison fmt
    else
      let x : Rat := if d = 0 then 0 else entryVal e / d * sv
      storeVal fmt (atsScale j 1) (key.rnd ((fld j.desc 43 5 + q * fld j.desc 48 5 + i) % 2 ^ 40)) x
  let ds := b32.round .tiesToEven d
  ({ r with done := true, dsum := ds.1 }, outs, ds.2 ||| flagsAll outs)

/-- FWD (R188): the keys of the request in increasing position; a row out of order is left unchanged. -/
def runFwd (s : State) (j : EJob) : State × EAns :=
  if !atsArgs j then (s, EAns.code rcBadArg)
  else
    let nk := atsKeys j; let nr := atsRows j; let dv := atsDv j; let vb := fmtBytes (atsVfmt j); let rs := atsRec j
    let ob := fmtBytes (atsOut j)
    let st := (j.addr 2, nr * rs)
    let wr := st :: (if atsLast j then [(j.addr 3, nr * dv * ob)] else [])
    let rd := [(j.addr 0, nr * nk * 4), (j.addr 1, nk * dv * vb)] ++ (if atsFirst j then [] else [st])
    s.engineRun j rd wr fun s bss =>
      let sc := bss.getD 0 []; let vals := bss.getD 1 []; let recs := bss.getD 2 []
      let value (k : Nat) : List (Option Rat) :=
        (List.range dv).map fun i =>
          let v := fld vals ((k * dv + i) * vb) vb
          if atsVfmt j < 2 then some ((sx (8 * vb) v : Int) : Rat) else elemVal (atsVfmt j) 0 v
      let one (acc : State × Report × (Nat × Nat × Nat) × FpFlags × Option Nat) (r : Nat) :=
        let (s, rep, (pairs, empty, pois), f, bad) := acc
        let q := atsQ0 j + r
        let row := if atsFirst j then atsEmpty dv else atsDecode dv (recs.drop (r * rs))
        if !atsInOrder j q row then (s, rep, (pairs, empty, pois), f, bad.or (some r))
        else
          let ks := (List.range nk).filter fun i => atsOpen j q (atsK0 j + i)
          let row := ks.foldl (fun row i => atsKey row (atsK0 j + i) (fld sc ((r * nk + i) * 4) 4) (value i)) row
          let row := { row with last := atsK0 j + nk - 1 }
          let (row, outs, fl) := if atsLast j then atsFinal j row q else (row, [], 0)
          let s := s.writeRange (j.addr 2 + r * rs) row.bytes
          let s := s.writeRange (j.addr 3 + r * dv * ob) (outs.flatMap fun o => natLe ob o.code)
          (s, rep.add (reportAll (atsOut j) outs), (pairs + ks.length, empty + (atsLast j && !row.started && !row.poison).toNat,
            pois + row.poison.toNat), f ||| fl, bad)
      let (s, rep, (pairs, empty, pois), f, bad) := (List.range nr).foldl one (s, Report.none, (0, 0, 0), 0, none)
      let s := if atsLast j then s.sage j.d (fld j.desc 40 3) (some j.mbid) rep else s
      let s := if bad.isSome then s.setF j.d (.ENG_ERR_ORDER 0) 1 else s
      (s, { EAns.code (if bad.isSome then rcFault else rcOk) with
        fpx := f, detail := [pairs, empty + pois * 65536, bad.getD 0xFFFFFFFF], work := pairs })

/-! DELTA and BWD (R190, R191). -/

/-- DELTA: the binary32 dot product of dO and O in the canonical order, into each state; with FIRST the states start empty. dO is read
in OUT_FMT, as O is: Table 7.3 gives it a scale and no format (DESIGN CHOICE, log 114). -/
def runDelta (s : State) (j : EJob) : State × EAns :=
  if !atsArgs j then (s, EAns.code rcBadArg)
  else
    let nr := atsRows j; let dv := atsDv j; let ob := fmtBytes (atsOut j); let rs := atsRec j
    let st := (j.addr 2, nr * rs)
    s.engineRun j ([(j.addr 0, nr * dv * ob), (j.addr 1, nr * dv * ob)] ++ (if atsFirst j then [] else [st])) [st] fun s bss =>
      let el (i sc r c : Nat) : Nat × FpFlags × Bool := elemB32 (atsOut j) (atsScale j sc) (fld (bss.getD i []) ((r * dv + c) * ob) ob)
      let one (acc : State × FpFlags × Nat × Nat) (r : Nat) : State × FpFlags × Nat × Nat :=
        let ps := (List.range dv).map fun c =>
          let a := el 0 2 r c; let b := el 1 1 r c
          let m := b32.mul .tiesToEven a.1 b.1
          (m.1, a.2.1 ||| b.2.1 ||| m.2, a.2.2.toNat + b.2.2.toNat)
        let t := canonSumF (ps.map (·.1))
        let row := if atsFirst j then atsEmpty dv else atsDecode dv ((bss.getD 2 []).drop (r * rs))
        let s := if atsFirst j then acc.1.writeRange (j.addr 2 + r * rs) { row with delta := t.1 }.bytes
          else acc.1.writeRange (j.addr 2 + r * rs + 20) (natLe 4 t.1)
        (s, ps.foldl (fun f p => f ||| p.2.1) (acc.2.1 ||| t.2), acc.2.2.1 + row.poison.toNat,
          acc.2.2.2 + (ps.map fun p => p.2.2).sum)
      let (s, f, pois, clips) := (List.range nr).foldl one (s, 0, 0, 0)
      (if clips = 0 then s else s.sage j.d j.tid (some j.mbid) (clipReport clips),
        { EAns.code rcOk with fpx := f, detail := [0, pois * 65536, 0xFFFFFFFF] })

/-- The address of P: dS + PDELTA. -/
def atsPAddr (j : EJob) : Nat := lowBits 52 ((j.addr 3 : Int) + atsPdelta j)

/-- P's elements are reported under the descriptor's TID, where it names a tensor of the graph (log 86). -/
def State.sageP (s : State) (j : EJob) (rep : Report) : State :=
  match s.job with
  | some b => if (b.tensor (fld j.desc 40 3)).isSome then s.sage j.d (fld j.desc 40 3) (some j.mbid) rep else s
  | none => s

/-- BWD: dS and P of every key of each row that has DONE set; with FIRST the states are written empty (R184), so none has. The weight of
a score that is NaN or infinite is a free value (log 19). -/
def runBwd (s : State) (j : EJob) : State × EAns :=
  if !atsArgs j then (s, EAns.code rcBadArg)
  else
    let nk := atsKeys j; let nr := atsRows j; let dv := atsDv j; let rs := atsRec j
    let pb := fmtBytes (atsPfmt j); let sb := fmtBytes (atsDsfmt j)
    let n := nr * nk
    s.engineRun j ([(j.addr 0, 4 * n), (j.addr 1, 4 * n)] ++ (if atsFirst j then [] else [(j.addr 2, nr * rs)]))
      ([(j.addr 3, n * sb), (atsPAddr j, n * pb)] ++ (if atsFirst j then [(j.addr 2, nr * rs)] else [])) fun s bss =>
      let s := if atsFirst j then s.writeRange (j.addr 2) ((List.range nr).flatMap fun _ => (atsEmpty dv).bytes) else s
      let el (i x : Nat) : Nat := fld (bss.getD i []) (4 * x) 4
      let one (acc : State × (Report × Report) × Nat × Nat × FpFlags × Bool) (r : Nat) :=
        let (s, (rep, prep), pairs, pois, f, bad) := acc
        let q := atsQ0 j + r
        let row := if atsFirst j then atsEmpty dv else atsDecode dv ((bss.getD 2 []).drop (r * rs))
        if !row.done then (s, (rep, prep), pairs, pois + row.poison.toNat, f, true)
        else
          let cell (i : Nat) : Stored × Stored × FpFlags :=
            if row.poison then (Stored.poison (atsDsfmt j), Stored.poison (atsPfmt j), 0)
            else if !atsOpen j q (atsK0 j + i) then (Stored.zero, Stored.zero, 0)
            else
              let sc := el 0 (r * nk + i)
              let w := if b32.isFinite sc then toB32 (expw (b32.val sc) row.k).1
                else (Config.expwNonFinite (BitVec.ofNat 32 sc) (BitVec.ofInt 32 row.k)).toNat
              let p := b32.div .tiesToEven w row.dsum
              let t := b32.sub .tiesToEven (el 1 (r * nk + i)) row.delta
              let ds := b32.mul .tiesToEven p.1 t.1
              (storeB32 (atsDsfmt j) (atsScale j 4) .rne ds.1, storeB32 (atsPfmt j) (atsScale j 3) .rne p.1,
                p.2 ||| t.2 ||| ds.2)
          let cs := (List.range nk).map cell
          let s := s.writeRange (j.addr 3 + r * nk * sb) (cs.flatMap fun c => natLe sb c.1.code)
          let s := s.writeRange (atsPAddr j + r * nk * pb) (cs.flatMap fun c => natLe pb c.2.1.code)
          (s, (rep.add (reportAll (atsDsfmt j) (cs.map (·.1))), prep.add (reportAll (atsPfmt j) (cs.map fun c => c.2.1))),
            pairs + ((List.range nk).filter fun i => atsOpen j q (atsK0 j + i)).length, pois + row.poison.toNat,
            cs.foldl (fun f c => f ||| c.1.fl ||| c.2.1.fl ||| c.2.2) f, bad)
      let (s, (rep, prep), pairs, pois, f, bad) := (List.range nr).foldl one (s, (Report.none, Report.none), 0, 0, 0, false)
      let s := s.sage j.d j.tid (some j.mbid) rep
      let s := s.sageP j prep
      let s := if bad then s.setF j.d (.ENG_ERR_ORDER 0) 1 else s
      (s, { EAns.code (if bad then rcFault else rcOk) with
        fpx := f, detail := [pairs, pois * 65536, 0xFFFFFFFF], work := pairs })

/-- FWD (R188); the row also refuses a reserved OP (R180). -/
def execFwd (d : CDie) (s : State) : Out :=
  .next <| acceptRequest d .ats true (fun o => o ≠ 2 ∧ o ≠ 3 ∧ o ≠ 0x10) (engBad .ats) atsLegal runFwd s

/-- DELTA (R190). -/
def execDelta (d : CDie) (s : State) : Out := .next <| acceptRequest d .ats true (fun o => o = 2) (engBad .ats) atsLegal runDelta s

/-- BWD (R191). -/
def execBwd (d : CDie) (s : State) : Out := .next <| acceptRequest d .ats true (fun o => o = 3) (engBad .ats) atsLegal runBwd s

end Sys2Proof.Machine
end

