-- ==== Sys2Proof/Machine/Chervil.lean ====
section
/-! DEFINITION. Chervil: the randomised Hadamard rotation, outlier records and the fallback decision (R113-R122, R465). -/

namespace Sys2Proof.Machine

/-! The rotation (R113, R115). -/

/-- Stages of butterflies on blocks of 2^k: pairs at distance 1, 2, 4 ... -/
def hadamard : Nat → List Rat → List Rat
  | 0, x => x
  | k + 1, x =>
    let h := 2 ^ k
    let a := hadamard k (x.take h)
    let b := hadamard k (x.drop h)
    List.zipWith (· + ·) a b ++ List.zipWith (· - ·) a b

/-- D: the seeded signs of a block whose first element is element `i0` of the rotated dimension (R114). -/
def applySigns (seed : BitVec 64) (rotId i0 : Nat) (x : List Rat) : List Rat :=
  x.mapIdx fun i v => if rotNegative seed rotId (i0 + i) then -v else v

/-- y = 2^(-h) H D x, or its inverse 2^(-h) D H y. -/
def rotate (seed : BitVec 64) (rotId h i0 : Nat) (inv : Bool) (x : List Rat) : List Rat :=
  let s (x : List Rat) : List Rat := x.map fun v => v * pow2 (-(h : Int))
  if inv then applySigns seed rotId i0 (s (hadamard (2 * h) x)) else s (hadamard (2 * h) (applySigns seed rotId i0 x))

/-! The request (Table 4.10). -/
def chvDim (j : EJob) : Nat := fldBits j.opr 28 4 31 8
def chvRows (j : EJob) : Nat := fld j.opr 46 2 + 1
def chvScale (j : EJob) : Nat := fld j.opr 32 4
def chvOut (j : EJob) : Nat := fldBits j.opr 36 4 30 28
def chvBlock (j : EJob) : Nat := fldBits j.opr 36 4 27 26
def chvIn16 (j : EJob) : Bool := fldBits j.opr 36 4 31 31 = 1
def chvInv (j : EJob) : Bool := fldBits j.opr 36 4 15 15 = 1
def chvH (j : EJob) : Nat := 4 + chvBlock j
def chvElemBytes (j : EJob) : Nat := if chvOut j ≤ 1 then 1 else 2

/-- No reserved code, no nonzero reserved bit, a nonzero DIM and, where it is used with ZERO clear, a scale word that is not
malformed (R465). -/
def chvLegal (j : EJob) : Bool :=
  (List.range 3).all (fun i => fldBits j.opr (8 * i) 8 63 52 == 0) && fldBits j.opr 28 4 7 0 == 0 && chvDim j != 0 &&
    fldBits j.opr 36 4 14 0 == 0 && decide (chvOut j ≤ 3) && decide (chvBlock j ≤ 2) &&
    rmodeLegal (fldBits j.opr 36 4 25 24) && srkLegal (fldBits j.opr 36 4 23 19) &&
    (chvOut j == 3 || (scaleOf (chvScale j)).zero || !scaleMalformed (chvScale j))

/-- An outlier block of a row (R119, R120): its record and the codes of its elements. -/
structure OutlBlock where
  codes : List Nat
  record : List Byte
  count : Nat
  ovf : Bool
  clips : Nat
  deriving DecidableEq, Repr

/-- The exact value x / s of each element; none for POISON. -/
abbrev Row := List (Option Rat)

/-- T_NEED of a row (R120). -/
def tNeed (s : Rat) (row : Row) : Nat :=
  ((List.range 9).find? fun (t : Nat) => row.all fun x => match x with
    | none => true
    | some v => decide (ratAbs v / s ≤ 32767 * pow2 ((t : Int) - 8))).getD 8

/-- One outlier block: codes and record (R119, R120). `key i` rounds the element at offset i. -/
def outlBlock (sc : Scale) (t : Nat) (key : Nat → Rnd) (xs : Row) : OutlBlock :=
  let s := sc.val
  let isOut (v : Rat) : Bool := !sc.zero && decide (127 < ratAbs v / s)
  let els := xs.mapIdx fun i x => (i, x)
  let codes := els.map fun e => match e.2 with
    | none => 0
    | some v =>
      if sc.zero then 0
      else if isOut v then lowBits 8 (if v < 0 then -127 else 127)
      else lowBits 8 (satQ 8 (roundInt (key e.1) (v / s))).1
  let outs := els.filterMap fun e => match e.2 with
    | some v => if isOut v then some (e.1, v) else none
    | none => none
  let resid (e : Nat × Rat) : Nat × Bool := toL16 .rne (e.2 / s - (if e.2 < 0 then -127 else 127))
  let entry (e : Nat × Rat) : List Byte := natLe 4 ((resid e).1 * 65536 + e.1 % 4096)
  let ovf := decide (64 < outs.length)
  let t := if sc.zero then 0 else t
  let head := natLe 4 (min outs.length 64 + ovf.toNat * 256 + t * 4096)
  let body := (outs.take 64).flatMap entry
  { codes := codes, record := slice (head ++ List.replicate 12 0 ++ body) 0 272, count := outs.length, ovf := ovf,
    clips := if sc.zero then (els.filter fun e => match e.2 with | some v => v ≠ 0 | none => false).length
      else ((outs.take 64).filter fun e => (resid e).2).length }

/-- What one row of a request wrote: its number, its T_NEED and its report. -/
structure ChvRow where
  row : Nat
  t : Nat
  rep : Report
  deriving DecidableEq, Repr

/-- What a request made of the row groups that its rows belong to (R122, R298). -/
def chvParts (tid mbid scale : Nat) (rs : List ChvRow) : List ChvPart :=
  ((rs.map fun r => r.row / 32).eraseDups).map fun g =>
    let own := rs.filter fun r => r.row / 32 = g
    { tid := tid, mbid := mbid, row := 32 * g, lo := (own.map (·.row)).headD 0, hi := (own.map (·.row)).getLastD 0 + 1,
      t := (own.map (·.t)).foldl max 0, scale := scale, rep := own.foldl (fun a r => a.add r.rep) Report.none }

/-- A Chervil request runs (R113-R120, R465). With the outlier path it reports once the sprigs have decided the fallback of its row groups
(R122, R128). -/
def runChervil (s : State) (j : EJob) : State × EAns :=
  let dim := chvDim j; let rows := chvRows j; let n := 2 ^ (2 * chvH j)
  if dim % n ≠ 0 then (s.setF j.d .CHV_ERR_BLOCK 1, EAns.code rcBadArg)
  else
    let src := fldBits j.opr 0 8 51 0; let dst := fldBits j.opr 8 8 51 0; let outl := fldBits j.opr 16 8 51 0
    let out := chvOut j; let eb := chvElemBytes j
    let nb := cdiv dim 4096
    let row0 := fld j.opr 24 4
    let tid := fld j.opr 43 3
    let key := j.key tid (fldBits j.opr 36 4 18 16) (fldBits j.opr 36 4 25 24) (fldBits j.opr 36 4 23 19)
    let seed := s.reg j.d Reg.CHV_SEED_HI ++ s.reg j.d Reg.CHV_SEED_LO
    let sc := scaleOf (chvScale j)
    let wr := (dst, rows * dim * eb) :: (if out = 0 then [(outl, rows * nb * 272)] else [])
    s.engineRun j [(src, rows * dim * 2)] wr fun s bss =>
      let raw := bss.getD 0 []
      let elemAt (i : Nat) : Option Rat := elemVal (if chvIn16 j then 3 else 2) 0 (fld raw (2 * i) 2)
      let rowY (r : Nat) : Row := (List.range (dim / n)).flatMap fun b =>
        let xs := (List.range n).map fun i => elemAt (r * dim + b * n + i)
        if xs.all Option.isSome then
          (rotate seed (fld j.opr 40 3) (chvH j) (b * n) (chvInv j) (xs.map fun x => x.getD 0)).map some
        else List.replicate n none
      let rnd (r i : Nat) : Rnd := key.rnd (((row0 + r) * dim + i) % 2 ^ 40)
      let one (acc : State × List ChvRow) (r : Nat) : State × List ChvRow :=
        let (s, out_) := acc
        let ys := rowY r
        if out = 0 then
          let t := if sc.zero then 0 else tNeed sc.val ys
          let blocks := (List.range nb).map fun b => outlBlock sc t (fun i => rnd r (4096 * b + i)) ((ys.drop (4096 * b)).take 4096)
          let codes := blocks.flatMap fun b => b.codes
          let s := s.writeRange (dst + r * dim) (codes.map (BitVec.ofNat 8))
          let s := s.writeRange (outl + r * nb * 272) (blocks.flatMap fun b => b.record)
          let base := (List.zip ys codes).foldl (fun (a : Report) y => a.add (outReport 0 y.1 y.2 false)) Report.none
          let rep := { base with clips := (blocks.map (·.clips)).sum, outl := (blocks.map (·.count)).sum,
                                 ovf := (blocks.filter (·.ovf)).length }
          (s, out_ ++ [{ row := row0 + r, t := t, rep := rep }])
        else
          let fmt := if out = 1 then 0 else if out = 2 then 1 else 2
          let cs := ys.mapIdx fun i y => match y with
            | none => Stored.poison fmt
            | some v => storeVal fmt (chvScale j) (rnd r i) v
          let s := s.writeRange (dst + r * dim * eb) (cs.flatMap fun c => natLe eb c.code)
          (s, out_ ++ [{ row := row0 + r, t := 0, rep := reportAll fmt cs }])
      let (s, rs) := (List.range rows).foldl one (s, [])
      if out = 0 then (s, { EAns.code rcOk with work := rows * dim, chv := chvParts tid j.mbid (chvScale j) rs })
      else (s.sage j.d tid (some j.mbid) (rs.foldl (fun a r => a.add r.rep) Report.none), { EAns.code rcOk with work := rows * dim })

/-- CHERVIL_REQUEST (R113, R117): Chervil takes the next request and rotates its blocks. -/
def execChervilRequest (d : CDie) (s : State) : Out :=
  .next <| acceptRequest d .chv false (fun _ => true) .CHV_ERR_BADREQ chvLegal runChervil s

end Sys2Proof.Machine
end

