-- ==== Sys2Proof/Machine/Crypto.lean ====
section
/-! DEFINITION. ECDSA on curve P-384 with SHA-384 (R429; FIPS 186-5 and FIPS 180-4), as the security block checks an
authorization response. -/

namespace Sys2Proof.Machine

abbrev W64 := BitVec 64

/-- The first 64 bits of the fractional parts of the cube roots of the first eighty primes (FIPS 180-4). -/
def icbrt (n : Nat) : Nat → Nat → Nat
  | 0, r => r
  | k + 1, r =>
    let c := r + 2 ^ k
    icbrt n k (if c * c * c ≤ n then c else r)

def isqrtBits (n : Nat) : Nat → Nat → Nat
  | 0, r => r
  | k + 1, r =>
    let c := r + 2 ^ k
    isqrtBits n k (if c * c ≤ n then c else r)

def primes80 : List Nat :=
  [2, 3, 5, 7, 11, 13, 17, 19, 23, 29, 31, 37, 41, 43, 47, 53, 59, 61, 67, 71, 73, 79, 83, 89, 97, 101, 103, 107, 109,
   113, 127, 131, 137, 139, 149, 151, 157, 163, 167, 173] ++
  [179, 181, 191, 193, 197, 199, 211, 223, 227, 229, 233, 239, 241, 251, 257, 263, 269, 271, 277, 281, 283, 293, 307,
   311, 313, 317, 331, 337, 347, 349, 353, 359, 367, 373, 379, 383, 389, 397, 401, 409]

def shaK : List W64 := primes80.map fun p => BitVec.ofNat 64 (icbrt (p * 2 ^ 192) 68 0)

/-- The initial hash value of SHA-384: the square roots of the ninth to sixteenth primes. -/
def shaInit : List W64 := ((primes80.drop 8).take 8).map fun p => BitVec.ofNat 64 (isqrtBits (p * 2 ^ 128) 68 0)

/-- The message schedule, extended word by word; `w` holds the last sixteen words, oldest first. -/
def shaSchedule : Nat → List W64 → List W64
  | 0, _ => []
  | n + 1, w =>
    let g := fun i => w.getD i 0
    let s0 := fun (x : W64) => (x.rotateRight 1) ^^^ (x.rotateRight 8) ^^^ (x >>> 7)
    let s1 := fun (x : W64) => (x.rotateRight 19) ^^^ (x.rotateRight 61) ^^^ (x >>> 6)
    let next := s1 (g 14) + g 9 + s0 (g 1) + g 0
    g 0 :: shaSchedule n (w.drop 1 ++ [next])

/-- One round of SHA-512 compression. -/
def shaRound (v : List W64) (kw : W64 × W64) : List W64 :=
  match v with
  | [a, b, c, d, e, f, g, h] =>
    let S1 := (e.rotateRight 14) ^^^ (e.rotateRight 18) ^^^ (e.rotateRight 41)
    let ch := (e &&& f) ^^^ (~~~ e &&& g)
    let t1 := h + S1 + ch + kw.1 + kw.2
    let S0 := (a.rotateRight 28) ^^^ (a.rotateRight 34) ^^^ (a.rotateRight 39)
    let maj := (a &&& b) ^^^ (a &&& c) ^^^ (b &&& c)
    [t1 + S0 + maj, a, b, c, d + t1, e, f, g]
  | _ => v

def shaBlock (h : List W64) (block : List Byte) : List W64 :=
  let w := (chunks 8 16 block).map fun c => BitVec.ofNat 64 (beNat c)
  List.zipWith (· + ·) h ((shaK.zip (shaSchedule 80 w)).foldl shaRound h)

/-- SHA-384 of a byte list. -/
def sha384 (msg : List Byte) : List Byte :=
  let n := msg.length
  let pad := (128 - (n + 17) % 128) % 128
  let m := msg ++ [0x80#8] ++ List.replicate pad 0#8 ++ natBe 16 (8 * n)
  let h := (chunks 128 (m.length / 128) m).foldl shaBlock shaInit
  (h.take 6).flatMap fun x => natBe 8 x.toNat

/-- The prime, the coefficient b, the group order and the base point of P-384. -/
def p384p : Nat := 2 ^ 384 - 2 ^ 128 - 2 ^ 96 + 2 ^ 32 - 1
def p384b : Nat :=
  0xB3312FA7E23EE7E4988E056BE3F82D19181D9C6EFE8141120314088F5013875AC656398D8A2ED19D2A85C8EDD3EC2AEF
def p384n : Nat :=
  0xFFFFFFFFFFFFFFFFFFFFFFFFFFFFFFFFFFFFFFFFFFFFFFFFC7634D81F4372DDF581A0DB248B0A77AECEC196ACCC52973
def p384gx : Nat :=
  0xAA87CA22BE8B05378EB1C71EF320AD746E1D3B628BA79B9859F741E082542A385502F25DBF55296C3A545E3872760AB7
def p384gy : Nat :=
  0x3617DE4A96262C6F5D9E98BF9292DC29F8F41DBD289A147CE9DA3113B5F0B8C00A60B1CE1D7E819D7A431D7C90EA0E5F

/-- x^e mod m by the low `k` bits of the exponent. -/
def powMod (m : Nat) : Nat → Nat → Nat → Nat
  | 0, _, _ => 1 % m
  | k + 1, x, e =>
    let r := powMod m k (x * x % m) (e / 2)
    if e % 2 = 1 then r * x % m else r

/-- The inverse modulo a prime below 2^384. -/
def invMod (m x : Nat) : Nat := powMod m 384 x (m - 2)

/-- Points of the curve; none is the point at infinity. -/
abbrev EcPoint := Option (Nat × Nat)

def ecAdd (a b : EcPoint) : EcPoint :=
  match a, b with
  | none, _ => b
  | _, none => a
  | some (x1, y1), some (x2, y2) =>
    if x1 = x2 ∧ (y1 + y2) % p384p = 0 then none
    else
      let l := if x1 = x2 then (3 * x1 * x1 + p384p - 3) * invMod p384p (2 * y1 % p384p) % p384p
        else (y2 + p384p - y1) * invMod p384p ((x2 + p384p - x1) % p384p) % p384p
      let x3 := (l * l + 2 * p384p - x1 - x2) % p384p
      some (x3, (l * (x1 + p384p - x3) + p384p - y1) % p384p)

/-- Scalar multiplication by the low `k` bits. -/
def ecMul : Nat → Nat → EcPoint → EcPoint
  | 0, _, _ => none
  | k + 1, e, pt =>
    let r := ecMul k (e / 2) (ecAdd pt pt)
    if e % 2 = 1 then ecAdd r pt else r

def ecOnCurve (x y : Nat) : Bool :=
  x < p384p ∧ y < p384p ∧ (y * y) % p384p = (x * x * x + (p384p - 3) * x + p384b) % p384p

/-- ECDSA verification of a message under a public key (R429). -/
def ecdsaValid (key : Nat × Nat) (msg : List Byte) (r s : Nat) : Bool :=
  if ¬ ecOnCurve key.1 key.2 ∨ r = 0 ∨ s = 0 ∨ p384n ≤ r ∨ p384n ≤ s then false
  else
    let z := beNat (sha384 msg)
    let w := invMod p384n s
    match ecAdd (ecMul 384 (z * w % p384n) (some (p384gx, p384gy))) (ecMul 384 (r * w % p384n) (some key)) with
    | none => false
    | some (x, _) => x % p384n = r

end Sys2Proof.Machine
end

