-- ==== Sys2Proof/Machine/RecoverOps.lean ====
section
/-! DEFINITION. What recovery and the governor share: long commands that finish, aborts, module coordinates, rule sets and
freeze tables and their commit (R141, R229, R272, R349, R381). -/

namespace Sys2Proof.Machine

def State.setEdge (s : State) (f : Edge → Edge) : State := { s with edge := f s.edge }

/-! Long commands (R349, R350). -/

/-- A long command's final code and response words are known. -/
def State.finishLong (s : State) (tag code : Nat) (ws : List Word) : State :=
  let set (c : LongCmd) : LongCmd := if c.tag = tag ∧ c.result.isNone then { c with result := some (code, ws) } else c
  { s with longs := s.longs.map set }

/-- Every outstanding command of the opcodes finishes alike. -/
def State.finishOps (s : State) (ops : List Nat) (code : Nat) (ws : List Word) : State :=
  (s.longs.filter fun c => ops.contains c.opcode ∧ c.result.isNone).foldl (fun s c => s.finishLong c.tag code ws) s

/-! The abort of a step (R381). -/

/-- The modules whose CRC-32 differs from the root's (R383); none where the root's is not known here. -/
def Job.differing (j : Job) (crc : Word) (peers : List (Nat × Word)) : List Nat :=
  let all := (j.modIx, crc) :: peers
  match all.lookup j.root with
  | some r => (all.filter fun x => x.2 ≠ r).map (·.1)
  | none => []

/-- A DATA_CORRUPT fault (Table 13.1): the step is aborted. At a second one on one step the root sends its CRC-32 of the failing plan or
record, and the modules that differ from it are lost at the abort (R383). `crc`, `peers`: this module's CRC-32 and those that have come. -/
def State.dataCorrupt (s : State) (crc : Word) (peers : List (Nat × Word)) : State :=
  let s := s.ownFault 0x28 18 0 0 0 0 1
  let s := match s.job with
    | none => s
    | some j =>
      let again := decide (1 ≤ j.corrupt)
      let frame := if again ∧ j.root = j.modIx then [Sent.corrupt crc] else []
      let suspects := if again then j.differing crc peers else []
      { s with job := some { j with corrupt := j.corrupt + 1 }, outbox := s.outbox ++ frame,
               edge := { s.edge with suspects := suspects } }
  s.requestAbort

/-! Modules (R272). -/

/-- The coordinates (dp, pp, tp, cp) of a module index. -/
def Job.coords (j : Job) (m : Nat) : Nat × Nat × Nat × Nat :=
  (m / (j.cut.cp * j.cut.tp * j.cut.pp), m / (j.cut.cp * j.cut.tp) % j.cut.pp, m / j.cut.cp % j.cut.tp, m % j.cut.cp)

def Job.moduleAt (j : Job) (dp pp tp cp : Nat) : Nat := ((dp * j.cut.pp + pp) * j.cut.tp + tp) * j.cut.cp + cp

/-! Cross-module protection (R330-R332, R386, R387). -/

/-- No other member holds the same shards: none has the module's pipeline and tensor coordinates (R330). -/
def Job.lone (j : Job) (m : Nat) : Bool :=
  let c := j.coords m
  !(j.members.any fun x => x != m && (j.coords x).2.1 == c.2.1 && (j.coords x).2.2.1 == c.2.2.1)

/-- A module's stages hold a tensor's layer (R272). -/
def Job.holds (j : Job) (m : Nat) (t : TensorRec) : Bool := j.stageOf t.layer % j.cut.pp == (j.coords m).2.1

/-- The module has PERSIST shards without a replica across dp or cp: its group parity set is not empty (R330). -/
def Job.paritySet (j : Job) (m : Nat) : Bool := j.lone m && j.graph.tensors.any fun t => t.persist && j.holds m t

/-- Parity groups of 9 in order: a remainder of 2-8 is a group of its own, a remainder of one joins the last full group (R330). One
module alone forms none. -/
def groupsOfNine (ms : List Nat) : List (List Nat) :=
  let k := ms.length / 9
  let full := (List.range k).map fun i => (ms.drop (9 * i)).take 9
  let rest := ms.drop (9 * k)
  if rest.length = 0 then full
  else if rest.length = 1 then full.mapIdx fun i g => if i + 1 = k then g ++ rest else g
  else full ++ [rest]

/-- The group plan's parity groups, over the members in increasing module index (R330). -/
def Job.formGroups (j : Job) : Job := { j with groups := groupsOfNine (j.members.filter j.paritySet) }

def Job.groupOf (j : Job) (m : Nat) : Option (List Nat) := j.groups.find? fun g => g.contains m

/-- The member that holds a row's parity unit: member r mod n (R330). -/
def parityMember (g : List Nat) (r : Nat) : Nat := g.getD (r % g.length) 0

/-- The row of a member's k-th data unit in a group of n, of which it is member p: the rows whose parity it holds have none (R330). -/
def dataRow (n p k : Nat) : Nat :=
  let i := k % (n - 1)
  k / (n - 1) * n + (if i < p then i else i + 1)

/-- Where a tensor's shard begins in a member's data units: behind its PERSIST tensors of smaller ID, each laid out by logical element
index (DESIGN CHOICE, log 117). -/
def Job.groupBase (j : Job) (m tid : Nat) : Nat :=
  (((j.graph.tensors.filter fun t => t.persist && j.holds m t && decide (t.tid < tid)).map fun t =>
    t.dims.foldl (· * ·) 1 * j.storedBytes t.tid).foldl (· + ·) 0)

/-- Where the group parity keeps a source's part of a byte of the group's rows. -/
def parityKey (src off : Nat) : Nat := src * 2 ^ 48 + off

/-- The reduction ID under which whole data units travel when the groups form (R330), and those that a lost member's rebuild needs (R332;
log 117). -/
def formRid : Nat := 0x0FFFFFFD
def unitRid : Nat := 0x0FFFFFFC

/-- A byte of the group parity that this module holds: the XOR of what its group's members sent, whole when the groups formed, with
every delta that has committed since (R330, R331; log 117). -/
def State.groupByte (s : State) (j : Job) (off : Nat) : Byte :=
  (((j.groupOf j.modIx).getD []).map fun m => Store.get 0 s.edge.fnl.parity (parityKey m off)).foldl (· ^^^ ·) 0

/-- Bytes of a source enter the group parity: in place of its former ones, or XORed with them. -/
def State.putParity (s : State) (src off : Nat) (bs : List Byte) (delta : Bool) : State :=
  let put (p : Store Byte) (i : Nat) : Store Byte :=
    let k := parityKey src (off + i)
    Store.set 0 p k (if delta then Store.get 0 p k ^^^ bs.getD i 0 else bs.getD i 0)
  { s with edge := { s.edge with fnl := { s.edge.fnl with parity := (List.range bs.length).foldl put s.edge.fnl.parity } } }

/-- The parts of a range of a member's data by data unit of 4 KiB, each with the parity member of its row and its place in the
group's rows (R330, R331). -/
def deltaParts (g : List Nat) (m off : Nat) (bs : List Byte) : List (Nat × Nat × List Byte) :=
  let first := off / 4096
  let n := cdiv (off % 4096 + bs.length) 4096
  (List.range n).map fun i =>
    let k := first + i
    let lo := max off (4096 * k)
    let hi := min (off + bs.length) (4096 * (k + 1))
    let r := dataRow g.length (g.idxOf m) k
    (parityMember g r, 4096 * r + (lo - 4096 * k), slice bs (lo - off) (hi - lo))

/-- A source's staged deltas over a row. -/
def State.stagedRow (s : State) (src r : Nat) : List Byte :=
  (s.edge.fnl.staged.filter fun x => x.src = src ∧ x.off / 4096 = r).foldl (fun b x =>
    let o := x.off % 4096
    splice b o (xorBytes (slice b o x.data.length) x.data)) (List.replicate 4096 0)

/-- The unit of row r of a lost member: parity XOR, over every survivor, its data XOR its staged partition (R332). -/
def State.lostGroupUnit (s : State) (j : Job) (units : List (Nat × List Byte)) (r : Nat) : List Byte :=
  units.foldl (fun b u => xorBytes b (xorBytes u.2 (s.stagedRow u.1 r))) ((List.range 4096).map fun i => s.groupByte j (r * 4096 + i))

/-- The survivors' data units of a row that have come, when all have: those of the group but the lost member and the parity
member. -/
def rowUnits (g : List Nat) (f r : Nat) (units : List PeerUnit) : Option (List (Nat × List Byte)) :=
  (g.filter fun m => m ≠ f ∧ m ≠ parityMember g r).mapM fun m =>
    (units.find? fun u => u.module.toNat = m ∧ u.row = r).map fun u => (m, slice u.bytes 0 4096)

/-- GROUP_REBUILD (R332): of every row whose parity unit this module holds, the lost member's unit is formed from the data units that
the survivors send. -/
def State.rebuildMember (s : State) (j : Job) (f : Nat) (units : List PeerUnit) : State :=
  match j.groupOf f with
  | none => s
  | some g =>
    let mine := (units.map (·.row)).eraseDups.filter fun r => parityMember g r = j.modIx ∧ j.modIx ≠ f
    let out := mine.filterMap fun r => (rowUnits g f r units).map fun us => (f, r, s.lostGroupUnit j us r)
    s.setEdge fun e => { e with rebuilt := e.rebuilt ++ out }

/-- The tensor is wholly frozen by the committed table (R227). -/
def State.whollyFrozen (s : State) (tid : Nat) : Bool :=
  s.gov.freeze.any fun e => fld e.1 0 3 == tid && fldBits e.1 0 4 24 24 == 0

/-- The protection of the LND-2400 modules' shards, fixed at load (R386): MIRROR for one of at most 64 MiB that is written in every
step, SNAPSHOT for every other. -/
def State.shardRules (s : State) (j : Job) (shards : List (BitVec 10 × BitVec 24 × Nat)) : List ShardRule :=
  shards.filterMap fun x =>
    match j.tensor x.2.1.toNat with
    | some t =>
      let mirror := decide (x.2.2 ≤ 64 * 2 ^ 20) && !t.lazy && !s.whollyFrozen x.2.1.toNat
      if t.persist then some (ShardRule.mk x.1.toNat x.2.1.toNat mirror) else none
    | none => none

/-- The next module in module-index order, around the group. -/
def Job.nextModule (j : Job) (m : Nat) : Nat :=
  match j.members.find? fun x => m < x with
  | some x => x
  | none => j.members.headD m

/-- What arrives of a protected shard after an update (R386): the next module keeps the whole copy; at a snapshot step a peer keeps its
fragment, and at the later steps the reduced gradients. -/
def State.keepShard (s : State) (j : Job) (x : PeerShard) : State :=
  match j.protect.find? fun r => r.module = x.module.toNat ∧ r.tid = x.tid.toNat with
  | none => s
  | some r =>
    let mine (k : KeptShard) : Bool := k.module == r.module && k.tid == r.tid
    let put (k : KeptShard) : State := s.setEdge fun e => { e with kept := e.kept.filter (fun y => !mine y) ++ [k] }
    match x.part with
    | .whole =>
      if r.mirror ∧ j.nextModule r.module = j.modIx then
        put { module := r.module, tid := r.tid, step := j.step, frag := none, bytes := x.bytes, grads := [] }
      else s
    | .fragment i =>
      if !r.mirror ∧ j.step % j.snapSteps = 0 then
        put { module := r.module, tid := r.tid, step := j.step, frag := some i, bytes := x.bytes, grads := [] }
      else s
    | .gradient t =>
      let add (k : KeptShard) : KeptShard :=
        if mine k ∧ k.step < t then { k with grads := k.grads ++ [(t, x.bytes)] } else k
      if r.mirror then s else s.setEdge fun e => { e with kept := e.kept.map add }

/-- A shard from six fragments: the first six hold its data in order; any other six go through the code (R386). -/
def joinFragments (fs : List (Nat × List Byte)) : List Byte :=
  let data := (List.range 6).filterMap fun i => (fs.find? fun f => f.1 = i).map (·.2)
  if data.length = 6 then data.flatten else Config.snapDecode (fs.take 6)

/-- The shards of a lost LND-2400 module are restored (R387): a MIRROR shard from its copy; a SNAPSHOT shard from any six fragments,
this module's and those that its peers send, with the kept gradients. -/
def State.restoreShards (s : State) (j : Job) (f : Nat) (shards : List PeerShard) : State :=
  let out := (j.protect.filter fun r => r.module = f).filterMap fun r =>
    match s.edge.kept.find? fun k => k.module = f ∧ k.tid = r.tid with
    | none => none
    | some k =>
      if r.mirror then some { module := f, tid := r.tid, bytes := k.bytes, grads := [] : RestoredShard }
      else
        let sent := shards.filterMap fun x =>
          match x.part with
          | .fragment i => if x.module.toNat = f ∧ x.tid.toNat = r.tid ∧ k.frag ≠ some i.val then some (i.val, x.bytes) else none
          | _ => none
        let all := (match k.frag with | some i => [(i, k.bytes)] | none => []) ++ sent
        if 6 ≤ ((all.map (·.1)).eraseDups).length then
          some { module := f, tid := r.tid, bytes := joinFragments all, grads := k.grads : RestoredShard }
        else none
  s.setEdge fun e => { e with restored := e.restored ++ out, kept := e.kept.filter fun k => k.module ≠ f }

/-! Rule sets and freeze tables (R141, R229). -/

/-- The bytes of a rule set that its CRC-32 covers. -/
def RuleSet.bytes (r : RuleSet) : List Byte :=
  bytesOf [r.ctl, r.thr, r.quiet, r.lo, r.hi] ++ r.pins.flatMap fun p => natLe 4 (p.1 % 2 ^ 20 + p.2 % 8 * 2 ^ 20)

def freezeBytes (f : List (List Byte × List Byte)) : List Byte := f.flatMap fun e => e.1 ++ e.2

/-- A pin list with one layer's pin set or removed, in increasing layer ID. -/
def setPin (l : Nat) (v : Option Nat) : List (Nat × Nat) → List (Nat × Nat)
  | [] => (match v with | some x => [(l, x)] | none => [])
  | (a, b) :: t =>
    if a < l then (a, b) :: setPin l v t
    else (match v with | some x => [(l, x)] | none => []) ++ (if a = l then t else (a, b) :: t)

/-- The governor's state for a layer: the level that a step's vector gives it. -/
def State.levelAt (s : State) (step ix : Nat) : Nat := ((Store.get [] s.gov.vectors step).getD ix 0).toNat

/-- A Sage event (Table 5.9). -/
def State.sageEvent (s : State) (code step layer value : Nat) : State :=
  s.event 4 code [BitVec.ofNat 32 step, BitVec.ofNat 32 layer, BitVec.ofNat 32 value, 0]

/-- A commit is recorded in the record of the step that runs, or starts next (R389). -/
def State.journalFlag (s : State) (bit : Nat) : State :=
  match s.journal with
  | some j => { s with journal := some { j with flags := j.flags ||| 2 ^ bit } }
  | none => s

/-- The layers whose quiet count restarts when the outstanding pins and unpins commit (R145). -/
def State.pinnedNow (s : State) : List Nat :=
  ((s.longs.filter fun c => c.result.isNone).filterMap fun c =>
    let l := bits (c.args.getD 1 0) 19 0
    if c.opcode = 0x20 then some l
    else if c.opcode = 0x21 ∧ s.gov.rules.pins.any (fun p => p.1 = l) then some l else none).eraseDups

/-- The governor's registers show a rule set (R141). -/
def State.showRules (s : State) (r : RuleSet) : State :=
  ((((((s.setReg 18 Reg.SAGE_GOV_CTL r.ctl).setReg 18 Reg.SAGE_THR r.thr).setReg 18 Reg.SAGE_QUIET r.quiet).setReg 18
    Reg.SAGE_RATIO_LO r.lo).setReg 18 Reg.SAGE_RATIO_HI r.hi).setF 18 .SAGE_PINS_COUNT r.pins.length)

/-- RULE_SET_COMMIT (R141): the reduced maximum and minimum of the CRC-32 decide. `agree`: they are equal. On a mismatch every module
discards its tentative set, if it holds one, and reports; VALUE is SAGE_DIGEST, 0 before the job's first commit (DESIGN CHOICE, log
115). -/
def State.ruleOutcome (s : State) (step : Nat) (agree : Bool) : State :=
  if agree then
    match s.gov.tent with
    | none => s
    | some r =>
      let crc := crc32 r.bytes
      let s := s.pinnedNow.foldl (fun s l => { s with gov := { s.gov with quiet := Store.set 0 s.gov.quiet l 0 } }) s
      let s := { s with gov := { s.gov with rules := r, tent := none, tentIn := false } }
      let s := ((s.showRules r).setReg 18 Reg.SAGE_DIGEST crc).countK 2 1
      let s := (s.journalFlag 6).sageEvent 7 step 0 crc.toNat
      (s.finishOps [0x20, 0x21] rcOk [BitVec.ofNat 32 (step + 2)]).finishOps [0x22] rcOk [crc]
  else
    let s := { s with gov := { s.gov with tent := none, tentIn := false } }
    ((s.countK 3 1).sageEvent 8 step 0 (s.reg 18 Reg.SAGE_DIGEST).toNat).finishOps [0x20, 0x21, 0x22] rcFault []

/-- The committed freeze table is written for every die's update engine (R227, R229). -/
def State.placeFreeze (s : State) : State :=
  computeDies.foldl (fun s d =>
    let base := s.getF d .UPD_FRZ_BASE_BASE * 1024
    (s.writeRange (dpa d 1 base) (s.gov.freeze.flatMap fun e => e.1)).setF d .UPD_FRZ_COUNT_COUNT s.gov.freeze.length) s

/-- FREEZE_COMMIT (R229). -/
def State.freezeOutcome (s : State) (agree : Bool) : State :=
  match s.gov.freezeTent with
  | none => s
  | some f =>
    let s := { s with gov := { s.gov with freezeTent := none, freezeIn := false } }
    if agree then
      let s := ({ s with gov := { s.gov with freeze := f, frozen := s.gov.frozen ++ [f] } }.placeFreeze).journalFlag 5
      s.finishOps [0x23] rcOk [crc32 (freezeBytes f)]
    else s.finishOps [0x23] rcFault []

end Sys2Proof.Machine
end

