-- ==== Sys2Proof/Machine/FennelOps.lean ====
section
/-! DEFINITION. What Fennel's operations share: descriptors, reductions, waiting requests, marks of a failed
all-or-nothing request, participant lists (R320-R335). -/

namespace Sys2Proof.Machine

/-! The descriptor (Table 11.9). -/
def EJob.rid (j : EJob) : Nat := fldBits j.desc 0 4 27 0
def EJob.fTid (j : EJob) : Nat := fld j.desc 4 3
def EJob.aon (j : EJob) : Bool := fldBits j.desc 7 1 0 0 = 1
def EJob.efree (j : EJob) : Bool := fldBits j.desc 7 1 1 1 = 1
def EJob.epoch (j : EJob) : Nat := fld j.desc 8 2
def EJob.fMbid (j : EJob) : Nat := fld j.desc 10 2
def EJob.fCount (j : EJob) : Nat := fld j.desc 12 4
def EJob.npart (j : EJob) : Nat := fld j.desc 32 2
def EJob.plist (j : EJob) : Nat := fldBits j.desc 36 8 51 0

/-- The reserved bits and codes of a Fennel request (Tables 11.8 and 11.9, R177, R180). -/
def fnlLegal (j : EJob) : Bool :=
  let o := j.op
  (1 ≤ o && o ≤ 7) && decide (j.flags < (if o = 1 then 2 else 1)) && fldBits j.desc 0 4 31 28 == 0 && fldBits j.desc 7 1 7 2 == 0 &&
    fldBits j.desc 20 1 7 7 == 0 && fldBits j.desc 21 1 7 3 == 0 && zeroBytes j.desc 22 2 && zeroBytes j.desc 29 3 &&
    decide (fldBits j.desc 20 1 1 0 < 3) && srkLegal (fldBits j.desc 20 1 6 2) && zeroBytes j.desc 34 2 &&
    fldBits j.desc 36 8 63 52 == 0 && zeroBytes j.desc 44 20 &&
    (o == 1 || decide (1 ≤ j.npart ∧ j.npart ≤ 1024))

def State.setFnl (s : State) (f : Fennel → Fennel) : State := { s with edge := { s.edge with fnl := f s.edge.fnl } }

def State.fnlWaits (s : State) (d : Nat) : List FWait := Store.get [] s.edge.fnl.waits d

def State.setWaits (s : State) (d : Nat) (ws : List FWait) : State := s.setFnl fun f => { f with waits := Store.set [] f.waits d ws }

/-- FNL_AON shows the oldest result that is held poisoned on a die (R329). -/
def State.showAon (s : State) (d : Nat) : State :=
  match (s.fnlWaits d).find? fun w => w.failed with
  | some w => s.setReg d Reg.FNL_AON (BitVec.ofNat 32 (2 ^ 31 + fldBits w.desc 0 4 27 0))
  | none => s.setReg d Reg.FNL_AON 0

/-! Reductions (R321, R333). -/

def State.reduction (s : State) (rid : Nat) : Option Reduction := s.edge.fnl.reds.find? fun r => r.rid = rid

def State.putRed (s : State) (r : Reduction) : State :=
  s.setFnl fun f => { f with reds := (f.reds.filter fun x => x.rid ≠ r.rid) ++ [r] }

def State.dropRed (s : State) (rid : Nat) : State := s.setFnl fun f => { f with reds := f.reds.filter fun x => x.rid ≠ rid }

/-- The OP under which an MBID set travels (R324, log 35). -/
def setOp : Nat := 8

/-- The step that a reduction serves: its RID carries step[11:0] (R321). -/
def Job.stepOfRid (j : Job) (rid : Nat) : Nat := if j.step % 4096 = rid % 4096 then j.step else j.step - 1

/-- A link die's Fennel unit takes a frame of an open reduction (R324, R327, R331, R333, R336): one of another epoch is discarded;
chunks of RING, PERMUTE and BCAST are placed at their destination, parity deltas are staged under their source, and
any other frame, sum words and MBID sets among them, stays with the reduction. Bits [31:28] of the sub-header's first word give the
OP (log 35). -/
def State.giveFrame (s : State) (k : Nat) (r : Reduction) (f : List Byte) : State :=
  let b := slice f 16 (min 488 (fld f 14 2))
  let op := fldBits b 0 4 31 28
  let a := fld b 8 8 + fld b 4 4
  let data := b.drop 16
  if fld f 12 2 ≠ 0xFFFF ∧ fld f 12 2 ≠ r.epoch then s.setF k .FNL_ERR_EPOCH 1
  else if op = 4 ∨ op = 5 ∨ op = 7 then (if s.jobRange a data.length then s.writeRange a data else s)
  else if op = 6 then
    let step := match s.job with | some j => j.stepOfRid r.rid | none => 0
    s.setFnl fun x => { x with staged := x.staged ++ [{ src := fldBits f 10 2 9 0, step := step, off := a, data := data }] }
  else
    let same (g : List Byte) : Bool := fldBits g 10 2 9 0 == fldBits f 10 2 9 0 && fldBits g 16 4 31 28 == op &&
      (fld g 20 4 == fld f 20 4 || (op == setOp && fld f 20 4 == 0))
    s.putRed { r with frames := (if op = 2 ∨ op = setOp then r.frames.filter fun g => !same g else r.frames) ++ [f] }

/-- What the frames of a reduction bring of n elements (R324): of each module whose sum words and MBID set have come whole. -/
def Reduction.partials (r : Reduction) (n : Nat) : List PeerSum :=
  let body (f : List Byte) : List Byte := slice f 16 (min 488 (fld f 14 2))
  let of (m op : Nat) : List (List Byte) :=
    (r.frames.filter fun f => fldBits f 10 2 9 0 = m ∧ fldBits (body f) 0 4 31 28 = op).map body
  ((r.frames.map fun f => fldBits f 10 2 9 0).eraseDups).filterMap fun m =>
    let word (i : Nat) : Option Int :=
      ((of m 2).find? fun b => decide (fld b 4 4 ≤ 4 * i ∧ 4 * i + 12 ≤ fld b 4 4 + b.length)).map fun b =>
        sx 32 (fld b (8 + 4 * i - fld b 4 4) 4)
    match (List.range n).mapM word, of m setOp with
    | some ws, q :: qs =>
      let total := fld q 8 4
      let ids := (q :: qs).flatMap fun b => (List.range ((b.length - 12) / 2)).map fun i => fld b (12 + 2 * i) 2
      if ids.length = total then some { module := m, mbids := ids, sums := ws } else none
    | _, _ => none

/-- A request opens its reduction under the epoch in force; frames that were held for it are delivered (R321). -/
def State.openRed (s : State) (d rid : Nat) : State :=
  match s.reduction rid with
  | some _ => s
  | none =>
    let mine := s.edge.fnl.held.filter fun h => fldBits h.2.2 16 4 27 0 = rid
    let s := s.putRed { rid := rid, epoch := s.getF d .FNL_EPOCH_EPOCH, sets := [], frames := [], due := none }
    let s := s.setFnl fun f => { f with held := f.held.filter fun h => fldBits h.2.2 16 4 27 0 ≠ rid }
    mine.foldl (fun s h => match s.reduction rid with | some r => s.giveFrame (16 + h.1 / 8) r h.2.2 | none => s) s

/-- A request carries an epoch other than its reduction's (R333). -/
def State.wrongEpoch (s : State) (j : EJob) : Bool :=
  !j.efree && match s.reduction j.rid with | some r => r.epoch != j.epoch | none => false

/-- The MBIDs that every exchange buffer within a range holds (R323). -/
def Reduction.mbids (r : Reduction) (a n : Nat) : List Nat :=
  match r.sets.filter fun x => decide (a ≤ x.1 ∧ x.1 < a + n) with
  | [] => []
  | x :: xs => x.2.filter fun b => xs.all fun y => y.2.contains b

/-- A contribution of an MBID, a tile of n elements, to a buffer; with NEG it is taken back (R323, R373). -/
def Reduction.addMbid (r : Reduction) (a n b : Nat) (neg : Bool) (tid : Nat) (tile : List Byte) : Reduction :=
  let x : Tile := { buf := a, tid := tid, mbid := b, bytes := tile }
  let gone := r.tiles.filter fun y => !(y.buf == a && y.mbid == b)
  let cur := ((r.sets.find? fun x => x.1 = a).map (·.2)).getD []
  let new := if neg then cur.filter (· ≠ b) else if cur.contains b then cur else cur ++ [b]
  { r with tiles := if neg then gone else gone ++ [x], sets := (r.sets.filter fun x => x.1 ≠ a) ++ [(a, new)], bufs := (r.bufs.filter fun x => x.1 ≠ a) ++ [(a, 4 * n)] }

/-! Taking a request. -/

/-- A request as it waits. -/
def EJob.wait (j : EJob) (failed redo : Bool) : FWait :=
  { p := j.p, cmd := j.id, bytes := j.bytes, desc := j.desc, step := j.step, seed := j.seed, failed := failed, redo := redo }

/-- A waiting request as it is taken up again. -/
def FWait.job (w : FWait) (d : Nat) : EJob :=
  { d := d, p := w.p, id := w.cmd, bytes := w.bytes, opr := slice w.bytes 16 48, desc := w.desc, step := w.step, seed := w.seed,
    retry := w.failed }

/-- The next waiting request that a row serves: the one taken up least often. -/
def State.fnlAgain (s : State) (d : Nat) (mine : Nat → Bool) : Option FWait :=
  let ws := (s.fnlWaits d).filter fun w => w.fin.isNone && mine (fld w.bytes 16 1)
  ws.find? fun w => ws.all fun x => decide (w.tries ≤ x.tries)

/-- The next request of Fennel on a die that a row serves: the next from a queue (R178), or else one that waits; whether its
descriptor was read, and how it waited. -/
def State.fnlNext (s : State) (d : Nat) (mine : Nat → Bool) : Option (State × EJob × Bool × Option FWait) :=
  let again := if s.frozen ∨ (s.engSpace d 6).isSome then none
    else (s.fnlAgain d mine).map fun w => (s, w.job d, true, some w)
  if 16 ≤ (s.eng d .fnl).accepted.length + ((s.fnlWaits d).filter fun w => !w.redo).length then again
  else match s.nextRequest d .fnl with
  | none => again
  | some (l, p, q) =>
    let (s, ok) := s.readHead d p 54
    let q := (s.que d p 54).entries.headD q
    let opr := slice q.bytes 16 48
    if ok && !mine (fld opr 0 1) then again
    else
      let s := s.popQ d p 54
      let s := s.setEng d .fnl { s.eng d .fnl with last := some l }
      let step := match s.cmd d p q.cmd with | some c => BitVec.ofNat 32 c.step | none => s.reg d (Reg.SPRG_STEP p)
      let (s, dok, desc) := if ok then s.readDesc d opr else (s, false, [])
      some (s, { d := d, p := p, id := q.cmd, bytes := q.bytes, opr := opr, desc := desc, step := step,
                 seed := s.reg d (Reg.SPRG_SEED_HI p) ++ s.reg d (Reg.SPRG_SEED_LO p) }, dok, none)

/-- A completed XREDUCE is kept until the drop list closes (R374). -/
def State.keepMean (s : State) (j : EJob) (a : EAns) : State :=
  if j.op = 2 ∧ a.status = rcOk then s.setFnl fun f => { f with done := f.done ++ [(j.d, j.wait false false)] } else s

/-- A reduction is in flight (R334): a request of it has not finished, or contributions have no result yet. -/
def State.inFlight (s : State) (r : Reduction) : Bool :=
  (!r.sets.isEmpty && !r.done) || s.edge.fnl.waits.any fun x => x.2.any fun w => w.fin.isNone && fldBits w.desc 0 4 27 0 == r.rid

/-- The epoch fence does not hold back a reshard (R334). -/
def State.fenceClear (s : State) : Bool := !s.edge.fnl.reds.any s.inFlight

/-- FNL_STATUS.FENCE while a reshard waits for reductions of its old epoch. -/
def State.showFence (s : State) : State :=
  if s.edge.reshard.isSome then s.setFs (computeDies ++ linkDies) .FNL_STATUS_FENCE (!s.fenceClear).toNat else s

/-- A waiting request of a die changes, or joins those that wait. -/
def State.putWait (s : State) (d : Nat) (old : Option FWait) (new : FWait) : State :=
  s.setWaits d (match old with
    | some x => (s.fnlWaits d).map fun y => if y = x then new else y
    | none => s.fnlWaits d ++ [new])

/-- Completions keep the order of each sprig's requests (R178): the finished ones that no unfinished one of their sprig precedes,
and those that stay. `p`: sprigs with an unfinished request. -/
def inTurn : List FWait → List Nat → List FWait × List EReq
  | [], _ => ([], [])
  | w :: t, p =>
    match w.fin with
    | some r =>
      let x := inTurn t p
      if p.contains w.p then (w :: x.1, x.2) else (x.1, r :: x.2)
    | none => let x := inTurn t (if w.redo then p else w.p :: p); (w :: x.1, x.2)

/-- Requests that have finished in their turn await their completion entries. -/
def State.fnlSettle (s : State) (d : Nat) : State :=
  let x := inTurn (s.fnlWaits d) []
  (s.setWaits d x.1).setEng d .fnl { s.eng d .fnl with accepted := (s.eng d .fnl).accepted ++ x.2 }

/-- What a request's completion will say; it names the reduction (R321). -/
def EJob.fnlAnswer (j : EJob) (a : EAns) : EReq :=
  { j.answered .fnl a with rid := if j.desc = [] then none else some j.rid }

/-- A request is finished: its completion entry follows those of the sprig's older requests (R178). -/
def State.fnlDone (s : State) (j : EJob) (old : Option FWait) (a : EAns) : State :=
  let s := s.putWait j.d old { j.wait false false with fin := some (j.fnlAnswer a) }
  (((s.fnlSettle j.d).keepMean j a).showAon j.d).showFence

/-- A rerun of a completed request is done: it reports nothing (R374). -/
def State.fnlRedone (s : State) (j : EJob) (old : Option FWait) (a : EAns) : State :=
  let ws := match old with | some x => (s.fnlWaits j.d).erase x | none => s.fnlWaits j.d
  ((((s.setWaits j.d ws).fnlSettle j.d).keepMean j a).showAon j.d).showFence

/-- A request waits; `failed`: its result is held poisoned (R329). -/
def State.fnlWait (s : State) (j : EJob) (old : Option FWait) (failed : Bool) : State :=
  let w := match old with
    | some x => { x with failed := failed, tries := x.tries + 1 }
    | none => { j.wait failed false with tries := 1 }
  (s.putWait j.d old w).showAon j.d

/-- How a Fennel request goes on: it is done, it waits, or its result is held poisoned until a retry. -/
inductive FRes where
  | done (a : EAns)
  | waits
  | poisoned
  deriving DecidableEq, Repr

/-- A row of Fennel: it takes a request, refuses a malformed one, and runs the rest. -/
def fnlRow (d : Nat) (mine : Nat → Bool) (run : State → EJob → State × FRes) (s : State) : State :=
  match s.fnlNext d mine with
  | none => s
  | some (s, j, dok, old) =>
    if !dok && j.desc.isEmpty then s.fnlDone j old (EAns.code rcFault)
    else if !j.frameOk then (s.setF d .FNL_ERR_BADREQ 1).fnlDone j old (EAns.code rcBadArg)
    else if !dok then s.fnlDone j old (EAns.code rcFault)
    else if !fnlLegal j then (s.setF d .FNL_ERR_BADREQ 1).fnlDone j old (EAns.code rcBadArg)
    else
      let s := if j.retry then s.countF d (dieCtr 37) 1 j.bytes else s
      match run (s.openRed d j.rid) j with
      | (s, .done a) => if old.any FWait.redo then s.fnlRedone j old a else s.fnlDone j old a
      | (s, .waits) => s.fnlWait j old j.retry
      | (s, .poisoned) => s.fnlWait j old true

/-! Participants and elements. -/

/-- The participant list of a request: module indices. -/
def State.participants (s : State) (j : EJob) : List Nat :=
  (List.range j.npart).map fun i => fld (s.view (j.plist + 2 * i) 2) 0 2 % 1024

/-- Bytes of one element of a tensor (log 36): its record's format, or the format of its layer's level. -/
def State.elemBytes (s : State) (tid : Nat) : Nat :=
  match s.job with
  | none => 1
  | some j =>
    match j.tensor tid with
    | none => 1
    | some t =>
      match t.fmt with
      | 1 => 2 | 2 => 2 | 3 => 4 | 4 => 4
      | _ =>
        let ix := j.graph.layers.findIdx fun l => l.layer = t.layer
        let lv := s.levelAt j.step ix
        if lv < 2 ∨ (lv = 2 ∧ t.kind = 0) then 1 else 2

/-- The part bitmap of PARTIAL (R328): part i covers list positions i*G to (i+1)*G - 1. -/
def partBitmap (n : Nat) (failed : List Nat) : List Nat :=
  let g := cdiv n 256
  let bit (i : Nat) : Bool := failed.any fun x => x / (max g 1) = i
  (List.range 8).map fun w => ((List.range 32).map fun b => if bit (32 * w + b) then 2 ^ b else 0).foldl (· + ·) 0

/-- A tensor's elements are L16: its record says so, or its layer's level in the step does (Table 5.1). -/
def State.isL16 (s : State) (tid : Nat) : Bool :=
  match s.job with
  | none => false
  | some j =>
    match j.tensor tid with
    | none => false
    | some t =>
      let ix := j.graph.layers.findIdx fun l => l.layer = t.layer
      t.fmt == 1 || (t.fmt == 0 && decide (t.kind ≤ 2) && s.levelAt j.step ix == 4 &&
        match j.graph.layers[ix]? with | some l => !l.fh | none => false)

/-- An exchange buffer of an open reduction lies at an address: its content is sum words (R323). -/
def State.holdsSums (s : State) (a : Nat) : Bool := s.edge.fnl.reds.any fun r => r.sets.any fun x => x.1 = a

/-- The mark of a failed all-or-nothing request on its result (R329): POISON in L16 elements, 0x8000_0000 in sum words; any other
content, and what a PERMUTE was to write, is left as it was. -/
def State.markResult (s : State) (j : EJob) : State :=
  let a := j.addr 1
  let n := if j.op = 1 then 4 * j.fCount else j.fCount * s.elemBytes j.fTid
  if j.op = 5 ∨ j.op = 6 ∨ !s.jobRange a n ∨ s.touchesParity a n then s
  else if j.op = 1 ∨ s.holdsSums a then s.writeRange a ((List.range (n / 4)).flatMap fun _ => natLe 4 0x80000000)
  else if s.isL16 j.fTid then s.writeRange a ((List.range (n / 2)).flatMap fun _ => natLe 2 l16Poison)
  else s

/-- The words that a held CONTRIB found return to its exchange buffer (R329). -/
def State.takeSaved (s : State) (a : Nat) : State :=
  match s.edge.fnl.saved.find? fun x => x.1 = a with
  | some x => (s.writeRange a x.2).setFnl fun f => { f with saved := f.saved.filter fun y => y.1 ≠ a }
  | none => s

/-- A request some of whose participants failed: PARTIAL, or, all-or-nothing, its result marked and held for its retry (R328, R329). -/
def State.fnlFailed (s : State) (j : EJob) (allOrNone : Bool) (failed : List Nat) : State × FRes :=
  if allOrNone then (s.markResult j, .poisoned)
  else (s.setF j.d .FNL_ERR_PARTIAL 1, .done { EAns.code rcPartial with detail := partBitmap j.npart failed })

/-- A participant that this module cannot reach: one that is lost (R312, R328). -/
def State.outOfReach (s : State) (m : Nat) : Bool := s.lostMods.contains m

/-- The epoch of what a request sends (R333). -/
def EJob.sendEpoch (j : EJob) : Nat := if j.efree || j.op = 3 then 0xFFFF else j.epoch

/-- What leaves for a module (Table 11.6): permutes and retries as unscheduled bulk, the rest in scheduled slots. -/
def EJob.sends (j : EJob) (op m : Nat) (bs : List Byte) : Sent :=
  Sent.fennel op j.rid m j.sendEpoch (if j.op = 5 || j.retry then 2 else 0) bs

end Sys2Proof.Machine
end

