-- ==== Sys2Proof/Machine/JournalOps.lean ====
section
/-! DEFINITION. The Rosemary journal: the encoding of a record, its two copies, closing and reading it (R388, R389). -/

namespace Sys2Proof.Machine

/-- Runs of a step's data descriptors (R275): entries merged where MBIDs and shards continue. -/
def mergeRuns : List DataDesc → List (Nat × Nat × Nat)
  | [] => []
  | x :: t =>
    match mergeRuns t with
    | (sh, lo, nm1) :: u =>
      if x.lo + x.nm1 + 1 = lo ∧ x.shard + x.nm1 + 1 = sh then (x.shard, x.lo, x.nm1 + 1 + nm1) :: u
      else (x.shard, x.lo, x.nm1) :: (sh, lo, nm1) :: u
    | [] => [(x.shard, x.lo, x.nm1)]

def Job.runs (j : Job) (step : Nat) : List (Nat × Nat × Nat) := mergeRuns (j.descs.filter fun x => x.step = step)

/-- The DPA of a copy of a step's record (R388): copy 0 is A, copy 1 is B. -/
def State.journalAddr (s : State) (step copy : Nat) : Nat :=
  dpa ((step + 8 * copy) % 16) 0 (s.journalBase + (2 * (step % 32768 / 16) + copy) * 0x10000)

/-- The sections of a record (Table 13.8): offset within the record and used bytes. -/
def Journal.sections (jr : Journal) (j : Job) : List (Nat × List Byte) :=
  [(0x80, (j.runs jr.step).flatMap fun r => natLe 8 r.1 ++ natLe 2 r.2.1 ++ natLe 2 r.2.2 ++ natLe 4 0),
   (0x4080, jr.drops.flatMap Drop.bytes),
   (0x5080, jr.faults.flatMap bytesOf),
   (0x8000, jr.pv)]

/-- The head of a record: bytes 0x0000-0x007B. -/
def Journal.head (jr : Journal) (j : Job) (tickLen tend : Nat) : List Byte :=
  natLe 2 1 ++ natLe 2 jr.flags ++ natLe 4 jr.step ++ natLe 8 j.seed.toNat ++ natLe 2 jr.epoch ++ natLe 2 tickLen ++
    natLe 4 jr.gplan.toNat ++ natLe 4 (crc32 jr.pv).toNat ++ bytesOf ((jr.vars ++ [0, 0, 0, 0]).take 4) ++
    natLe 4 jr.rules.toNat ++ natLe 4 jr.freeze.toNat ++ natLe 4 jr.lr ++ natLe 8 j.ckpt ++ natLe 8 jr.tstart ++
    natLe 8 tend ++ natLe 2 (j.runs jr.step).length ++ natLe 2 jr.drops.length ++ natLe 2 jr.faults.length ++
    natLe 2 jr.aborts ++ natLe 4 jr.stats.toNat ++ List.replicate 32 0

/-- A record is placed in both copies; a copy whose die is lost is not written. -/
def State.placeRecord (s : State) (step : Nat) (head : List Byte) (secs : List (Nat × List Byte)) : State :=
  let crc := crc32 (head ++ secs.flatMap (·.2))
  [0, 1].foldl (fun s c =>
    let a := s.journalAddr step c
    if s.lostDies.contains (dpaDie a) then s
    else secs.foldl (fun s x => s.writeRange (a + x.1) x.2) (s.writeRange a (head ++ natLe 4 crc.toNat))) s

/-- The record of a step is open, with its precision vector (R142, R388): the current one, or one of a later step. Fault entries that
waited for a record are its first. -/
def State.openJournal (s : State) (step : Nat) : State :=
  let v := Store.get [] s.gov.vectors step
  let has := (s.journal.any fun r => r.step = step) || s.edge.ahead.any fun r => r.step = step
  if has then s
  else
    let s := s.setF 18 .JRN_STATUS_OPEN 1
    match s.journal with
    | some _ => { s with edge := { s.edge with ahead := s.edge.ahead ++ [Journal.opened step v] } }
    | none => { s with journal := some { Journal.opened step v with faults := s.edge.waits.take 128 }, edge := { s.edge with waits := [] } }

/-- The open record as it stands is in the journal share, without VALID, before a reset ends the step (R380, R388). -/
def State.keepJournal (s : State) : State :=
  match s.journal, s.job with
  | some jr, some j =>
    let jr := { jr with drops := j.drops }
    if s.flag 18 .JRN_CTL_EN then s.placeRecord jr.step (jr.head j s.tickNow 0) (jr.sections j) else s
  | _, _ => s

/-- The record closes (R388): VALID sets, and both copies are written unless JRN_CTL.EN is clear. The record of the next step is then
the current one. -/
def State.closeJournal (s : State) : State :=
  match s.journal, s.job with
  | some jr, some j =>
    let jr := { jr with flags := jr.flags ||| 1, drops := j.drops }
    let next := s.edge.ahead.find? fun r => r.step = jr.step + 1
    let s := { s with journal := next, edge := { s.edge with ahead := s.edge.ahead.filter fun r => jr.step + 1 < r.step } }
    let s := s.setF 18 .JRN_STATUS_OPEN next.isSome.toNat
    if s.flag 18 .JRN_CTL_EN then
      let s := s.placeRecord jr.step (jr.head j s.tickNow s.now) (jr.sections j)
      let last := (s.reg 18 Reg.JRN_LAST_STEP).toNat
      let none_ := last = 0 ∧ s.reg 18 Reg.JRN_FIRST_STEP = 0
      let s := s.setReg 18 Reg.JRN_LAST_STEP (BitVec.ofNat 32 jr.step)
      if none_ then s.setReg 18 Reg.JRN_FIRST_STEP (BitVec.ofNat 32 jr.step)
      else if 32768 ≤ jr.step - (s.reg 18 Reg.JRN_FIRST_STEP).toNat then
        s.setReg 18 Reg.JRN_FIRST_STEP (BitVec.ofNat 32 (jr.step - 32767))
      else s
    else s
  | _, _ => s

/-- Firmware reads a record (R249-R251): each codeword of its copies is decoded, and what a read of one changes happens; a copy's bad
codeword is rewritten from the other copy. -/
def State.readRecord (s : State) (step : Nat) : State :=
  [0, 1].foldl (fun s c =>
    let a := s.journalAddr step c
    if s.lostDies.contains (dpaDie a) then s else (s.readRange a 0x10000).1) s

/-- A record's bytes from a copy that can be read: 64 KiB. -/
def State.recordBytes (s : State) (step : Nat) : Option (List Byte) :=
  [0, 1].findSome? fun c =>
    let a := s.journalAddr step c
    if s.lostDies.contains (dpaDie a) then none
    else if (cwsOf a 0x10000).all s.readable then some (s.view a 0x10000) else none

def recUsed (b : List Byte) : List (List Byte) :=
  [slice b 0x80 (16 * min 1024 (fld b 0x50 2)), slice b 0x4080 (16 * min 256 (fld b 0x52 2)),
   slice b 0x5080 (64 * min 128 (fld b 0x54 2))]

/-- The valid record of a step, if the journal holds one; `layers`: how many bytes of its vector are used. -/
def State.journalRecord (s : State) (step layers : Nat) : Option (List Byte) :=
  match s.recordBytes step with
  | some b =>
    let ok := fld b 0 2 == 1 && fldBits b 2 2 0 0 == 1 && fld b 4 4 == step &&
      BitVec.ofNat 32 (fld b 0x7C 4) == crc32 (slice b 0 0x7C ++ (recUsed b).flatten ++ slice b 0x8000 layers)
    if ok then some b else none
  | none => none

def parseDrop (b : List Byte) : Drop :=
  { lo := fld b 0 2, nm1 := fld b 2 2, stage0 := fld b 4 2, stride := fld b 6 2, n := fld b 8 2, cause := fld b 10 1,
    fidx := fld b 12 4 }

def recordDrops (b : List Byte) : List Drop :=
  (chunks 16 (min 256 (fld b 0x52 2)) (b.drop 0x4080)).map parseDrop

/-- A replayed step runs in its journaled epoch (R390). -/
def State.replayEpoch (s : State) (step : Nat) : State :=
  let s := s.readRecord step
  match s.recordBytes step with
  | some b =>
    let e := fld b 0x10 2
    let s := s.setFs (computeDies ++ linkDies) .FNL_EPOCH_EPOCH e
    computeDies.foldl (fun s d => (List.range 272).foldl (fun s p => s.setF d (.SPRG_EPOCH_EPOCH p) e) s) s
  | none => s

/-- Both copies of a closed record are rewritten with its STATS. -/
def State.restamp (s : State) (step : Nat) (crc : Word) : State :=
  let layers := match s.job with | some j => j.graph.layers.length | none => 0
  let s := s.readRecord step
  match s.journalRecord step layers with
  | some b =>
    let head := splice (slice b 0 0x7C) 0x58 (natLe 4 crc.toNat)
    s.placeRecord step head [(0x80, (recUsed b).getD 0 []), (0x4080, (recUsed b).getD 1 []), (0x5080, (recUsed b).getD 2 []),
      (0x8000, slice b 0x8000 layers)]
  | none => s

/-- The step's reduced statistics are known (Table 13.8, STATS; R392): the open record takes their CRC-32, or both copies of
the closed record are rewritten with it; a replayed step's value is compared. -/
def State.takeStats (s : State) (step : Nat) (crc : Word) : State :=
  if s.flag 18 .JRN_STATUS_REPLAY then
    let s := s.readRecord step
    match s.recordBytes step with
    | some b =>
      if fld b 0x58 4 = crc.toNat then s
      else (s.setF 18 .JRN_ERR_MISMATCH 1).ownFault 0x38 18 0 0 step 0 0
    | none => s
  else match s.journal with
  | some jr => if jr.step = step then { s with journal := some { jr with stats := crc } } else s.restamp step crc
  | none => s.restamp step crc
end Sys2Proof.Machine
end

