-- ==== Sys2Proof/Machine/Governor.lean ====
section
/-! DEFINITION. The governor's decision (R136-R146) and the scale words of a step (R108-R110). -/

namespace Sys2Proof.Machine

/-- A rule set's fields. -/
def RuleSet.hold (r : RuleSet) : Bool := r.ctl.getLsbD 0
def RuleSet.poisonRaise (r : RuleSet) : Bool := r.ctl.getLsbD 1

/-- A layer's decision: its new level, its quiet count, the cause bits, and whether it met its ceiling. -/
structure Decision where
  level : Nat
  quiet : Nat
  cause : Nat
  ceiling : Bool
  deriving DecidableEq, Repr

/-- Effective floor and ceiling of a layer (R144). -/
def effective (r : RuleSet) (l : LayerRec) : Nat × Nat :=
  match r.pins.find? fun p => p.1 = l.layer with
  | some p => (p.2, p.2)
  | none => (l.floor, l.ceil)

def recKind (r : List Byte) : Nat := fldBits r 0 4 27 24
def recLayer (r : List Byte) : Nat := fldBits r 8 4 19 0

/-- The causes that a layer's records give (R137). -/
def causes (r : RuleSet) (recs : List (List Byte)) : Nat :=
  let operand := recs.filter fun q => recKind q ≤ 3
  let some1 (p : List Byte → Bool) (qs : List (List Byte)) (b : Nat) : Nat := if qs.any p then b else 0
  some1 (fun q => decide (bits r.thr 7 0 ≤ fld q 34 4)) operand 1 +
    some1 (fun q => decide (fld q 16 6 < fld q 22 6 * 2 ^ bits r.thr 13 8)) operand 2 +
    some1 (fun q => decide (fld q 16 6 < fld q 48 6 * 2 ^ bits r.thr 21 16)) (recs.filter fun q => recKind q = 5) 4 +
    (if r.poisonRaise then some1 (fun q => decide (0 < fld q 38 4)) operand 8 else 0)

/-- R137: the level of a layer for step s+2. -/
def decideLayer (r : RuleSet) (l : LayerRec) (recs : List (List Byte)) (sched1 quiet : Nat) : Decision :=
  let (floor, ceil) := effective r l
  let clamp (t : Nat) : Nat := max floor (min ceil t)
  if r.hold ∨ !recs.any fun q => decide (0 < fld q 14 2) then
    { level := clamp sched1, quiet := quiet, cause := 0, ceiling := false }
  else
    let lv := match recs with | q :: _ => fldBits q 8 4 22 20 | [] => sched1
    let c := causes r recs
    if c ≠ 0 then
      { level := clamp (if sched1 ≤ lv then lv + 1 else sched1), quiet := 0, cause := c, ceiling := decide (ceil ≤ lv) }
    else
      let q := min (quiet + 1) 65535
      if bits r.quiet 15 0 ≤ q ∧ floor < sched1 then { level := clamp (sched1 - 1), quiet := 0, cause := 0, ceiling := false }
      else { level := clamp sched1, quiet := q, cause := 0, ceiling := false }

/-- The LAYER word of a Sage event (Table 5.9). -/
def sageLayer (layer l1 l2 cause : Nat) : Nat := layer % 2 ^ 20 + l1 * 2 ^ 20 + l2 * 2 ^ 23 + cause * 2 ^ 26

/-- One layer's decision, and the events of R137; LEVEL_DOWN is emitted without a cause, and its CAUSE field is 0 (DEDUCED, log
105). -/
def State.decideOne (s : State) (j : Job) (step : Nat) (rs : List (List Byte)) (ix : Nat) (l : LayerRec) : State × Nat :=
  let _ := j
  let sched1 := s.levelAt (step + 1) ix
  let x := decideLayer s.gov.rules l (rs.filter fun q => recLayer q = l.layer) sched1 (Store.get 0 s.gov.quiet l.layer)
  let s := { s with gov := { s.gov with quiet := Store.set 0 s.gov.quiet l.layer x.quiet } }
  let w := sageLayer l.layer sched1 x.level x.cause
  let s := if x.ceiling then s.sageEvent 3 step w 0 else s
  let down := sageLayer l.layer sched1 x.level 0
  let s := if sched1 < x.level then s.sageEvent 1 step w 0 else if x.level < sched1 then s.sageEvent 2 step down 0 else s
  (s, x.level)

/-- RATIO_CHECK and POISON_SEEN of a layer (R138, R139). Table 5.9 does not say what the CAUSE field of their events is: it is 0
(DESIGN CHOICE, log 115). -/
def State.layerEvents (s : State) (step : Nat) (rs : List (List Byte)) (ix : Nat) (l : LayerRec) : State :=
  let recs := rs.filter fun q => recLayer q = l.layer
  let w := sageLayer l.layer (s.levelAt (step + 1) ix) (s.levelAt (step + 2) ix) 0
  let s := match recs.find? fun q => recKind q = 5 with
    | some g =>
      if b32.isZero (fld g 60 4) then s
      else
        let q := fsqrt32 (fdiv32 (fld g 56 4) (fld g 60 4))
        let below := b32.isFinite q && decide (b32.val q < b32.val s.gov.rules.lo.toNat)
        let above := b32.isInf q || (b32.isFinite q && decide (b32.val s.gov.rules.hi.toNat < b32.val q))
        if below || above then s.sageEvent 4 step w q else s
    | none => s
  let n := ((recs.filter fun q => recKind q ≤ 3).map fun q => fld q 38 4).foldl (· + ·) 0
  if n = 0 then s else s.sageEvent 5 step w (satAt 32 n)

/-- GOVERNOR_DECIDE (R137-R142): from the group-reduced records of step s, the levels of step s+2. A replay decides
nothing (R148). The record of step s+2 opens with its vector (R388). -/
def execGovernorDecide (s : State) : Out :=
  .next <|
    match s.job, s.gov.decided with
    | some j, some last =>
      let step := last - 1
      match s.gov.reduced.lookup step with
      | none => s
      | some rs =>
        if s.frozen || s.flag 18 .JRN_STATUS_REPLAY then s
        else
          let ls := j.graph.layers
          let (s, v) := (List.range ls.length).foldl (fun (acc : State × List Byte) ix =>
            match ls[ix]? with
            | some l => let r := acc.1.decideOne j step rs ix l; (r.1, acc.2 ++ [BitVec.ofNat 8 r.2])
            | none => acc) (s, [])
          let s := { s with gov := { s.gov with vectors := Store.set [] s.gov.vectors (step + 2) v, decided := some (step + 2) } }
          let s := (s.setReg 18 Reg.SAGE_DECIDED (BitVec.ofNat 32 (step + 2))).openJournal (step + 2)
          (List.range ls.length).foldl (fun s ix => match ls[ix]? with | some l => s.layerEvents step rs ix l | none => s) s
    | _, _ => s

/-! Scale words (R108, R109). -/

/-- qmax of a tensor in a step: by its kind and the level of its layer; 0 where the level has no Q format. -/
def State.qmaxOf (s : State) (j : Job) (step : Nat) (t : TensorRec) : Nat :=
  if t.kind = 3 then 32767
  else if t.fmt ≠ 0 then 0
  else
    let lv := s.levelAt step (j.graph.layers.findIdx fun l => l.layer = t.layer)
    if 4 ≤ lv then 0
    else if t.kind = 0 then (if lv = 0 then 7 else if lv = 3 then 32767 else 127)
    else if lv < 2 then 127 else 32767

/-- The scale word of a tensor in a step (R108): from its AMAX history, or its initial word; WARMUP while fewer than H steps of
history exist. -/
def State.scaleWord (s : State) (j : Job) (step : Nat) (t : TensorRec) : Word :=
  let h := if t.h = 0 then 4 else t.h
  let hist := (Store.get [] s.gov.amax t.tid).filter fun x => x.1 < step ∧ step ≤ x.1 + h
  if hist.isEmpty then BitVec.ofNat 32 t.scale0 ||| 32
  else
    let a := (l16Val ((hist.map (·.2)).foldl l16Max 0)).getD 0
    BitVec.ofNat 32 (makeScale a (if t.margin = 0 then 0x1400 else t.margin) (s.qmaxOf j step t) (decide (hist.length < h)))

/-- SCALE_FORMATION (R108, R109): the words of every measured tensor with a Q format. -/
def State.formScales (s : State) (j : Job) (step : Nat) : State :=
  j.graph.tensors.foldl (fun s t =>
    if t.measured ∧ s.qmaxOf j step t ≠ 0 then
      { s with gov := { s.gov with scales := Store.set 0 s.gov.scales t.tid (s.scaleWord j step t) } }
    else s) s

end Sys2Proof.Machine
end

