-- ==== Sys2Proof/Machine/ScheduleOps.lean ====
section
/-! DEFINITION. What phases and barriers share: variant keys and the cache, barriers and their scopes, entering a phase,
spare substitution, hang reports (R170-R173, R284-R292, R384, R385). -/

namespace Sys2Proof.Machine

/-! Variants (R290-R292). -/

/-- A bunch's word as a variant needs it: the failure of a spare that serves no number redraws no schedule (R171; log 6). -/
def mapForKey (w : Word) : Word := if w.getLsbD 31 then w else setBits w 16 16 0

/-- CRC-32 of the repair record (Table 10.14, REPAIR; R172, R279): the SPRG_MAPb words of the compute dies in order, the lost
dies, the ports that are FAILED, and the retired lane groups (log 6). -/
def State.repairCrc (s : State) : Word :=
  let ports := (List.range 16).filter fun k => s.getF (16 + k / 8) (.LNK_PORT_STATUS_STATE (k % 8)) = 4
  crc32 (((List.range 256).flatMap fun i => natLe 4 (mapForKey (Store.get 0 s.repair i)).toNat) ++
    natLe 4 (((List.range 20).filter s.lostDies.contains).map (2 ^ ·)).sum ++ natLe 2 (ports.map (2 ^ ·)).sum ++
    ((List.range 4096).filter s.retired.contains).flatMap (natLe 2))

/-- The key of the variant that a phase of a step needs (Table 10.14). -/
def State.variantKey (s : State) (j : Job) (step ph : Nat) : List Byte :=
  natLe 2 ph ++ natLe 2 (s.getF 0 .FNL_EPOCH_EPOCH) ++ natLe 4 (crc32 (Store.get [] s.gov.vectors step)).toNat ++
    natLe 4 (s.planFor j step ph).toNat ++ natLe 4 s.repairCrc.toNat ++ natLe 2 (s.tickLen j step) ++ List.replicate 14 0

/-- The cache entry that holds a key (R290). -/
def State.findVariant (s : State) (key : List Byte) : Option (Nat × CacheEntry) := s.cache.find? fun e => e.2.key = key

/-- The job context of a spare (R152, R170): epoch, step and seed of the job. -/
def State.spareContext (s : State) (d p : Nat) : State :=
  match s.job with
  | none => s
  | some j =>
    (((s.setReg d (Reg.SPRG_SEED_LO p) (j.seed.setWidth 32)).setReg d (Reg.SPRG_SEED_HI p) ((j.seed >>> 32).setWidth 32)).setF d
      (.SPRG_EPOCH_EPOCH p) (s.getF 0 .FNL_EPOCH_EPOCH)).setReg d (Reg.SPRG_STEP p) (BitVec.ofNat 32 j.step)

/-- SPARE_SUBSTITUTION (R170-R173): a bay spare that has not failed takes the number of a failed sprig of its bunch, the
lowest-numbered when several have failed (log 93); its queues start empty, with the step of the job. -/
def State.substitute (s : State) : State :=
  computeDies.foldl (fun s d =>
    (List.range 16).foldl (fun s b =>
      let f := s.getF d (.SPRG_MAP_FAILED b)
      if f.testBit 16 || s.flag d (.SPRG_MAP_SUBST_EN b) then s
      else match (List.range 16).find? fun i => f.testBit i with
      | none => s
      | some i =>
        let s := (s.setF d (.SPRG_MAP_SUBST b) i).setF d (.SPRG_MAP_SUBST_EN b) 1
        let s := { s with repair := Store.set 0 s.repair (d * 16 + b) (s.reg d (Reg.SPRG_MAP b)) }
        let s := s.spareContext d (17 * b + 16)
        s.startSprig d (17 * b + 16)) s) s

/-- Entries that are locked (R292): the running variant, and those selected for the current step or the next two, also by what the
next boundary's substitutions make of the keys (R170). -/
def State.lockedEntries (s : State) : List Nat :=
  match s.job with
  | some j =>
    let keys := [s, s.substitute].flatMap fun t => (List.range 3).flatMap fun k => (List.range 4).map fun ph => t.variantKey j (j.step + k) ph
    let held := (s.cache.filter fun e => keys.contains e.2.key).map (·.1)
    if j.running then s.getF 0 .GLB_SCHED_STATUS_ENTRY :: held else held
  | none => []

/-- The entry that a new variant takes: a free one, or the least recently used unlocked one (VARIANT_EVICT). -/
def State.freeEntry (s : State) : Option Nat :=
  match (List.range 64).find? fun e => (s.cache.lookup e).isNone with
  | some e => some e
  | none =>
    let locked := s.lockedEntries
    let open_ := s.cache.filter fun e => !locked.contains e.1
    (open_.find? fun e => open_.all fun f => decide (e.2.used ≤ f.2.used)).map (·.1)

/-- A sprig's part of a variant as bytes (R293): its logical number and counts, each template's commands with their side words, and
the slot table. The order of these parts is the model's (log 92). -/
def partBytes (v : VariantPart) : List Byte :=
  natLe 4 v.logical.val ++ natLe 4 v.templates.length ++ natLe 4 v.slots.length ++
    (v.templates.flatMap fun t => natLe 4 t.length ++ t.flatMap fun c => c.bytes ++ natLe 2 c.side.toNat) ++
    v.slots.flatMap fun e => natLe 2 e.tmpl ++ natLe 2 e.mbid.toNat ++ natLe 3 e.tickBase.toNat ++ [0] ++ natLe 8 e.bias.toNat

/-- A die's share of a variant. -/
def dieParts (parts : List VariantPart) (d : Nat) : List Byte := (parts.filter fun v => v.die.val = d).flatMap partBytes

/-- Every die's share fits an entry of 24 MiB (R291). -/
def partsFit (parts : List VariantPart) : Bool := computeDies.all fun d => decide ((dieParts parts d).length ≤ 0x1800000)

/-- A build's repair state is the module's, or what the next boundary's substitutions make of it; a build for another one is
discarded (R289). -/
def State.repairFresh (s t : State) (key : List Byte) : Bool :=
  let r := BitVec.ofNat 32 (fld key 12 4)
  r == s.repairCrc || r == t.repairCrc

/-- A new group plan that a build names for the inputs of a coming step (R276, R277): not used before the group has compared
it. -/
def State.learnPlan (s : State) (key : List Byte) : State :=
  match s.job with
  | none => s
  | some j =>
    match (List.range 3).find? fun k => decide (slice key 2 6 = (s.planInputs j (j.step + k)).take 6 ∧
        slice key 16 2 = slice (s.planInputs j (j.step + k)) 6 2) && (j.plans.lookup (s.planInputs j (j.step + k))).isNone with
    | some k =>
      let crc := BitVec.ofNat 32 (fld key 8 4)
      { s with job := some { j with plans := j.plans ++ [(s.planInputs j (j.step + k), crc, crc == j.groupPlan)] } }
    | none => s

/-- The group's comparison of an unused group plan (R277): every module's CRC, its own with them, under maximum and minimum. -/
def State.planAgreed (s : State) (j : Job) (mx mn : Word) : Bool :=
  match j.plans.lookup (s.planInputs j j.step) with
  | some (crc, false) => mx == crc && mn == crc
  | _ => true

/-- A plan that the group has compared may be used; one that differs is dropped. -/
def State.settlePlan (s : State) (j : Job) (agreed : Bool) : State :=
  let inp := s.planInputs j j.step
  let ps := if agreed then j.plans.map fun p => if p.1 = inp then (p.1, p.2.1, true) else p else j.plans.filter fun p => p.1 ≠ inp
  { s with job := some { j with plans := ps } }

/-- A variant takes an entry: every die's share is written in it, and then it is valid (R291). -/
def State.placeVariant (s : State) (key : List Byte) (parts : List VariantPart) : State :=
  match s.findVariant key with
  | some _ => s
  | none =>
    match s.freeEntry with
    | none => s
    | some e =>
      if !partsFit parts then s
      else
        let s := computeDies.foldl (fun s d => s.writeRange (dpa d 0 (s.cacheBase + e * 0x1800000)) (dieParts parts d)) s
        ({ s with cache := Store.ins s.cache e { key := key, parts := parts, used := s.cacheClock },
                  cacheClock := s.cacheClock + 1 }).learnPlan key

/-! The precision vector and the schedule (R65, R124, R125, R127, R268). -/

/-- A tensor's format follows a layer's level: weights, activations and activation gradients whose record names none. -/
def TensorRec.byLevel (t : TensorRec) : Bool := t.fmt == 0 && decide (t.kind ≤ 2)

/-- The array mode of a layer's product (Table 5.1): `fh`: binary16 at P4; `weight`: one operand is a weight. -/
def levelMode (lv : Nat) (fh weight : Bool) : Nat :=
  if lv < 2 then 0 else if lv = 2 then (if weight then 1 else 2) else if lv = 3 then 2 else if fh then 4 else 3

/-- The level of a layer in a vector, and whether it takes binary16 at P4. -/
def Graph.levelOf (g : Graph) (v : List Byte) (layer : Nat) : Nat × Bool :=
  let ix := g.layers.findIdx fun l => l.layer = layer
  ((v.getD ix 0).toNat, match g.layers[ix]? with | some l => l.fh | none => false)

/-- The format, in the codes of Table 4.8, that a level gives activations and their gradients (Table 5.1, R125). -/
def levelFmt (lv : Nat) (fh : Bool) : Nat := if lv < 2 then 0 else if lv < 4 then 1 else if fh then 3 else 2

/-- The level of the layer that consumes a tensor (R127), or else of its own layer. -/
def Graph.consumerLevel (g : Graph) (v : List Byte) (t : TensorRec) : Nat × Bool :=
  g.levelOf v (match g.opers.find? fun o => o.ins.contains t.tid with | some o => o.layer | none => t.layer)

/-- The array words of a product agree with the level of its layer (R124). -/
def Graph.productAtLevel (g : Graph) (v : List Byte) (o : OperRec) (b : List Byte) : Bool :=
  let ts := (o.ins.filter (· ≠ 0)).filterMap fun t => g.tensors.find? fun x => x.tid = t
  let (lv, fh) := g.levelOf v o.layer
  let weight := ts.any fun t => t.kind == 0
  o.opc != 1 || !ts.all TensorRec.byLevel || (cmdWords b).all fun w =>
    (awOpc w != opMm && awOpc w != opLds) ||
      (awMode w == levelMode lv fh weight && (awOpc w != opLds || ldsQ4 w == (lv == 0 && weight)))

/-- The converted stores of a command export its tensor, or the operator's first output, in the format of the consuming layer's level
(R127). -/
def Graph.storesAtLevel (g : Graph) (v : List Byte) (o : OperRec) (b : List Byte) : Bool :=
  let tid := if cmdTid b = 0 then o.outs.headD 0 else cmdTid b
  match g.tensors.find? fun t => t.tid = tid with
  | some t =>
    let (lv, fh) := g.consumerLevel v t
    !t.byLevel || t.kind == 0 || (cmdWords b).all fun w => awOpc w != opStore || accKind w != 0 || accFmt w == levelFmt lv fh
  | none => true

/-- The array words of a command agree with the precision vector (R124, R127). -/
def Graph.wordsAtLevel (g : Graph) (v : List Byte) (b : List Byte) : Bool :=
  match g.opers.find? fun o => o.layer = hdrLayer b ∧ o.oper = hdrOper b with
  | some o => g.productAtLevel v o b && g.storesAtLevel v o b
  | none => true

/-- A Chervil request exports in the format that the consuming layer's level gives (R127), and rounds as the CONSUMER record of its
output says, RNE without one (R268). -/
def Graph.exportAtLevel (g : Graph) (v : List Byte) (b : List Byte) : Bool :=
  let opr := slice b 16 48
  let tid := fld opr 43 3
  let w := BitVec.ofNat 32 (fld opr 36 4)
  let round := match g.cons.find? fun c => c.tid = tid ∧ c.layer = hdrLayer b ∧ c.oper = hdrOper b with
    | some c => bits w 25 24 == c.rmode && bits w 23 19 == c.srk && bits w 18 16 == c.lane
    | none => bits w 25 24 == 0
  match g.tensors.find? fun t => t.tid = tid with
  | some t =>
    let (lv, fh) := g.consumerLevel v t
    round && (!t.byLevel || (if lv < 2 then decide (bits w 30 28 < 2) else if lv < 4 then bits w 30 28 == 2 else !fh && bits w 30 28 == 3))
  | none => true

/-- The initial levels of a graph, by layer (R126). -/
def Graph.initial (g : Graph) : List Byte := g.layers.map fun l => BitVec.ofNat 8 l.init

/-- The precision vector that a key's CRC-32 names: of the running step or one of the next two, or the initial levels. -/
def State.keyVector (s : State) (j : Job) (key : List Byte) : Option (List Byte) :=
  (((List.range 3).map fun k => Store.get [] s.gov.vectors (j.step + k)) ++ [j.graph.initial]).find? fun v =>
    crc32 v = BitVec.ofNat 32 (fld key 4 4)

/-- The commands of a build follow the precision vector of its key (R127); the placer emits no other build, and none for a vector that
the module does not have. -/
def State.partsAtLevel (s : State) (key : List Byte) (parts : List VariantPart) : Bool :=
  match s.job with
  | none => true
  | some j =>
    match s.keyVector j key with
    | none => false
    | some v => parts.all fun p => p.templates.all fun t => t.all fun c =>
        if cmdClass c.bytes = 0 then j.graph.wordsAtLevel v c.bytes
        else if cmdClass c.bytes = 2 ∧ cmdOp c.bytes % 8 = 0 then j.graph.exportAtLevel v c.bytes
        else true

/-! Dataflow order (R267). -/

/-- A command with a tick in a build: its operator, the micro-batch, the full tick that its slot gives it (R293, R294). -/
structure Timed where
  layer : Nat
  oper : Nat
  mbid : Nat
  tick : Nat
  deriving DecidableEq, Repr

/-- The commands of a part that wait for a tick. -/
def partTimes (v : VariantPart) : List Timed :=
  v.slots.flatMap fun e => ((v.templates.getD e.tmpl []).filter fun c => cmdTwait c.bytes).map fun c =>
    { layer := hdrLayer c.bytes, oper := hdrOper c.bytes,
      mbid := if c.side.getLsbD 4 then e.mbid.toNat else hdrMbid c.bytes,
      tick := (e.tickBase.toNat + cmdTickLo c.bytes) % 2 ^ 24 }

/-- Operator `o` reads what `p` produces in the same phase. -/
def OperRec.reads (o p : OperRec) : Bool := o.phase == p.phase && p.outs.any fun t => t != 0 && o.ins.contains t

/-- No command of an operator comes before one of an operator that produces its input: for its own micro-batch, or for every one where
the producer sums over them (ACCUM) or the phase has no micro-batches. -/
def Graph.inOrder (g : Graph) (ts : List Timed) : Bool :=
  let of (o : OperRec) : List Timed := ts.filter fun x => x.layer = o.layer ∧ x.oper = o.oper
  g.opers.all fun o => g.opers.all fun p =>
    !o.reads p || (of o).all fun x => (of p).all fun y =>
      decide (y.tick ≤ x.tick) || (x.mbid != y.mbid && o.phase < 2 && !(p.opc == 1 && fld p.attr 1 1 == 1))

/-- A build that the placer emits: it follows its precision vector (R127) and the order of the graph (R267). -/
def State.buildLegal (s : State) (key : List Byte) (parts : List VariantPart) : Bool :=
  s.partsAtLevel key parts && match s.job with
    | some j => j.graph.inOrder (parts.flatMap partTimes)
    | none => true

/-! Scale-tag entries (R110, R111). -/

/-- A tensor's scale word in force: formed for the step, or that of its record. -/
def State.scaleInForce (s : State) (j : Job) (tid : Nat) : Word :=
  match s.gov.scales.lookup tid with
  | some w => w
  | none => match j.tensor tid with | some t => BitVec.ofNat 32 t.scale0 | none => 0

/-- How the writes of a tensor round: as the CONSUMER record of its producer says, or RNE without one (R268). -/
def Graph.rounding (g : Graph) (tid : Nat) : ConsRec :=
  let none_ : ConsRec := { tid := tid, lane := 0, layer := 0, oper := 0, rmode := 0, srk := 0 }
  match g.opers.find? fun o => o.outs.contains tid with
  | some o => (g.cons.find? fun c => c.tid = tid ∧ c.layer = o.layer ∧ c.oper = o.oper).getD none_
  | none => none_

/-- A sprig's schedule writes a scale-tag entry: its three scale words, MUL and SHIFT (R110, R111), and, where it names an output
tensor, that tensor's ID and rounding (R268; log 96). -/
def State.writeTag (s : State) (j : Job) (d p : Nat) (t : TagPlan) : State :=
  let a := s.scaleInForce j t.a.toNat; let b := s.scaleInForce j t.b.toNat; let o := s.scaleInForce j t.o.toNat
  let r := rescaleParams a.toNat b.toNat o.toNat
  let at_ := stagBase p t.entry
  let s := (((s.setReg d at_ a).setReg d (at_ + 4) b).setReg d (at_ + 8) o).setReg d (at_ + 12) (BitVec.ofNat 32 r.1)
  let s := s.setReg d (at_ + 16) (setBits (s.reg d (at_ + 16)) 31 26 r.2)
  if t.o = 0 then s
  else
    let c := j.graph.rounding t.o.toNat
    let w := setBits (setBits (setBits (s.reg d (at_ + 16)) 25 24 c.rmode) 23 19 c.srk) 18 16 c.lane
    (s.setReg d (at_ + 16) w).setReg d (at_ + 20) (setBits (s.reg d (at_ + 20)) 23 0 t.o.toNat)

/-- The scale-tag entries of the running variant are written before its first pass (R110). -/
def State.writeTags (s : State) : State :=
  match s.job with
  | none => s
  | some j => s.runningParts.foldl (fun s v => v.tags.foldl (fun s t => s.writeTag j v.die (s.physOf v.die v.logical) t) s) s

/-! Phases (R286, R287). -/

/-- The phase code that every die shows. -/
def State.showPhase (s : State) (ph : Nat) : State := s.setFs computeDies .GLB_SCHED_STATUS_PHASE ph

/-- The event of a wait that the journal records (R30, R275, R288; log 89). -/
def State.journalWait (s : State) (code ph : Nat) : State := s.journalFault (s.record 0 code [BitVec.ofNat 32 ph])

/-- A boundary waits for its variant (R30, R288): shown, counted and journaled once. -/
def State.variantWait (s : State) (ph : Nat) : State :=
  if s.flag 0 .GLB_SCHED_STATUS_VARWAIT then s
  else (computeDies.foldl (fun s d => (s.setF d .GLB_SCHED_STATUS_VARWAIT 1).count d (dieCtr 12) 1) s).journalWait 1 ph

/-- The variant that a boundary needs, with the substitutions that take place at it, is in the cache. -/
def State.variantReady (s : State) (j : Job) (ph : Nat) : Bool :=
  let s := s.substitute
  (s.findVariant (s.variantKey j j.step ph)).isSome

/-- The journal records the variant ID of each phase as it starts (R290). -/
def State.journalVar (s : State) (ph : Nat) (key : List Byte) : State :=
  match s.journal with
  | some r => { s with journal := some { r with vars := r.vars.set ph (crc32 key) } }
  | none => s

/-- The schedule fetchers of every sprig switch to a phase's variant (R287), or wait for it; commands that they hold are discarded,
since the fetchers read the new variant from its first slot (R174, log 94); at a step's start every command queue's base is 0
(R154). Row groups still undecided belong to the phase that ends. -/
def State.selectVariant (s : State) (j : Job) (ph : Nat) (stepStart : Bool) : State :=
  let s := s.flushGroups
  let key := s.variantKey j j.step ph
  let s : State := match s.findVariant key with
    | some (e, v) =>
      let s := { s with cache := Store.ins s.cache e { v with used := s.cacheClock }, cacheClock := s.cacheClock + 1 }
      let s := (s.setFs computeDies .GLB_SCHED_STATUS_ENTRY e).setFs computeDies ⟨Reg.GLB_SCHED_VAR, 31, 0⟩ (crc32 v.key).toNat
      let s := (s.setFs computeDies .GLB_SCHED_STATUS_VARWAIT 0).journalVar ph key
      { s with job := s.job.map fun k => { k with fetching := true } }
    | none => s.variantWait ph
  s.sprigs.foldl (fun s y =>
    let x := y.2
    let x := { x with fetchPos := 0, fetchTmpl := 0, held := [], fallbacks := [] }
    let x := if stepStart then (List.range 16).foldl (fun x q => x.setQue q { x.que q with tickBase := 0 }) x else x
    s.setSpr (y.1 / 272) (y.1 % 272) x) s

/-- The step-start boundary takes its substitutions, and its forward variant is selected (R170, R287). -/
def State.enterStep (s : State) (j : Job) : State := s.substitute.selectVariant j 0 true

/-! Barriers (R283-R285). -/

/-- GLB_BARRIER_WAIT shows the oldest unreleased barrier with a participant on a die. -/
def State.showBarriers (s : State) : State :=
  computeDies.foldl (fun s d =>
    match s.barriers.find? fun b => b.arrived.any fun a => a.1 / 272 = d with
    | some b => s.setReg d Reg.GLB_BARRIER_WAIT (BitVec.ofNat 32 (2 ^ 31 + b.id))
    | none => s.setReg d Reg.GLB_BARRIER_WAIT 0) s

/-- LEAD of a barrier's scope in ns (R284). -/
def State.barrierLead (s : State) (id : Nat) : Nat :=
  if barScope id = 0 then 32 else if barScope id = 1 then 256 else s.getF 0 .GLB_BARRIER_TMO_GLEAD

/-- The phase that a barrier opens (Table 10.12, R286): the step-start barrier of a step that waits to start, or a barrier of the
boundary's scope that guards a tick of the phase after the running one. -/
def State.opens (s : State) (j : Job) (id : Nat) : Option Nat :=
  let sc := barScope id; let ph := barPhase id
  if s.edge.boundary = some 0 then (if sc = 2 ∧ ph = 0 ∧ barTick id = 0 then some 0 else none)
  else if s.edge.boundary.isNone ∧ ph = j.phase + 1 ∧ sc = (if ph = 3 then 2 else 1) then some ph
  else none

/-! Hangs (R384, R385). -/

/-- The participants of a barrier that have not arrived: the command queue with work of each; every sprig of the running variant
where it plans no such barrier. -/
def State.notArrived (s : State) (id : Nat) : List (Nat × Nat) :=
  (if (s.barParts id).isEmpty then s.runningParts.map fun v => (v.die.val, v.logical.val) else s.missing id).map fun y =>
    let p := s.physOf y.1 y.2
    let q := ((List.range 16).find? fun q => !(s.que y.1 p q).entries.isEmpty).getD 0
    (woEntry (s.qid y.1 p q), s.queWait y.1 p q)

/-- A node of the wait-for graph with what it waits on: a queue. -/
def State.queueNode (s : State) (d p q : Nat) : Nat × Nat := (woEntry (s.qid d p q), s.queWait d p q)

/-- A node of the wait-for graph with what it waits on: a die's engine. -/
def State.engineNode (s : State) (d e : Nat) : Nat × Nat :=
  (woEngine d e, if e < 7 then (s.peek d ((engBlock (engOfIx e)).1 + 0xC)).toNat else 0)

/-- The command queues with work of a sprig: its scalar core fills its DMA and engine-request queues, and takes from its receive and
event queues. -/
def State.coreNodes (s : State) (d p : Nat) : List (Nat × Nat) :=
  ((List.range 16).filter fun q => !(s.que d p q).entries.isEmpty).map (s.queueNode d p)

/-- What fills an event queue: the arrays, the DMA engine and the engines at work on commands that complete there. -/
def State.eventNodes (s : State) (d p q : Nat) : List (Nat × Nat) :=
  ((((s.spr d p).cmds.filter fun c => 56 + cmdCq c.bytes = q).map fun c =>
    let l := (s.logicalOf d p).getD 0
    match cmdClass c.bytes with
    | 0 => (woSlot d l (awArr (cmdA c.bytes)) false 0, s.arrWait d p (awArr (cmdA c.bytes)))
    | 1 => s.engineNode d 9
    | 2 => s.engineNode d (engQueue c.bytes - 48)
    | _ => s.queueNode d p c.q)).eraseDups

/-- The producers of a queue (Table 13.7): of a receive queue, the sprigs with a SEND on its way to it; a command queue has none but
the schedule. -/
def State.producers (s : State) (qid : Nat) : List (Nat × Nat) :=
  let d := qid / 2 ^ 14; let p := s.physOf d (qid / 64 % 256); let q := qid % 64
  if q < 16 then []
  else if q < 32 ∨ 48 ≤ q ∧ q < 56 then s.coreNodes d p
  else if q < 48 then
    s.sprigs.flatMap fun y => (y.2.sends.filter fun x => x.qid = qid ∧ x.module = s.modIx).map fun x => s.queueNode (y.1 / 272) (y.1 % 272) x.q
  else s.eventNodes d p q

/-- The consumers of a queue (Table 13.7). -/
def State.consumers (s : State) (qid : Nat) : List (Nat × Nat) :=
  let d := qid / 2 ^ 14; let p := s.physOf d (qid / 64 % 256); let q := qid % 64
  if q < 16 then [s.queueNode d p q]
  else if q < 32 then [s.engineNode d 9]
  else if 48 ≤ q ∧ q < 55 then [s.engineNode d (q - 48)]
  else if q = 55 then [(11 * 2 ^ 28 + d * 2 ^ 23, 0)]
  else s.coreNodes d p

/-- The nodes that a WAIT_ON value's holders are (Table 13.7), each with what it waits on. Another module's part is written as the
resource that names it. -/
def State.holders (s : State) (w : Nat) : List (Nat × Nat) :=
  let cls := w / 2 ^ 28
  let d := w / 2 ^ 23 % 32
  if cls = 1 then s.producers (w % 2 ^ 18)
  else if cls = 2 then s.consumers (w % 2 ^ 18)
  else if cls = 4 then s.notArrived (w % 2 ^ 28)
  else if cls = 5 then [(w, s.arrWait d (s.physOf d (w / 2 ^ 13 % 256)) (w / 2 ^ 11 % 4))]
  else if cls = 6 then [s.engineNode d (w % 16)]
  else if cls = 7 ∨ cls = 8 then [(11 * 2 ^ 28 + d * 2 ^ 23, 0)]
  else if 9 ≤ cls ∧ cls ≤ 11 then [(w, 0)]
  else []

/-- A WAIT_ON value names a failed part: one of a lost die or an OFFLINE sprig, or a port that is FAILED (R384). -/
def State.namesFailed (s : State) (w : Nat) : Bool :=
  let cls := w / 2 ^ 28
  if cls = 1 ∨ cls = 2 then
    let d := w % 2 ^ 18 / 2 ^ 14
    s.lostDies.contains d || s.offline d (s.physOf d (w / 64 % 256))
  else if cls = 5 then
    let d := w / 2 ^ 23 % 32
    s.lostDies.contains d || s.offline d (s.physOf d (w / 2 ^ 13 % 256))
  else if cls = 9 then s.lostDies.contains (w / 2 ^ 23 % 32) || s.portState (w % 16) == 4
  else (6 ≤ cls && cls ≤ 11 && cls != 10) && s.lostDies.contains (w / 2 ^ 23 % 32)

/-- The chains from a participant: pairs of a node and what it waits on, and whether each is a cycle (R384). -/
def State.hangChains (s : State) : Nat → List (Nat × Nat) → Nat → List (List (Nat × Nat) × Bool)
  | 0, path, _ => [(path, false)]
  | n + 1, path, w =>
    match (if w = 0 ∨ s.namesFailed w then [] else s.holders w) with
    | [] => [(path, false)]
    | hs => hs.flatMap fun h => if path.any fun x => x.1 = h.1 then [(path, true)] else s.hangChains n (path ++ [h]) h.2

/-- The module at the head of a hang chain (R383): this one where a participant of its own has not arrived; else, at a group barrier, a
module below it on the Thyme tree whose arrival has not come. -/
def State.hungModule (s : State) (id : Nat) : Option Nat :=
  match s.job with
  | none => none
  | some j =>
    if !(s.notArrived id).isEmpty then some j.modIx
    else
      let kids := ((s.barriers.find? fun b => b.id = id).map (·.kids)).getD []
      if barScope id = 2 then j.treeKids.find? fun m => !kids.contains m else none

/-- HANG_REPORT (R384, R385): the first cycle found, or the longest chain, which without a participant of this module is the barrier
alone; the event, and in the journal it and its continuation entries. -/
def State.hangReport (s : State) (id : Nat) : State :=
  let chains := (s.notArrived id).flatMap fun p => s.hangChains 255 [p] p.2
  let best : List (Nat × Nat) × Bool := match chains.find? fun c => c.2 with
    | some c => c
    | none => chains.foldl (fun a c => if a.1.length < c.1.length then c else a) ([], false)
  let best := if best.1.isEmpty then ([(woBarrier id, 0)], false) else best
  let n := min 255 best.1.length
  let words (l : List (Nat × Nat)) : List Word := l.flatMap fun x => [BitVec.ofNat 32 x.1, BitVec.ofNat 32 x.2]
  let head := [BitVec.ofNat 32 id, BitVec.ofNat 32 (n + best.2.toNat * 256 + (decide (255 < best.1.length)).toNat * 512)]
  let first := head ++ words (best.1.take 5)
  let s := (s.event 6 0 first).journalFault (s.record 6 0 first)
  let more := (best.1.take 255).drop 5
  let s := (List.range (cdiv more.length 6)).foldl (fun s i =>
    s.journalFault (s.record 6 1 (words ((more.drop (6 * i)).take 6)))) s
  { s with edge := { s.edge with hangHead := s.hungModule id } }

/-- A module that a port reached as an LND-2400 (R25, R303). -/
def State.oldPeer (s : State) (m : Nat) : Bool :=
  (List.range 16).any fun pt => s.getF (16 + pt / 8) (.LNK_PORT_STATUS_GEN (pt % 8)) == 1 &&
    s.getF (16 + pt / 8) (.LNK_PORT_STATUS_PEER_MOD (pt % 8)) == m

end Sys2Proof.Machine
end

