-- ==== Sys2Proof/Machine/LinkOps.lean ====
section
/-! DEFINITION. Frames, routes and ports (R300-R319, R337-R338): the frame of Table 11.4, the sequence ranges of R309,
replay, handover to the twin, the Thyme tree and routes over the fabric map. -/

namespace Sys2Proof.Machine

/-! Ports. -/

/-- Ports that may run Ethernet (R303). -/
def ethCapable (pt : Nat) : Bool := pt = 6 || pt = 7 || pt = 14 || pt = 15
def State.portErr (s : State) (pt bit : Nat) : State :=
  s.setReg (portDie pt) (Reg.LNK_ERR (portIx pt)) (setBits (s.reg (portDie pt) (Reg.LNK_ERR (portIx pt))) bit bit 1)
def State.portCount (s : State) (pt j : Nat) : State := s.count (portDie pt) (portCtr (portIx pt) j) 1

/-! Frames (Table 11.4). -/

def frVer (f : List Byte) : Nat := fldBits f 0 1 7 4
def frType (f : List Byte) : Nat := fldBits f 0 1 3 0
def frVc (f : List Byte) : Nat := fldBits f 1 1 1 0
def frSeq (f : List Byte) : Nat := fld f 2 2
def frAck (f : List Byte) : Nat := fld f 4 2
def frNak (f : List Byte) : Bool := fldBits f 6 1 7 7 = 1
def frDst (f : List Byte) : Nat := fldBits f 8 2 9 0
def frEpoch (f : List Byte) : Nat := fld f 12 2
def frLen (f : List Byte) : Nat := fld f 14 2
def frPayload (f : List Byte) : List Byte := slice f 16 (min 488 (frLen f))
def sequenced (ty : Nat) : Bool := ty = 1 || ty = 3 || ty = 4

/-- A frame before its port fills SEQ, ACK, NK, CR and CRC. -/
def frameOf (ty vc : Nat) (sched : Bool) (dst src epoch : Nat) (payload : List Byte) : List Byte :=
  natLe 1 ty ++ natLe 1 (vc + sched.toNat * 4) ++ List.replicate 6 0 ++ natLe 2 dst ++ natLe 2 src ++ natLe 2 epoch ++
    natLe 2 (min 488 payload.length) ++ slice payload 0 488 ++ List.replicate 8 0

/-- The fields a port fills when a frame leaves. -/
def sealFrame (ver seq ack : Nat) (nak : Bool) (cvc credit : Nat) (f : List Byte) : List Byte :=
  let h := splice (splice f 0 (natLe 1 (frType f + ver * 16))) 2
    (natLe 2 seq ++ natLe 2 ack ++ natLe 1 (nak.toNat * 128) ++ natLe 1 (cvc * 64 + credit % 64))
  splice h 504 (natLe 4 (crc32 (slice h 0 504)).toNat)

/-! The fabric (R314-R316, R318). -/

/-- PARENT_SELECT (R318): the neighbour nearest the root, ties to the lower module index, over the lowest-numbered UP port. -/
def State.thymeParent (s : State) (j : Job) : Option (Nat × Nat) :=
  (j.treeParent j.modIx).bind fun m =>
    ((j.neighbours j.modIx).find? fun n => n.2 = m && s.nativeUp n.1).map fun n => (m, n.1)

/-- The ports that lead to the children: the lowest-numbered UP port to each. -/
def State.childPorts (s : State) (j : Job) : List Nat :=
  let ns := (j.neighbours j.modIx).filter fun n => s.nativeUp n.1
  (((ns.map (·.2)).eraseDups).filter fun m => j.treeParent m = some j.modIx).filterMap fun m =>
    (ns.find? fun n => n.2 = m).map (·.1)

/-- LNK_PORT_STATUS.TMB_PARENT marks the port to the parent. -/
def State.showParent (s : State) (j : Job) : State :=
  let p := (s.thymeParent j).map (·.2)
  (List.range 16).foldl (fun s k => s.setF (portDie k) (.LNK_PORT_STATUS_TMB_PARENT (portIx k)) (p == some k).toNat) s

/-! Queues of frames. -/

/-- A frame joins a port's queue. -/
def State.queueFrame (s : State) (pt vc : Nat) (f : List Byte) : State :=
  s.modPort pt fun x => { x with queue := x.queue ++ [(vc, s.now, f)] }

/-- Pieces of a message behind Fennel's 8-byte sub-header (R324): reduction ID and chunk offset. -/
def fnlPieces (rid : Nat) (bs : List Byte) : List (List Byte) :=
  (List.range (max 1 (cdiv bs.length 480))).map fun i => natLe 4 rid ++ natLe 4 (480 * i) ++ (bs.drop (480 * i)).take 480

/-- Pieces of a copy for another module: the OP beside the reduction ID, the offset, the destination, then data (log 35). -/
def copyPieces (op rid : Nat) (bs : List Byte) : List (List Byte) :=
  let data := bs.drop 8
  (List.range (max 1 (cdiv data.length 472))).map fun i =>
    natLe 4 (rid + op * 2 ^ 28) ++ natLe 4 (472 * i) ++ bs.take 8 ++ (data.drop (472 * i)).take 472

/-- Pieces of an MBID set: behind the sub-header, how many MBIDs the set has, and up to 238 of them (log 35). -/
def setPieces (rid : Nat) (bs : List Byte) : List (List Byte) :=
  (List.range (max 1 (cdiv bs.length 476))).map fun i =>
    natLe 4 (rid + setOp * 2 ^ 28) ++ natLe 4 (476 * i) ++ natLe 4 (bs.length / 2) ++ (bs.drop (476 * i)).take 476

/-- Pieces of what Fennel sends: 120 sum words behind each sub-header (R324), an MBID set, or a copy. -/
def fennelPieces (op rid : Nat) (bs : List Byte) : List (List Byte) :=
  if op = 2 then fnlPieces (rid + 2 * 2 ^ 28) bs else if op = setOp then setPieces rid bs else copyPieces op rid bs

/-- The reduction ID under which drop entries travel (R374; log 35). -/
def dropRid : Nat := 0x0FFFFFFF

/-- The reduction ID of the frames that carry the root's CRC-32 (R383, log 112). -/
def corruptRid : Nat := 0x0FFFFFFE

/-- A stop frame leaves on every native or compatibility port that is UP, but the one on which it arrived (R439). -/
def State.floodStop (s : State) (kind id t : Nat) (arrival : Option Nat) : State :=
  let b := natLe 4 id ++ natLe 8 t ++ natLe 1 kind
  ((List.range 16).filter fun p => s.nativeUp p && some p != arrival).foldl
    (fun s p => s.queueFrame p 3 (frameOf 4 3 false 0x3FF s.modIx 0xFFFF b)) s

/-- What has left for other modules is placed in frames (R316, R319, R374, R439; log 35); what has no route stays. A barrier's arrival
carries the CRC-32s of this module's drop list and next group plan (R277, R374). -/
def State.placeSent (s : State) (j : Job) (x : Sent) : Option State :=
  let own := j.modIx
  let data (vc : Nat) (epoch : Nat) (m : Nat) (ps : List (List Byte)) : Option State :=
    (if vc = 0 then s.schedPort j m else s.routePort j m).map fun p =>
      ps.foldl (fun s b => s.queueFrame p vc (frameOf 1 vc (vc == 0) m own epoch b)) s
  let epoch := s.getF 0 .FNL_EPOCH_EPOCH
  match x with
  | .drops es =>
    some ((j.members.filter (· ≠ own)).foldl (fun s m =>
      match s.routePort j m with
      | some p => (fnlPieces dropRid es.flatten).foldl (fun s b => s.queueFrame p 2 (frameOf 1 2 false m own 0xFFFF b)) s
      | none => s) s)
  | .corrupt crc =>
    some ((j.members.filter (· ≠ own)).foldl (fun s m =>
      match s.routePort j m with
      | some p => (fnlPieces corruptRid (natLe 4 crc.toNat)).foldl (fun s b => s.queueFrame p 2 (frameOf 1 2 false m own 0xFFFF b)) s
      | none => s) s)
  | .barrier k id t =>
    let crcs := if k = 0 then natLe 4 j.dropsCrc.toNat ++ natLe 4 (s.planOf j (j.step + 1)).toNat else []
    let b := natLe 4 id ++ natLe 8 t ++ natLe 1 k ++ crcs
    let par := ((s.thymeParent j).map (·.2)).toList
    let ports := if k = 0 then par else if k = 1 then s.childPorts j else par ++ s.childPorts j
    some (ports.foldl (fun s p => s.queueFrame p 3 (frameOf 3 3 false 0x3FF own 0xFFFF b)) s)
  | .stop k id t a => some (s.floodStop k id t a)
  | .fennel op rid m e vc bs => data vc e m (fennelPieces op rid bs)
  | .send m qid step e => data 1 epoch m [e ++ natLe 4 qid ++ natLe 4 step]
  | .transfer p b => if s.portUp p && s.portGen p = 2 then some (s.queueFrame p 0 b) else none

/-- The outbox goes to the ports' queues; without a job there is no fabric map, and only stop frames have a way. -/
def State.placeOutbox (s : State) : State :=
  match s.job with
  | none =>
    s.outbox.foldl (fun s x => match x with
      | .stop k id t a => s.floodStop k id t a
      | x => { s with outbox := s.outbox ++ [x] }) { s with outbox := [] }
  | some j =>
    let out := s.outbox
    out.foldl (fun s x => match s.placeSent j x with | some s' => s' | none => { s with outbox := s.outbox ++ [x] }) { s with outbox := [] }

/-! Leaving UP (R312). -/

/-- A port's traffic goes to its twin: the frames of its retry buffer that the peer has not received (log 53), then its queue.
The port goes on with the sequence number after the last that the peer has, and takes traffic back at the next group-scope boundary. -/
def State.handover (s : State) (pt : Nat) : State :=
  let x := s.port pt
  let t := twinOf pt
  if s.nativeUp t then
    let kept := if x.retry.isEmpty then [] else x.retry.drop (Config.peerReceived pt x.txSeq % (x.retry.length + 1))
    let frames := kept.map (fun r => (frVc r.2, s.now, r.2)) ++ x.queue
    (s.modPort t fun y => { y with queue := y.queue ++ frames }).setPort pt
      { x with retry := [], queue := [], resend := [], replayFrom := none, replays := 0, away := true,
               txSeq := (x.txSeq + 65536 - kept.length) % 65536 }
  else s

/-- A port whose failed lanes let it train: the spare stands in for one lane of a native port, for none of an Ethernet port
(R302, Table 11.3). -/
def State.canTrain (s : State) (pt : Nat) : Bool :=
  let failed := s.getF (portDie pt) (.LNK_LANE_STATUS_FAILED (portIx pt))
  if s.getF (portDie pt) (.LNK_PORT_CTL_GEN (portIx pt)) = 2 then decide (failed % 256 = 0)
  else decide ((setBitsOf 9 failed).length < 2)

/-- A port retrains (R310, R312): with a failed lane the spare takes its place, and a spare that has failed stands in for none; one that
cannot train is FAILED (R302). -/
def State.startTraining (s : State) (pt : Nat) : State :=
  let d := portDie pt; let k := portIx pt
  let failed := s.getF d (.LNK_LANE_STATUS_FAILED k)
  let s := (s.setPortState pt (if s.canTrain pt then 1 else 4)).modPort pt fun x => { x with trainAt := s.now, repair := none, resend := [], replayFrom := none, replays := 0 }
  match (List.range 8).find? fun i => failed.testBit i with
  | some i => (s.setF d (.LNK_PORT_STATUS_SPARE_USED k) 1).setF d (.LNK_PORT_STATUS_SPARE_FOR k) i
  | none => if failed.testBit 8 then (s.setF d (.LNK_PORT_STATUS_SPARE_USED k) 0).setF d (.LNK_PORT_STATUS_SPARE_FOR k) 0 else s

def State.doRetrain (s : State) (pt : Nat) : State := (s.handover pt).startTraining pt

/-- Routes leave a port that has failed; data frames that its twin could not take go on along the new routes, and those without one
stay (R312, R316). -/
def State.reroute (s : State) (pt : Nat) : State :=
  match s.job with
  | none => s
  | some j =>
    let j := { j with dead := j.dead.filter (· ≠ pt) ++ [pt] }
    let x := s.port pt
    let frames := x.retry.map (fun r => (frVc r.2, s.now, r.2)) ++ x.queue
    let stays (e : Nat × Nat × List Byte) : Bool := frType e.2.2 ≠ 1 || (s.routePort j (frDst e.2.2)).isNone
    let s := { s with job := some j }
    let s := s.setPort pt { x with retry := [], resend := [], replayFrom := none, replays := 0, queue := frames.filter stays,
                                   txSeq := (x.txSeq + 65536 - x.retry.length) % 65536 }
    (frames.filter fun e => !stays e).foldl (fun s e =>
      match s.routePort j (frDst e.2.2) with | some p => s.queueFrame p e.1 e.2.2 | none => s) s

/-- A port is FAILED: the fault is reported, and its traffic goes to its twin (R311, R312); with both ports of the pair failed a
LINK_DIE fault names the die of the port that failed last (Table 13.1). -/
def State.failPort (s : State) (pt : Nat) : State :=
  let s := ((s.handover pt).setPortState pt 4).reroute pt
  let s := s.modPort pt fun x => { x with trainAt := s.now }
  let s := s.ownFault 0x0B (portDie pt) (portIx pt) 0 0 0 (if s.nativeUp (twinOf pt) then 0 else 2)
  if s.portState (twinOf pt) = 4 then s.ownFault 0x0C (portDie pt) 0 0 0 0 2 else s

/-! Replay (R310). -/

/-- The sender replays every unacknowledged frame; after MAXREP replays without progress the port retrains. -/
def State.replayPort (s : State) (pt : Nat) : State :=
  let x := s.port pt
  if s.getF (portDie pt) (.LNK_RETRY_CFG_MAXREP (portIx pt)) ≤ x.replays then s.doRetrain pt
  else s.setPort pt { x with resend := x.retry.map (·.1), replayFrom := some ((x.txSeq + 65535 - x.retry.length) % 65536), replays := x.replays + 1,
                             waitAt := s.now }

/-! Receiving (R307, R309). -/

/-- How far a sequence number lies after another, modulo 2^16. -/
def seqAfter (a b : Nat) : Nat := (a + 65536 - b) % 65536

/-- ACK, NAK and credit of a good frame (R309, R310). -/
def State.honour (s : State) (pt : Nat) (f : List Byte) : State :=
  let x := s.port pt
  let ack := frAck f
  let rest := x.retry.filter fun r => let k := seqAfter r.1 ack; decide (0 < k ∧ k ≤ 4096)
  let vc := fldBits f 7 1 7 6
  let x := { x with credits := x.credits.set vc (x.credits.getD vc 0 + fldBits f 7 1 5 0) }
  let x := if rest.length < x.retry.length then
      { x with retry := rest, resend := x.resend.filter (fun q => rest.any fun r => r.1 = q), replays := 0, waitAt := s.now }
    else x
  let s := s.setPort pt x
  if frNak f then
    if (!x.resend.isEmpty ∧ x.replayFrom = some ack) ∨ rest.isEmpty then s else s.replayPort pt
  else s

/-- A received frame's verdict: bad (with its errors counted and a NAK due), or good with its control fields honoured. -/
def State.receive (s : State) (pt : Nat) (f : List Byte) (fecOk : Bool) : State × Bool :=
  let d := portDie pt; let k := portIx pt
  let inj := s.flag d (.LNK_INJ_CTL_EN k) && s.getF d (.LNK_INJ_CTL_KIND k) = 2 && frType f = 1
  let (s, f) :=
    if inj then
      let x := s.port pt
      let l := lfsrStep x.lfsr
      let s := s.setPort pt { x with lfsr := l }
      if bits l 15 0 < s.getF d (.LNK_INJ_CTL_RATE k) then
        let pos := s.getF d (.LNK_INJ_POS_POS k)
        (s.portCount pt 6, splice f pos (xorBytes (slice f pos 4) (natLe 4 (s.reg d (Reg.LNK_INJ_MASK k)).toNat)))
      else (s, f)
    else (s, f)
  let crcOk := BitVec.ofNat 32 (fld f 504 4) == crc32 (slice f 0 504)
  let ok := fecOk && crcOk && decide (frType f ≤ 5) && (frVer f == 4 || frVer f == 3) && decide (frLen f ≤ 488)
  if ok then (s.honour pt f, true)
  else
    let s := if fecOk then s else (s.portErr pt 1).portCount pt 4
    let s := if fecOk && !crcOk then (s.portErr pt 0).portCount pt 5 else s
    (s.modPort pt fun x => { x with nak := true }, false)

/-- A good sequenced frame against the sequence ranges of R309: whether it is delivered. -/
def State.inOrder (s : State) (pt : Nat) (f : List Byte) : State × Bool :=
  let x := s.port pt
  let k := seqAfter (frSeq f) x.rxSeq
  if k = 1 then
    let x := { x with rxSeq := frSeq f, give := x.give.set (frVc f) (x.give.getD (frVc f) 0 + 1) }
    ((s.setPort pt x).portCount pt 1, true)
  else if k = 0 ∨ 65536 - 4096 < k then (s, false)
  else if k ≤ 4096 then (s.setPort pt { x with nak := true }, false)
  else ((s.portErr pt 4).modPort pt fun x => { x with nak := true }, false)

/-- FRAME_CAPTURE (R441): while the module is stopped, a good sequenced frame goes to the capture buffer until
T + LNK_TMB_DELAY + 256 ns; one that finds it full is discarded. -/
def State.capture (s : State) (pt : Nat) (f : List Byte) (time : Nat) : State :=
  let x := s.port pt
  let d := portDie pt
  let lim := s.stop.target + (s.reg d (Reg.LNK_TMB_DELAY (portIx pt))).toNat / 16 + 256
  if time ≤ lim ∧ x.capture.length < 256 then
    (s.setPort pt { x with capture := x.capture ++ [(time, (s.reg 0 (Reg.SPRG_TICK 0)).toNat, f)] }).portCount pt 7
  else s

end Sys2Proof.Machine
end

