-- ==== Sys2Proof/Machine/AbortOps.lean ====
section
/-! DEFINITION. Ending work: what an abort of a step cancels, the rollback of an update phase, the end of a job (R381, R382,
R389, R406). -/

namespace Sys2Proof.Machine

/-- The last completed step in a response; 0xFFFF_FFFF before the first one is complete (log 43). -/
def Job.lastWord (j : Job) : Word := match j.lastDone with | some x => BitVec.ofNat 32 x | none => 0xFFFFFFFF#32

/-- STEP_COVERAGE_CHECK (R275): each MBID of the step is covered by exactly one entry. -/
def Job.stepCovered (j : Job) (step : Nat) : Bool :=
  (List.range (j.cut.dp * j.cut.mb)).all fun b =>
    ((j.descs.filter fun x => x.step = step ∧ x.lo ≤ b ∧ b ≤ x.lo + x.nm1).length) == 1

/-- Every sprig's queues are cancelled, its commands aborted and its accumulator slots drained (R381). -/
def State.cancelSprigs (s : State) : State :=
  s.sprigs.foldl (fun s y =>
    let d := y.1 / 272; let p := y.1 % 272
    let s := (List.range 56).foldl (fun s q => s.cancelQueue d p q) s
    let s := (List.range 4).foldl (fun s a => (s.abortArray d p a).dropSlots d p a (List.range 32)) s
    let s := (s.spr d p).cmds.foldl (fun s c => s.abortCmd d p c) s
    s.modSpr d p fun x => { x with held := [], fallbacks := [] }) s

/-- Every sprig queue, engine and Fennel request of the step completes with CANCELLED or ABORTED; barriers and deltas go. -/
def State.cancelWork (s : State) : State :=
  let s := { s.cancelSprigs with chvSeen := [] }
  let s := s.setFnl fun f => { f with waits := [], done := [], held := [] }
  let s := computeDies.foldl (fun s d => s.showAon d) s
  { s with barriers := [] }.showBarriers

/-- Work that a reset ends: nothing completes (R406). -/
def State.dropWork (s : State) : State :=
  let clear (x : Nat × Sprig) : Nat × Sprig :=
    (x.1, { x.2 with queues := [], cmds := [], arrs := [], dma := [], sends := [], stalled := [], held := [], fallbacks := [] })
  let s := { s with sprigs := (s.sprigs.map clear).filter (fun x => x.2 ≠ Sprig.fresh), engines := [], chvSeen := [], acc := [], barriers := [],
                    ecc := s.ecc.filter fun x => dpaSpace x.1 < 3,
                    deltas := [], fwInbox := [] }
  s.setFnl fun _ => Fennel.fresh

/-- The bank of a step without what its sources reported (R381). -/
def State.clearBank (s : State) (step : Nat) : State :=
  computeDies.foldl (fun s d => s.setBank d (step % 2) { SageBank.empty with step := step }) s

/-- UPDATE_ABORT_RESTORE (R382): every layer not committed returns to its state before the update: the current value XOR its
staged partition, which is cleared. -/
def State.restoreUncommitted (s : State) : State :=
  let s := s.deltas.foldl (fun s x => s.deliver x) { s with deltas := [] }
  let s := s.parts.foldl (fun s y =>
    let h := y.1 / 16; let src := y.1 % 16
    let s := y.2.touched.foldl (fun s r =>
      let a := dpa src 0 (s.parBase + r * 4096)
      let g := s.stgAddr src r 0
      let (s, ok, x) := s.readRange a 4096
      let (s, ok', y) := s.readRange g 4096
      let s := if ok && ok' then s.writeRange a (xorBytes x y) else s
      { s with mem := Store.clear s.mem g (g + 4096) }) s
    s.setPart h src StgPart.clear) s
  let uncommitted (d : Nat) (x : SagePart) : Bool :=
    x.mbid.isNone && x.src == 0 && match s.job with
      | some j => match j.tensor x.tid with
        | some t => !s.edge.committed.contains (d, t.layer)
        | none => false
      | none => false
  let step := match s.job with | some j => j.step | none => 0
  computeDies.foldl (fun s d =>
    let b := s.bank d (step % 2)
    s.setBank d (step % 2) { b with parts := b.parts.filter fun x => !uncommitted d x }) s

/-- The job ends (Table 12.7, JOB_END; R389): outstanding changes of its rule set and freeze table are aborted, and the freeze
table is no longer kept. -/
def State.endJob (s : State) : State :=
  let s := s.finishOps [0x14, 0x20, 0x21, 0x22, 0x23, 0x30, 0x50] rcAborted []
  let s := { s with job := none, journal := none, barriers := [],
                    gov := { s.gov with tent := none, tentIn := false, freezeTent := none, freezeIn := false, freeze := [], frozen := [] },
                    edge := { s.edge with boundary := none, abortAt := none, ckpt := none, replay := none, reshard := none,
                                          xfers := [], tick0 := [], rerun := false, committed := [], ahead := [], waits := [],
                                          compat := false } }
  let s := (s.setFs computeDies .UPD_FRZ_COUNT_COUNT 0).setFs (computeDies ++ linkDies) .FNL_STATUS_FENCE 0
  (((s.setF 18 .JRN_STATUS_OPEN 0).setF 18 .JRN_STATUS_REPLAY 0).setF 18 .JRN_STATUS_STOPPED 0).showBarriers

/-! Control dies (R27, R378, R379). -/

/-- The roles of the control dies swap (R27): the twin is active and drives Thyme; TWIN clears until the other rejoins. -/
def State.swapControl (s : State) : State :=
  let on := s.activeK; let off := 37 - on
  let s := ((s.setF on .GLB_ROLE_ACTIVE 0).setF off .GLB_ROLE_ACTIVE 1).setF on .TMB_STATUS_MASTER 0
  ((s.setF off .TMB_STATUS_MASTER 1).countK 6 1).setReadyBit 7 false

/-- The planned failover of a firmware update (Table 13.5) happens at a step boundary, or at once without a running job. -/
def State.plannedFailover (s : State) : State :=
  if s.edge.fw.stage = 2 then
    { s.swapControl with edge := { s.swapControl.edge with fw := { s.edge.fw with stage := 3 } } }
  else s

/-! Modules (R312, R370, R377). -/

/-- The drop entries that the loss of a module, or of a share of its exchange buffer, adds before the update phase: all of its
pipeline's MBIDs from its own stages. -/
def Job.lossDrops (j : Job) (m cause fidx : Nat) : List Drop :=
  if j.running ∧ j.phase ≤ 2 then
    let c := j.coords m
    [{ lo := c.1 * j.cut.mb, nm1 := j.cut.mb - 1, stage0 := c.2.1, stride := j.cut.pp, n := j.cut.v, cause := cause, fidx := fidx }]
  else []

/-- The units of a lost module in the phase are skipped (R370); how many it had completed is not known here, and all of them count
(DESIGN CHOICE, log 119): forward, its pipeline's MBIDs leave every stage; backward, stages 0 to its last. -/
def Job.skipModule (j : Job) (m fidx : Nat) : List Drop :=
  let c := j.coords m
  let n := if j.phase = 0 then j.cut.pp * j.cut.v else (j.cut.v - 1) * j.cut.pp + c.2.1 + 1
  if j.running ∧ j.phase ≤ 1 then
    [{ lo := c.1 * j.cut.mb, nm1 := j.cut.mb - 1, stage0 := 0, stride := 1, n := n, cause := 0x20, fidx := fidx }]
  else []

/-- A module of the group is lost (code 0x20): the event, its drop entries, its frames; routes and the Thyme tree leave it. -/
def State.loseModule (s : State) (m : Nat) : State :=
  if s.lostMods.contains m then s
  else
    match s.job with
    | none => ({ s with lostMods := s.lostMods ++ [m] }).fault 0x20 0 0 m 0 0 0 1
    | some j =>
      let ds := if s.replaying ∨ s.dropsClosed j ∨ s.edge.boundary = some 0 then []
        else j.lossDrops m 0x20 s.faultIndex ++ j.skipModule m s.faultIndex
      let s := { s with lostMods := s.lostMods ++ [m], job := some { j with members := j.members.filter (· ≠ m) },
                        edge := { s.edge with compat := s.edge.compat || s.oldPeer m || j.old.contains m } }
      let s := (s.fault 0x20 0 0 m ds.length 0 0 1).addDrops ds
      let s := s.setFnl fun f => { f with held := f.held.filter fun h => fldBits h.2.2 10 2 9 0 ≠ m }
      let clear (x : PortS) : PortS := { x with retry := [], queue := [], resend := [], replayFrom := none }
      (List.range 16).foldl (fun s pt =>
        if s.getF (16 + pt / 8) (.LNK_PORT_STATUS_PEER_MOD (pt % 8)) = m then
          { s with edge := { s.edge with ports := Store.set PortS.fresh s.edge.ports pt (clear (Store.get PortS.fresh s.edge.ports pt)) } }
        else s) s

end Sys2Proof.Machine
end

