-- ==== Sys2Proof/Machine/Memory.lean ====
section
/-! DEFINITION. Memory: reads, partial writes, scrub, parity regeneration, arbiters (R244-R264). -/

namespace Sys2Proof.Machine

/-- The address of a byte of a protected memory (R239): accumulator and queue memory of a sprig take spaces 3 and 4. -/
def memDpa (d : Nat) : MemSpace → Nat → Nat
  | .dram, o => dpa d 0 o
  | .shared, o => dpa d 1 o
  | .sprig p, o => sramDpa d p o
  | .acc p, o => dpa d 3 (p * 0x100000 + o)
  | .queue p, o => queDpa d p 0 0 + o

/-- The populated bytes of a protected memory (R3, R234, R235, R239): of a sprig's, those of a sprig that is not offline. -/
def State.populated (s : State) (d : Nat) : MemSpace → Nat
  | .dram => s.dramSize
  | .shared => 0x4000000
  | .sprig p => if s.offline d p then 0 else sramSize
  | .acc p => if s.offline d p then 0 else 0x80000
  | .queue p => if s.offline d p then 0 else 0x40000

/-- An access that touches a byte outside the populated range moves no data, and MEM_ERR.UNMAPPED sets (R235; log 120). -/
def State.ifPopulated (s : State) (d : Nat) (sp : MemSpace) (off n : Nat) (f : State → State) : State :=
  if off + n ≤ s.populated d sp then f s else s.setF d .MEM_ERR_UNMAPPED 1

/-- Bits of a stored codeword flip. -/
def State.upset (s : State) (a : Nat) (u : Upset) : State :=
  if u = [] then s else s.setDev a ((codeAt a).norm (s.dev a ++ u))

/-- MEMORY_READ (R245-R251): a codeword is read and decoded; a single or, where the mode allows, a double error is
corrected, DRAM of the stripe is rebuilt, and the rest is poisoned and reported. -/
def execMemoryRead (d : CDie) (sp : MemSpace) (off : BitVec 44) (upset : Upset) (s : State) : Out :=
  let a := memDpa d sp off.toNat
  .next (s.ifPopulated d sp off.toNat 1 fun s => ((s.upset a upset).cwRead 0 a).1)

/-- PARTIAL_WRITE (R248): a write shorter than a codeword reads, merges and writes back. -/
def execPartialWrite (d : CDie) (sp : MemSpace) (off : BitVec 44) (data : List Byte) (upset : Upset) (s : State) : Out :=
  let a := memDpa d sp off.toNat
  .next (s.ifPopulated d sp off.toNat data.length fun s => ((s.upset a upset).requestWrite a data).1)

/-- Scrub reads codewords from an address. -/
def State.scrubFrom (s : State) (a step : Nat) (us : List (Nat × Upset)) (n : Nat) : State :=
  (List.range n).foldl (fun s i =>
    let c := a + i * step
    let u := (us.filter fun x => x.1 = i).flatMap (·.2)
    ((s.upset c u).cwRead 1 c).1) s

/-- SCRUB_BURST (R252): one 4 KiB burst of the stack, in increasing offset. -/
def execScrubBurst (d : CDie) (upsets : List (Fin 64 × Upset)) (s : State) : Out :=
  .next <|
    if s.frozen || !s.flag d .MEM_SCRUB_CFG_EN then s
    else
      let pos := s.getF d .MEM_SCRUB_POS_POS
      let s := s.scrubFrom (dpa d 0 (pos * 4096)) 64 (upsets.map fun x => (x.1.val, x.2)) 64
      if s.dramSize ≤ (pos + 1) * 4096 then (s.setF d .MEM_SCRUB_POS_POS 0).count d (dieCtr 17) 1
      else s.setF d .MEM_SCRUB_POS_POS (pos + 1)

/-- Bursts of shared and sprig SRAM: 16,384 and 272 x 192. -/
def sramBursts : Nat := 16384 + 272 * 192

/-- The first byte of an SRAM burst. -/
def sramBurstDpa (d n : Nat) : Nat :=
  if n < 16384 then dpa d 1 (n * 4096) else sramDpa d ((n - 16384) / 192) ((n - 16384) % 192 * 4096)

/-- SRAM_SCRUB_BURST (R252): one 4 KiB burst of shared or sprig SRAM. -/
def execSramScrubBurst (d : CDie) (upsets : List (Fin 128 × Upset)) (s : State) : Out :=
  .next <|
    if s.frozen || !s.flag d .MEM_SCRUB_CFG_EN then s
    else
      let pos := Store.get 0 s.edge.sramPos d
      let s := s.scrubFrom (sramBurstDpa d pos) 32 (upsets.map fun x => (x.1.val, x.2)) 128
      { s with edge := { s.edge with sramPos := Store.set 0 s.edge.sramPos d ((pos + 1) % sramBursts) } }

/-- One row's parity is regenerated (R260). -/
def State.regenerateRow (s : State) (r : Nat) : State :=
  let pd := s.parityDie r
  let at_ (d : Nat) : Nat := dpa d 0 (s.parBase + r * 4096)
  let data := s.stripe.filter (· ≠ pd)
  let (s, p) := data.foldl (fun (acc : State × List Byte) d =>
    let (s, _, b) := acc.1.readRange (at_ d) 4096
    (s, xorBytes acc.2 b)) (s, List.replicate 4096 0)
  let s := s.writeRange (at_ pd) p
  let s := (List.range 16).foldl (fun s j =>
    let x := s.part pd j
    let a := s.stgAddr j r 0
    let rest := x.touched.filter (· ≠ r)
    { s with mem := Store.clear s.mem a (a + 4096), ecc := Store.clear s.ecc a (a + 4096) }.setPart pd j
      (if rest.isEmpty then StgPart.clear else { x with touched := rest })) s
  { s with unprotected := s.unprotected.filter (· ≠ r) }

/-- Rows are regenerated, in order. -/
def State.regenerate (s : State) (first last : Nat) : State :=
  (List.range (last + 1 - first)).foldl (fun s i =>
    if first + i < s.parBlocks * s.stripe.length then s.regenerateRow (first + i) else s) s

/-- The whole region is regenerated. -/
def State.regenerateAll (s : State) : State := s.regenerate 0 (s.parBlocks * s.stripe.length - 1)

/-- PARITY_REGENERATION (R260): the parity units of a range of rows are written from the data. -/
def execParityRegeneration (first last : Nat) (s : State) : Out := .next (s.regenerate first last)

/-- The age limit of an arbiter's kind (MEM_AGE_CFG), in ns. -/
def State.ageLimit (s : State) : Arbiter → Nat
  | .channel d _ => 64 * s.getF d .MEM_AGE_CFG_DRAM
  | .sharedBank d _ => 64 * s.getF d .MEM_AGE_CFG_SRAM
  | .bridge d _ => 64 * s.getF d .MEM_AGE_CFG_BRIDGE

/-- REQUEST_URGENT (R262): the age of a requester's oldest unscheduled request reaches its arbiter's limit, and the request is
urgent until its grant. One that the arbiter has not granted before reached its queue's head one limit ago. -/
def execRequestUrgent (arb : Arbiter) (req : ArbReq) (s : State) : Out :=
  .next <|
    let cur := ((s.edge.arbs.find? fun x => x.1 = arb).map (·.2)).getD []
    let limit := s.ageLimit arb
    let since := match cur.find? fun x => x.req.requester = req.requester with
      | some x => x.since
      | none => s.now - limit
    let s := s.advanceTo (since + limit)
    let new := (cur.filter fun x => x.req.requester ≠ req.requester) ++ [{ req := req, since := since, urgent := true }]
    { s with edge := { s.edge with arbs := (s.edge.arbs.filter fun x => x.1 ≠ arb) ++ [(arb, new)] } }

end Sys2Proof.Machine
end

