-- ==== Sys2Proof/Machine/Records.lean ====
section
/-! DEFINITION. Statistics records: the 64-byte records that a die part forms in shared SRAM when its bank closes, and how Fennel
combines them (R130-R135, R467). -/

namespace Sys2Proof.Machine

/-- An EXCHANGE operator produces the tensor: its elements are the group's means (R322). -/
def Job.exchanged (j : Job) (t : TensorRec) : Bool := j.graph.opers.any fun o => o.opc == 8 && o.outs.contains t.tid

/-- A tensor is held as identical replicas across data-parallel modules (R131): weights, moments, master weights, and the means that
an EXCHANGE produces; the weight gradients of a replica's own micro-batches are its own (log 103). -/
def isReplicated (j : Job) (t : TensorRec) : Bool :=
  decide (1 < j.cut.dp ∨ 1 < j.cut.cp) && (t.kind == 0 || t.kind == 4 || t.kind == 5 || (t.kind == 3 && j.exchanged t))

/-- The parts of a tensor that count (R130): those of contributing micro-batches, and what no micro-batch made. -/
def countedParts (j : Job) (tid : Nat) (ps : List SagePart) : List SagePart :=
  let c := j.contributing tid
  ps.filter fun p => p.tid == tid && match p.mbid with | none => true | some b => c.contains b

/-- The ID, STEP and LAYER words of a record (Table 5.3). -/
def State.recordWords (s : State) (j : Job) (step : Nat) (t : TensorRec) (sat : Bool) : List Byte :=
  let ix := j.graph.layers.findIdx fun l => l.layer = t.layer
  let pinned := s.gov.rules.pins.any fun p => p.1 = t.layer
  natLe 4 (t.tid + t.kind * 2 ^ 24 + sat.toNat * 2 ^ 28 + (isReplicated j t).toNat * 2 ^ 29) ++ natLe 4 step ++
    natLe 4 (t.layer + s.levelAt step ix * 2 ^ 20 + pinned.toNat * 2 ^ 23)

/-- A record of what was reported (Table 5.3, R133). MBCOUNT is the number of micro-batches, 0 where none made the elements
(DESIGN CHOICE, log 104). -/
def State.recordOf (s : State) (j : Job) (step : Nat) (t : TensorRec) (mbs : Nat) (r : Report) : List Byte :=
  s.recordWords j step t (r.saturates || decide (0xFFFF < mbs)) ++ natLe 2 r.amax ++ natLe 2 (satAt 16 mbs) ++
    natLe 6 (satAt 48 r.elems) ++ natLe 6 (satAt 48 r.clips) ++ natLe 6 (satAt 48 r.outl) ++ natLe 4 (satAt 32 r.ovf) ++
    natLe 4 (satAt 32 r.poison) ++ natLe 6 (satAt 48 r.zeros) ++ natLe 6 (if t.kind = 5 then satAt 48 r.lost else 0) ++ [0, 0] ++
    List.replicate 8 0

/-- The measured tensors in increasing ID. -/
def Graph.measured (g : Graph) : List TensorRec :=
  (g.tensors.filter (·.measured)).mergeSort fun a b => decide (a.tid ≤ b.tid)

/-- Where record `i` of a bank lies: 8,192 records a bank from SAGE_REC_BASE (R134). -/
def State.recAddr (s : State) (d bank i : Nat) : Nat :=
  dpa d 1 (s.getF d .SAGE_REC_BASE_BASE * 2 ^ 20 + bank * 0x80000 + 64 * i)

/-- The partial records of a die part's bank, in increasing tensor ID: of each measured tensor that it holds parts of. -/
def State.partials (s : State) (j : Job) (d step : Nat) : List (List Byte) :=
  let b := s.bank d (step % 2)
  j.graph.measured.filterMap fun t =>
    let ps := countedParts j t.tid b.parts
    if ps.isEmpty then none
    else some (s.recordOf j step t ((ps.filterMap (·.mbid)).eraseDups).length (partsReport ps))

/-- SAGE_BANK_CLOSE (R130, R134): the step's drop list is final; its banks close, their partial records stand in shared SRAM, and are
reduced. -/
def State.closeSage (s : State) : State :=
  match s.job with
  | none => s
  | some j =>
    computeDies.foldl (fun s d =>
      let b := s.bank d (j.step % 2)
      let s := if b.step = j.step then
          let rs := s.partials j d j.step
          (s.writeRange (s.recAddr d (j.step % 2) 0) rs.flatten).setBank d (j.step % 2) { b with recs := rs.length }
        else s
      (s.setF d .SAGE_STATUS_OPEN 0).setF d .SAGE_STATUS_REDUCING 1) s

/-- The partial records of a step that a die part has formed. -/
def State.dieRecords (s : State) (d step : Nat) : List (List Byte) :=
  let b := s.bank d (step % 2)
  if b.step = step then (List.range b.recs).map fun i => s.view (s.recAddr d (step % 2) i) 64 else []

/-- Two records of one tensor combine (Table 5.5). -/
def mergeRecords (a b : List Byte) : List Byte :=
  let add (i n : Nat) : Nat := fld a i n + fld b i n
  let fits (i n : Nat) : Bool := decide (2 ^ (8 * n) ≤ add i n)
  let put (i n : Nat) : List Byte := natLe n (satAt (8 * n) (add i n))
  let sat := fldBits a 0 4 28 28 = 1 ∨ fldBits b 0 4 28 28 = 1 ∨
    fits 14 2 ∨ fits 16 6 ∨ fits 22 6 ∨ fits 28 6 ∨ fits 34 4 ∨ fits 38 4 ∨ fits 42 6 ∨ fits 48 6
  let id := fld a 0 4 - fldBits a 0 4 28 28 * 2 ^ 28 + (if sat then 2 ^ 28 else 0)
  natLe 4 id ++ slice a 4 8 ++ natLe 2 (l16Max (fld a 12 2) (fld b 12 2)) ++ put 14 2 ++ put 16 6 ++ put 22 6 ++
    put 28 6 ++ put 34 4 ++ put 38 4 ++ put 42 6 ++ put 48 6 ++ slice a 54 10

/-- ID (less SAT), STEP and LAYER agree (R135). -/
def sameRecord (a b : List Byte) : Bool :=
  fldBits a 0 4 27 0 == fldBits b 0 4 27 0 && fldBits a 0 4 29 29 == fldBits b 0 4 29 29 && slice a 4 8 == slice b 4 8

/-- The replica of a shard that counts (R131): of the modules that hold it, the one of lowest data-parallel index, and of lowest
context-parallel index among those (log 103). -/
def Job.lowest (j : Job) (m : Nat) (ms : List Nat) : Bool :=
  let a := j.coords m
  ms.all fun k =>
    let b := j.coords k
    !(a.2.1 == b.2.1 && a.2.2.1 == b.2.2.1 && decide (b.1 < a.1 ∨ (b.1 = a.1 ∧ b.2.2.2 < a.2.2.2)))

/-- Of the modules that hold a replicated tensor, those that R131 takes. -/
def lowestReplicas (j : Job) (ms : List Nat) : List Nat := ms.filter fun m => j.lowest m ms

/-- The record of one tensor among records. -/
def recordFor (tid : Nat) (rs : List (List Byte)) : Option (List Byte) := rs.find? fun r => fldBits r 0 4 23 0 = tid

/-- This module's reduced record of a tensor for a step (R135), and whether its partials disagreed. -/
def State.moduleRecord (s : State) (j : Job) (step : Nat) (t : TensorRec) : List Byte × Bool :=
  match computeDies.filterMap fun d => recordFor t.tid (s.dieRecords d step) with
  | [] => (s.recordOf j step t 0 Report.none, false)
  | r :: rs => (rs.foldl mergeRecords r, rs.any fun x => !sameRecord r x)

/-- Tree nodes from modules, each taken once from the replica of lowest data-parallel index (R467). -/
def uniqueNodes (j : Job) (ns : List (Nat × (Nat × Bool × Nat × Nat × Word))) : List (Nat × Bool × Nat × Nat × Word) :=
  let key (n : Nat × Bool × Nat × Nat × Word) := (n.1, n.2.1, n.2.2.1, n.2.2.2.1)
  (ns.filter fun x => ns.all fun y => !(key x.2 == key y.2 && decide ((j.coords y.1).1 < (j.coords x.1).1))).foldl
    (fun acc x => if acc.any (fun y => key y == key x.2) then acc else acc ++ [x.2]) []

/-- The value of a node of the R59 tree over `chunks` chunks: what was sent, or formed from its children. -/
def nodeValue (ns : List (Nat × Bool × Nat × Nat × Word)) (tid : Nat) (w : Bool) (chunks : Nat) : Nat → Nat → Nat
  | level, i =>
    match ns.find? fun n => n.1 = tid ∧ n.2.1 = w ∧ n.2.2.1 = level ∧ n.2.2.2.1 = i with
    | some n => n.2.2.2.2.toNat
    | none =>
      match level with
      | 0 => 0
      | l + 1 =>
        let a := nodeValue ns tid w chunks l (2 * i)
        if 2 * i + 1 < cdiv chunks (2 ^ l) then fadd32 a (nodeValue ns tid w chunks l (2 * i + 1)) else a

/-- The root over a tensor's elements. -/
def rootValue (ns : List (Nat × Bool × Nat × Nat × Word)) (t : TensorRec) (w : Bool) : Nat :=
  let elems := (t.dims.filter (· ≠ 0)).foldl (· * ·) 1
  let chunks := cdiv elems 16
  nodeValue ns t.tid w chunks (if chunks ≤ 1 then 0 else Nat.log2 (chunks - 1) + 1) 0

/-- The group-reduced records of a step in increasing tensor ID, and whether any partials disagreed (R135). -/
def State.groupRecords (s : State) (j : Job) (step : Nat) (peers : List PeerRecs) : List (List Byte) × Bool :=
  let ms := j.modIx :: peers.map (·.module)
  let ts := j.graph.measured
  let own := computeDies.flatMap fun d => let b := s.bank d (step % 2); if b.step = step then b.nodes else []
  let nodes := uniqueNodes j (own.map (fun n => (j.modIx, n)) ++ peers.flatMap fun p => p.nodes.map fun n => (p.module, n))
  let one (t : TensorRec) : List Byte × Bool :=
    let low := lowestReplicas j ms
    let (mine, odd) := s.moduleRecord j step t
    let theirs := peers.filterMap fun p => (recordFor t.tid p.records).map fun r => (p.module, r)
    let all := (j.modIx, mine) :: theirs
    let bad := odd || theirs.any fun x => !sameRecord mine x.2
    let used := if isReplicated j t then all.filter fun x => low.contains x.1 else all
    let r := match used with | [] => mine | x :: xs => xs.foldl (fun a y => mergeRecords a y.2) x.2
    let r := if t.kind = 5 then splice (splice r 56 (natLe 4 (rootValue nodes t false))) 60 (natLe 4 (rootValue nodes t true)) else r
    (r, bad)
  let rs := ts.map one
  (rs.map (·.1), rs.any (·.2))

/-- The AMAX of every measured tensor has been reduced for a step (R110, R136). -/
def State.amaxIn (s : State) (j : Job) (step : Nat) : Bool :=
  j.graph.measured.all fun t => (Store.get [] s.gov.amax t.tid).any fun x => x.1 = step

end Sys2Proof.Machine
end

