-- ==== Sys2Proof/Machine/CkptOps.lean ====
section
/-! DEFINITION. Checkpoints: images, references, writing and restoring them (R393-R396). -/

namespace Sys2Proof.Machine

/-- This module owns what it holds in the replica that R131 chooses (R394). -/
def Job.owns (j : Job) : Bool := j.lowest j.modIx j.members

/-- The layout's ranges of a die, split at 2^32 - 1 elements (R394). -/
def splitRange (r : Nat × Nat × Nat × Nat) (w : Nat) : List (Nat × Nat × Nat × Nat) :=
  (List.range (cdiv r.2.2.1 (2 ^ 32 - 1))).map fun i =>
    (r.1, r.2.1 + i * (2 ^ 32 - 1), min (2 ^ 32 - 1) (r.2.2.1 - i * (2 ^ 32 - 1)), r.2.2.2 + i * (2 ^ 32 - 1) * w)

/-- Parts of what dies hold, read one after the other. -/
def State.gather {α β : Type} (s : State) (xs : List α) (f : State → α → State × List β) : State × List β :=
  xs.foldl (fun (acc : State × List β) x =>
    let (s, b) := f acc.1 x
    (s, acc.2 ++ b)) (s, [])

/-- What a die holds of the persistent state, read as sections: KIND, TID, INDEX, COUNT, data. -/
def State.layoutSections (s : State) (j : Job) (d : Nat) : State × List (Nat × Nat × Nat × Nat × List Byte) :=
  if !s.stripe.contains d then (s, [])
  else
    let parts := (Config.persistRanges j.groupPlan s.stripe d).flatMap fun r => splitRange r (j.storedBytes r.1)
    s.gather parts fun s x =>
      let (s, b) := s.logBytes d x.2.2.2 (x.2.2.1 * j.storedBytes x.1)
      (s, [(1, x.1, x.2.1, x.2.2.1, b)])

/-- This module's data units, each with its row's parity member and its place in the group's rows (R330). -/
def State.ownUnits (s : State) (j : Job) : State × List (Nat × Nat × List Byte) :=
  match j.groupOf j.modIx with
  | none => (s, [])
  | some g =>
    let (s, secs) := s.gather computeDies fun s d => s.layoutSections j d
    (s, secs.flatMap fun x => deltaParts g j.modIx (j.groupBase j.modIx x.2.1 + x.2.2.1 * j.storedBytes x.2.1) x.2.2.2.2)

/-- Data units leave whole for the parity members of their rows (log 117). -/
def State.sendUnits (s : State) (rid : Nat) (us : List (Nat × Nat × List Byte)) : State :=
  let e := s.getF 0 .FNL_EPOCH_EPOCH
  { s with outbox := s.outbox ++ us.map fun x => Sent.fennel 6 rid x.1 e 0 (natLe 8 x.2.1 ++ x.2.2) }

/-- The groups have formed: every data unit of this module goes to its row's parity member (R330). -/
def State.formParity (s : State) (j : Job) : State :=
  let (s, us) := s.ownUnits j
  s.sendUnits formRid us

/-- From a step's start the parity groups are those of the survivors (R330, R377): where they change, parity forms anew. -/
def State.regroup (s : State) (j : Job) : State :=
  let k := j.formGroups
  if k.groups = j.groups then s
  else ({ s with job := some k }.setFnl fun f => { f with parity := [], staged := [] }).formParity k

/-- The tensor sections of a die's image. -/
def State.tensorSections (s : State) (j : Job) (d : Nat) : State × List (Nat × Nat × Nat × Nat × List Byte) :=
  if j.owns then s.layoutSections j d else (s, [])

/-- The job sections of C0's image (R394). -/
def State.jobSections (s : State) (j : Job) (step : Nat) : List (Nat × Nat × Nat × Nat × List Byte) :=
  let ls := j.graph.layers
  let gov := (List.range ls.length).flatMap fun i =>
    match ls[i]? with
    | some l => natLe 8 (l.layer + s.levelAt (step + 1) i * 2 ^ 20 + s.levelAt (step + 2) i * 2 ^ 23 +
        Store.get 0 s.gov.quiet l.layer * 2 ^ 32)
    | none => []
  let hist := (j.graph.tensors.filter (·.measured)).flatMap fun t =>
    let h := Store.get [] s.gov.amax t.tid
    let cell (k : Nat) : List Byte := natLe 2 (((h.find? fun x => x.1 + 15 = step + k).map (·.2)).getD 0)
    natLe 3 t.tid ++ natLe 1 (h.filter fun x => x.1 ≤ step ∧ step < x.1 + 16).length ++ (List.range 16).flatMap cell ++ natLe 4 0
  let frz := s.gov.freeze.flatMap fun e => e.1 ++ (if e.2.isEmpty then [] else natLe 4 e.2.length ++ e.2)
  let pos := natLe 4 j.s0 ++ natLe 4 (step + 1) ++ natLe 4 j.covered
  let sec (k : Nat) (b : List Byte) := (k, 0, 0, b.length, b)
  [sec 2 gov, sec 3 hist, sec 4 s.gov.rules.bytes, sec 5 frz, sec 6 pos]

/-- The image of a die: header with directory, then the section data. -/
def State.image (s : State) (j : Job) (d step : Nat) : State × List Byte × List Byte :=
  let (s, tensors) := s.tensorSections j d
  let secs := tensors ++ (if d = 0 then s.jobSections j step else [])
  let base := 64 + 32 * secs.length
  let dir := (secs.foldl (fun (acc : List Byte × Nat) x =>
    let e := natLe 1 x.1 ++ natLe 3 x.2.1 ++ natLe 4 0 ++ natLe 8 x.2.2.1 ++ natLe 4 x.2.2.2.1 ++ natLe 8 acc.2 ++
      natLe 4 (crc32 x.2.2.2.2).toNat
    (acc.1 ++ e, acc.2 + x.2.2.2.2.length)) ([], base)).1
  let data := secs.flatMap fun x => x.2.2.2.2
  let head := natLe 2 1 ++ natLe 2 d ++ natLe 4 j.modIx ++ natLe 4 step ++ natLe 4 secs.length ++
    natLe 8 (base + data.length) ++ List.replicate 36 0
  (s, head ++ natLe 4 (crc32 (head ++ dir)).toNat ++ dir, data)

/-- Bytes 0-23 of the cut declaration (Table 10.9). -/
def Cut.head (c : Cut) : List Byte := slice c.bytes 0 24

/-- The reference of a checkpoint (Table 13.10). -/
def refBytes (j : Job) (eth compat : Bool) (step epoch : Nat) (graph dir : Word) (loc : Nat) (store : List Byte) : List Byte :=
  let h := natLe 2 1 ++ natLe 2 (1 + eth.toNat * 2 + compat.toNat * 4) ++ natLe 4 step ++ natLe 8 j.seed.toNat ++ natLe 2 epoch ++
    natLe 2 j.cut.group ++ natLe 2 j.modIx ++ natLe 2 0 ++ natLe 4 graph.toNat ++ natLe 4 dir.toNat ++ j.cut.head ++
    natLe 8 loc ++ slice store 0 64 ++ List.replicate 124 0
  h ++ natLe 4 (crc32 h).toNat

/-- The Ethernet ports of the module in the order a transfer tries them. -/
def ethPorts : List Nat := [6, 7, 14, 15]

/-- An Ethernet port that is up and runs Ethernet. -/
def State.ethUp (s : State) (p : Nat) : Bool :=
  s.getF (16 + p / 8) (.LNK_PORT_STATUS_STATE (p % 8)) = 2 && s.getF (16 + p / 8) (.LNK_PORT_STATUS_GEN (p % 8)) = 2

/-- The checkpoint of step s0 is written (R393): images and reference at once in DRAM; over Ethernet as transfers. -/
def State.writeCkpt (s : State) (c : CkptReq) (step : Nat) : State :=
  match s.job with
  | none => s
  | some j =>
    let (s, imgs) := s.gather (computeDies.filter fun d => !s.lostDies.contains d) fun s d =>
      let (s, im) := s.image j d step
      (s, [(d, im)])
    let dir := crc32 (imgs.flatMap fun x => x.2.1)
    let epoch := s.getF 0 .FNL_EPOCH_EPOCH
    let compat := s.edge.compat || j.members.any fun m => m != j.modIx && (s.oldPeer m || j.old.contains m)
    if c.eth then
      let (s, desc) := s.firmRead c.dpa 64
      let obj := fld desc 8 8
      let ref := dpa 0 0 (s.dramSize - 0x84000000 + step % 64 * 0x1000)
      let s := s.writeRange ref (refBytes j true compat step epoch j.graph.crc dir obj desc)
      let xs := imgs.map fun x =>
        { tag := c.tag, write := true, obj := obj + 16 * j.modIx + x.1, addr := 0, len := x.2.1.length + x.2.2.length,
          port := ethPorts.getD (fldBits desc 16 1 1 0) 6, tried := [], at_ := s.now, out := [], next := 0, got := [],
          store := x.2.1 ++ x.2.2 : Xfer }
      { s with job := some { j with ckpt := ref },
               edge := { s.edge with xfers := s.edge.xfers ++ xs, ckpt := some { c with written := true, step := step, dpa := ref } } }
    else
      let o := c.dpa % 2 ^ 44
      let s := imgs.foldl (fun s x => s.writeRange (dpa x.1 0 (o + 0x1000)) (x.2.1 ++ x.2.2)) s
      let s := s.writeRange c.dpa (refBytes j false compat step epoch j.graph.crc dir o [])
      let s := { s with job := some { j with ckpt := c.dpa }, edge := { s.edge with ckpt := none } }
      s.finishLong c.tag rcOk [BitVec.ofNat 32 (dpaLo c.dpa), BitVec.ofNat 32 (dpaHi c.dpa), BitVec.ofNat 32 step]

/-- A checkpoint is due after the step that has ended (R393). -/
def State.ckptDue (s : State) (j : Job) : Bool :=
  match s.edge.ckpt, j.lastDone with
  | some c, some s0 => !c.written && (c.step == s0 || c.step == 0xFFFFFFFF)
  | _, _ => false

/-- At the next step's start a due checkpoint is written, once the state that it holds is known: the AMAX of step s0 and the levels
for step s0 + 2 (R147, R393; log 101). -/
def State.settleCkpt (s : State) : State :=
  match s.job, s.edge.ckpt with
  | some j, some c =>
    match j.lastDone with
    | some s0 =>
      if s.edge.boundary = some 0 ∧ s.ckptDue j ∧ s.amaxIn j s0 ∧
          (s.flag 18 .JRN_STATUS_REPLAY ∨ (s.gov.vectors.lookup (s0 + 2)).isSome) then s.writeCkpt c s0
      else s
    | none => s
  | _, _ => s

/-! Restoring (R396). -/

/-- A checkpoint reference that passes R396's checks against a seed and a graph. -/
def refValid (r : List Byte) (seed : BitVec 64) (graph : Word) : Bool :=
  BitVec.ofNat 32 (fld r 0xFC 4) == crc32 (slice r 0 0xFC) && fld r 0 2 == 1 && fldBits r 2 2 0 0 == 1 &&
    fld r 8 8 == seed.toNat && fld r 0x18 4 == graph.toNat

/-- The sections of an image: KIND, TID, INDEX, COUNT, data. -/
def imageSections (img : List Byte) : List (Nat × Nat × Nat × Nat × List Byte) :=
  (chunks 32 (fld img 12 4) (img.drop 64)).map fun e =>
    let n := fld e 16 4
    let bytes := if fld e 0 1 = 1 then n * 4 else n
    (fld e 0 1, fld e 1 3, fldBits e 8 8 39 0, n, (img.drop (fld e 20 8)).take bytes)

/-- The layout's ranges take their elements from a tensor section. -/
def State.restoreRange (s : State) (j : Job) (sec : Nat × Nat × Nat × Nat × List Byte) : State :=
  let w := j.storedBytes sec.2.1
  s.stripe.foldl (fun s d =>
    (Config.persistRanges j.groupPlan s.stripe d).foldl (fun s r =>
      let lo := max r.2.1 sec.2.2.1
      let hi := min (r.2.1 + r.2.2.1) (sec.2.2.1 + sec.2.2.2.1)
      if r.1 = sec.2.1 ∧ lo < hi then
        s.logWrite d (r.2.2.2 + (lo - r.2.1) * w) ((sec.2.2.2.2.drop ((lo - sec.2.2.1) * w)).take ((hi - lo) * w))
      else s) s) s

/-- A rule set from its bytes (R141). -/
def parseRules (b : List Byte) : RuleSet :=
  let w (i : Nat) : Word := BitVec.ofNat 32 (fld b (4 * i) 4)
  { ctl := w 0, thr := w 1, quiet := w 2, lo := w 3, hi := w 4,
    pins := (chunks 4 ((b.length - 20) / 4) (b.drop 20)).map fun p => (fldBits p 0 4 19 0, fldBits p 0 4 22 20) }

/-- Freeze entries with their bitmaps, from KIND 0x05. -/
def parseFreeze : Nat → List Byte → List (List Byte × List Byte)
  | 0, _ => []
  | n + 1, b =>
    if b.length < 16 then []
    else
      let e := slice b 0 16
      if fldBits e 0 4 24 24 = 1 then
        let m := fld b 16 4
        (e, slice b 20 m) :: parseFreeze n (b.drop (20 + m))
      else (e, []) :: parseFreeze n (b.drop 16)

/-- The job sections of the C0 image of module 0 are taken (R147, R396). -/
def State.restoreJob (s : State) (j : Job) (sec : Nat × Nat × Nat × Nat × List Byte) (s0 : Nat) : State :=
  let b := sec.2.2.2.2
  match sec.1 with
  | 2 =>
    let cells := chunks 8 (b.length / 8) b
    let lv (hi lo : Nat) : List Byte := cells.map fun c => BitVec.ofNat 8 (fldBits c 0 8 hi lo)
    let s := cells.foldl (fun s c =>
      { s with gov := { s.gov with quiet := Store.set 0 s.gov.quiet (fldBits c 0 8 19 0) (fldBits c 0 8 47 32) } }) s
    { s with gov := { s.gov with vectors := Store.set [] (Store.set [] s.gov.vectors (s0 + 1) (lv 22 20)) (s0 + 2) (lv 25 23),
                                 decided := some (s0 + 2) } }
  | 3 =>
    (chunks 40 (b.length / 40) b).foldl (fun s c =>
      let n := fld c 3 1
      let h := ((List.range 16).filter fun k => 16 - n ≤ k ∧ 15 ≤ s0 + k).map fun k => (s0 + k - 15, fld c (4 + 2 * k) 2)
      { s with gov := { s.gov with amax := Store.set [] s.gov.amax (fld c 0 3) h.reverse } }) s
  | 4 => let r := parseRules b; { s with gov := { s.gov with rules := r } }.showRules r
  | 5 => { s with gov := { s.gov with freeze := parseFreeze 64 b } }.placeFreeze
  | 6 => { s with job := some { j with s0 := fld b 0 4, step := fld b 4 4, lastDone := some s0 } }
  | _ => s

/-- An image's sections reach this module's layout; `jobs`: its job sections count. -/
def State.takeImage (s : State) (j : Job) (img : List Byte) (s0 : Nat) (jobs : Bool) : State :=
  (imageSections img).foldl (fun s sec =>
    if sec.1 = 1 then s.restoreRange j sec else if jobs then s.restoreJob j sec s0 else s) s

/-- The DRAM images that lie in this module are taken, and parity is regenerated (R260, R396). -/
def State.restoreDram (s : State) (j : Job) (r : List Byte) : State :=
  let o := fld r 0x38 8
  let s := computeDies.foldl (fun s d =>
    if s.lostDies.contains d then s
    else
      let (s, head) := s.firmRead (dpa d 0 (o + 0x1000)) 64
      let (s, img) := s.firmRead (dpa d 0 (o + 0x1000)) (fld head 16 8)
      s.takeImage j img (fld r 4 4) true) s
  s.regenerateAll.formParity j

end Sys2Proof.Machine
end

