-- ==== Sys2Proof/Machine/GraphOps.lean ====
section
/-! DEFINITION. Reading what host software names at job load: Gegamond graphs (R265-R268), cut declarations (R271), data
descriptor tables (R274, R275), fabric maps (R314), and the checks that make a load fail. -/

namespace Sys2Proof.Machine

/-! Records (Tables 10.1 and 10.2). -/

/-- The LEN that a record type has, in 8-byte units; LRTABLE's is free. -/
def recordLen (ty len : Nat) : Bool :=
  match ty with
  | 1 => len == 4 | 2 => len == 8 | 3 => len == 4 | 4 => len == 8 | 5 => len == 3 | 6 => decide (1 ≤ len) | 7 => len == 1
  | _ => false

/-- The records of a graph buffer up to END; none where a header is malformed or END is not the last. -/
def graphRecords : Nat → List Byte → Option (List (Nat × List Byte))
  | 0, _ => none
  | n + 1, b =>
    let ty := fld b 0 2; let len := fld b 2 2
    if b.length < 8 ∨ fld b 4 4 ≠ 0 ∨ !recordLen ty len ∨ b.length < 8 * len then none
    else if ty = 7 then (if b.length = 8 then some [] else none)
    else match graphRecords n (b.drop (8 * len)) with
      | some rs => some ((ty, b.take (8 * len)) :: rs)
      | none => none

def parseTensor (b : List Byte) : TensorRec :=
  { tid := fld b 8 3, fmt := fld b 11 1, kind := fldBits b 12 1 3 0, measured := fldBits b 12 1 4 4 = 1,
    persist := fldBits b 12 1 5 5 = 1, lazy := fldBits b 12 1 6 6 = 1, mbdim := fldBits b 12 1 7 7 = 1,
    dims := (List.range (min 4 (fld b 13 1))).map fun i => fld b (16 + 4 * i) 4,
    layer := fldBits b 32 4 19 0, h := fld b 36 1, margin := fld b 38 2, scale0 := fld b 40 4, rotId := fld b 44 3,
    rot := fldBits b 47 1 1 0 }

/-- A TENSOR record's own checks (Table 10.3; R44, R54, R108, R116, R266). -/
def tensorOk (b : List Byte) : Bool :=
  let t := parseTensor b
  let rank := fld b 13 1
  let inner := t.dims.getLastD 0
  decide (t.tid ≠ 0 ∧ t.fmt ≤ 4 ∧ t.kind ≤ 6 ∧ 1 ≤ rank ∧ rank ≤ 4 ∧ fld b 14 2 = 0 ∧ fldBits b 32 4 31 20 = 0 ∧
      fld b 37 1 = 0 ∧ fldBits b 47 1 7 2 = 0 ∧ fld b 48 16 = 0 ∧ t.h ≤ 16 ∧ (t.margin = 0 ∨ 0x1000 ≤ t.margin)) &&
    ((List.range 4).all fun i => decide (i < rank) || fld b (16 + 4 * i) 4 == 0) && !scaleMalformed t.scale0 &&
    decide (t.dims.foldl (· * ·) 1 ≤ 2 ^ 40) && (t.rotId == 0 || (decide (t.rot ≤ 2) && inner % (256 * 4 ^ t.rot) == 0))

def parseLayer (b : List Byte) : LayerRec :=
  let w := fld b 12 2
  { layer := fldBits b 8 4 19 0, floor := w % 8, ceil := w / 8 % 8, init := w / 64 % 8, first := w.testBit 9, last := w.testBit 10,
    norm := w.testBit 11, fh := w.testBit 12, rule := fldBits b 14 1 1 0, block := fld b 16 2 }

/-- A LAYER record's own checks (Table 10.4; R124, R126). -/
def layerOk (b : List Byte) (nblock : Nat) : Bool :=
  let l := parseLayer b
  decide (l.layer ≠ 0 ∧ fldBits b 8 4 31 20 = 0 ∧ fldBits b 12 2 15 13 = 0 ∧ fldBits b 14 1 7 2 = 0 ∧ fld b 15 1 = 0 ∧
    fld b 18 14 = 0 ∧ l.block < nblock ∧ l.floor ≤ l.init ∧ l.init ≤ l.ceil ∧ l.ceil ≤ 4) &&
    (!(l.first || l.last || l.norm) || decide (3 ≤ l.floor))

def parseOper (b : List Byte) : OperRec :=
  let w := fld b 8 4
  { layer := w % 2 ^ 20, oper := w / 2 ^ 20, opc := fld b 12 1, phase := fldBits b 13 1 1 0,
    ins := (List.range 4).map fun i => fld b (16 + 3 * i) 3, outs := (List.range 2).map fun i => fld b (28 + 3 * i) 3,
    attr := slice b 36 28 }

/-- The ATTR bytes that an operator names, by offset and count, and whether its codes are not reserved (Table 10.6). -/
def attrNamed (opc : Nat) : List (Nat × Nat) :=
  match opc with
  | 1 => [(0, 1), (1, 1), (4, 4)] | 2 => [(0, 1)] | 3 => [(0, 1), (1, 1), (2, 2), (4, 4), (8, 1)] | 4 => [(0, 1), (4, 4)]
  | 5 => [(4, 4)] | 6 => [(0, 1), (4, 4)] | 7 => [(4, 4)] | 9 => [(0, 25), (25, 1)]
  | _ => []

def attrOk (o : OperRec) : Bool :=
  let a := o.attr
  ((List.range 28).all fun i => ((attrNamed o.opc).any fun r => decide (r.1 ≤ i ∧ i < r.1 + r.2)) || fld a i 1 == 0) &&
  match o.opc with
  | 1 => decide (fld a 0 1 < 4 ∧ fld a 1 1 < 2 ∧ fld a 4 4 % 32 = 0)
  | 2 => decide (fld a 0 1 < 2)
  | 3 => decide (10 ≤ fld a 0 1 ∧ fld a 0 1 ≤ 23 ∧ fld a 1 1 < 3 ∧ fld a 4 4 < 2 ^ 24 ∧ fld a 8 1 < 16)
  | 4 => decide (fld a 0 1 < 2)
  | 6 => decide (1 ≤ fld a 0 1 ∧ fld a 0 1 ≤ 6)
  | 7 => decide (fld a 4 4 ≤ 2 ^ 23)
  | 9 => decide (fld a 23 1 < 4 ∧ fld a 24 1 < 32 ∧ fld a 25 1 < 32)
  | _ => true

/-- An OPERATOR record's own checks (Table 10.5). -/
def operOk (b : List Byte) : Bool :=
  let o := parseOper b
  decide (1 ≤ o.opc ∧ o.opc ≤ 10 ∧ fldBits b 13 1 7 2 = 0 ∧ fld b 14 2 = 0 ∧ fld b 34 2 = 0) && attrOk o

def parseCons (b : List Byte) : ConsRec :=
  let w := fld b 12 4
  { tid := fld b 8 3, lane := fldBits b 11 1 2 0, layer := w % 2 ^ 20, oper := w / 2 ^ 20, rmode := fldBits b 16 1 1 0,
    srk := fldBits b 16 1 6 2 }

/-- A CONSUMER record's own checks (Table 10.7; R50). -/
def consOk (b : List Byte) : Bool :=
  let c := parseCons b
  decide (fldBits b 11 1 7 3 = 0 ∧ fldBits b 16 1 7 7 = 0 ∧ fld b 17 7 = 0) && rmodeLegal c.rmode && srkLegal c.srk

def parseLr (b : List Byte) : List (Nat × Nat) :=
  (List.range ((b.length - 8) / 8)).map fun i => (fld b (8 + 8 * i) 4, fld b (12 + 8 * i) 4)

/-- The learning-rate table's conditions (R233). -/
def lrOk (t : List (Nat × Nat)) : Bool :=
  (t.head?.map (·.1)) == some 0 && ((t.zip (t.drop 1)).all fun x => decide (x.1.1 < x.2.1)) &&
    t.all fun e => b32.isFinite e.2 && (decide (e.2 < 2 ^ 31) || e.2 == 2 ^ 31)

def noRepeat {α : Type} [DecidableEq α] (l : List α) : Bool := l.eraseDups.length == l.length

/-- Operators left after those whose inputs no remaining operator produces have run, over and over (R267). -/
def runnable : Nat → List OperRec → List OperRec
  | 0, os => os
  | n + 1, os =>
    let made := os.flatMap fun o => o.outs.filter (· ≠ 0)
    let left := os.filter fun o => o.ins.any fun t => made.contains t
    if left.length = os.length then os else runnable n left

/-- The three consumers of an UPDATE, for W, M and V (R268). -/
def updateConsumers (g : Graph) (o : OperRec) : Bool :=
  let cs := (o.ins.drop 1).map fun t => g.cons.find? fun c => c.tid = t ∧ c.layer = o.layer ∧ c.oper = o.oper
  cs.all fun c => match c, cs.headD none with
    | some x, some y => x.rmode == 1 && x.srk == y.srk && x.lane == y.lane
    | _, _ => false

/-- The checks over the whole graph (R134, R220, R266-R268). -/
def graphOk (g : Graph) : Bool :=
  let tids := g.tensors.map (·.tid); let lids := g.layers.map (·.layer)
  let ops := g.opers.map fun o => (o.layer, o.oper)
  let tid (t : Nat) : Bool := t == 0 || tids.contains t
  noRepeat tids && noRepeat lids && noRepeat ops && noRepeat (g.cons.map fun c => (c.tid, c.layer, c.oper)) &&
    (g.tensors.all fun t => (t.layer == 0 || lids.contains t.layer) && tid t.rotId) &&
    (g.opers.all fun o => lids.contains o.layer && (o.ins ++ o.outs).all tid && (o.opc != 9 || tid (fld o.attr 20 3))) &&
    (g.cons.all fun c => tids.contains c.tid && ops.contains (c.layer, c.oper)) &&
    noRepeat ((g.opers.flatMap fun o => o.outs).filter (· ≠ 0)) &&
    ((List.range 4).all fun ph => (runnable g.opers.length (g.opers.filter fun o => o.phase = ph)).isEmpty) &&
    (g.opers.all fun o => o.opc != 9 || updateConsumers g o) &&
    (g.opers.all fun o => o.opc != 9 || match g.layers.find? fun l => l.layer = o.layer, g.tensors.find? fun t => t.tid = o.ins.getD 1 0 with
      | some l, some t => l.rule != 3 || (t.dims.length == 2 && !t.lazy)
      | _, _ => true) &&
    decide ((g.tensors.filter fun t => t.measured).length ≤ 8192)

/-- Layers in increasing layer ID. -/
def insertLayer (x : LayerRec) : List LayerRec → List LayerRec
  | [] => [x]
  | y :: t => if x.layer ≤ y.layer then x :: y :: t else y :: insertLayer x t

/-- A graph buffer; none where it breaks R266 and the load failures that R266 names. -/
def parseGraph (b : List Byte) : Option Graph :=
  match graphRecords (b.length / 8 + 1) b with
  | none => none
  | some [] => none
  | some ((ty0, h) :: rs) =>
    let of (ty : Nat) : List (List Byte) := (rs.filter fun r => r.1 = ty).map (·.2)
    let nblock := fld h 24 2
    let head := ty0 == 1 && fld h 8 2 == 1 && fld h 10 2 == 0 && fld h 26 2 == 0 && (of 1).isEmpty &&
      fld h 12 4 == (of 2).length && fld h 16 4 == (of 3).length && fld h 20 4 == (of 4).length && fld h 28 4 == (of 5).length
    let own := (of 2).all tensorOk && ((of 3).all fun l => layerOk l nblock) && (of 4).all operOk && (of 5).all consOk
    match of 6 with
    | [lr] =>
      let g : Graph := { nblock := nblock, tensors := (of 2).map parseTensor,
                         layers := ((of 3).map parseLayer).foldl (fun a l => insertLayer l a) [],
                         opers := (of 4).map parseOper, cons := (of 5).map parseCons, lr := parseLr lr, crc := crc32 b }
      if head && own && lrOk g.lr && graphOk g then some g else none
    | _ => none

/-- Aliasing pairs of rounding consumers (R57): the same tensor and lane. A record gives no element indices, so two of one tensor
count as overlapping (log 102). -/
def aliasPairs (cs : List ConsRec) : List (ConsRec × ConsRec) :=
  match cs with
  | [] => []
  | c :: t =>
    ((t.filter fun x => x.tid = c.tid ∧ x.lane = c.lane).map fun x => (c, x)) ++ aliasPairs t

/-! Cut declarations (R271). -/

/-- Parse a cut declaration (Table 10.9). -/
def parseCut (b : List Byte) : Cut :=
  { dp := fld b 0 2, pp := fld b 2 2, v := fld b 4 1, tp := fld b 5 1, cp := fld b 6 1, mb := fld b 8 4, mbtok := fld b 12 4,
    seq := fld b 16 4, group := fld b 20 4, bytes := slice b 0 64 }

def cutLegal (c : Cut) (nblock : Nat) : Bool :=
  decide (1 ≤ c.dp ∧ c.dp ≤ 1024 ∧ 1 ≤ c.pp ∧ c.pp ≤ 1024 ∧ 1 ≤ c.v ∧ c.v ≤ 8 ∧ 1 ≤ c.cp ∧ c.cp ≤ 64 ∧ 1 ≤ c.mb ∧ 1 ≤ c.seq) &&
    [1, 2, 4, 8].contains c.tp && fld c.bytes 7 1 == 0 && fld c.bytes 24 40 == 0 &&
    decide (c.dp * c.pp * c.tp * c.cp = c.group ∧ c.group ≤ 1024 ∧ c.dp * c.mb ≤ 65536 ∧ (c.v = 1 ∨ c.mb % c.pp = 0) ∧
      nblock % (c.pp * c.v) = 0 ∧ c.seq ≤ 2 ^ 23 ∧ c.seq ≤ 1048576 * c.cp ∧ (c.cp ≠ 1 ∨ c.mbtok % c.seq = 0))

/-! Data descriptors (R274, R275). -/

def parseDesc (b : List Byte) : DataDesc :=
  { step := fld b 0 4, lo := fld b 4 2, nm1 := fld b 6 2, shard := fld b 8 8, src := fldBits b 16 8 51 0, stride := fld b 24 4 }

/-- Why a table of entries is refused: the first offending entry, with BAD_ARG (true) or NO_RESOURCE (false). -/
def descFault (mbs held : Nat) (after : Option Nat) : Nat → List (List Byte) → List DataDesc → Option (Nat × Bool)
  | _, [], _ => none
  | i, b :: t, seen =>
    let e := parseDesc b
    let malformed := decide (fldBits b 16 8 63 52 ≠ 0 ∨ e.stride % 64 ≠ 0 ∨ fld b 28 4 ≠ 0)
    let unsorted := match seen.head? with
      | some p => decide (e.step < p.step ∨ (e.step = p.step ∧ e.lo ≤ p.lo + p.nm1))
      | none => (match after with | some a => decide (e.step ≤ a) | none => false)
    if malformed || unsorted || decide (mbs ≤ e.lo + e.nm1) then some (i, true)
    else if 1048576 < held + i + 1 then some (i, false)
    else descFault mbs held after (i + 1) t (e :: seen)

/-! Fabric maps (R314, Table 11.7). The header's layout is the model's (log 35): bytes 0-2 hold X, Y and Z. -/

/-- A map of a group's modules: extents that multiply to the group, entries in the order of their module index. -/
def fabricLegal (b : List Byte) (group : Nat) : Bool :=
  let x := fld b 0 1; let y := fld b 1 1; let z := fld b 2 1
  decide (1 ≤ x ∧ x ≤ 16 ∧ 1 ≤ y ∧ y ≤ 16 ∧ 1 ≤ z ∧ z ≤ 16 ∧ x * y * z = group ∧ b.length = 16 + 80 * group) &&
    (List.range group).all fun m =>
      let e := slice b (16 + 80 * m) 80
      fldBits e 0 2 9 0 == m && fldBits e 0 2 15 10 == 0 && (List.range 16).all fun p => fldBits e (16 + 4 * p) 4 31 16 == 0

end Sys2Proof.Machine
end

