-- ==== Sys2Proof/Machine/Schedule.lean ====
section
/-! DEFINITION. Ticks, barriers, phase boundaries and the building of variants (R134, R168, R280-R292, R319, R424). -/

namespace Sys2Proof.Machine

/-! TICK (R280). -/

/-- QUEUE_COUNTER_SAMPLE (R168): one queue's counters at the last cycle of a tick. -/
def State.sampleQueue (s : State) (d p q : Nat) : State :=
  let x := s.que d p q
  let hdr := match x.entries with | e :: _ => e.bytes.take 16 | [] => x.lastHdr
  let s := s.countF d (queCtr p q 0) x.entries.length hdr
  let s := if x.sawFull || x.full then s.countF d (queCtr p q 1) 1 hdr else s
  let s := if !x.sawEntry && x.entries.isEmpty then s.countF d (queCtr p q 2) 1 hdr else s
  s.setQue d p q { s.que d p q with sawFull := x.full, sawEntry := !x.entries.isEmpty }

def State.sampleDie (s : State) (d : Nat) : State :=
  (List.range 272).foldl (fun s p => (List.range 64).foldl (fun s q => s.sampleQueue d p q) s) s

/-- Every counter of Tables 15.2-15.4 and every high-water mark is cleared (R426); the energy counters are not. The mark of a queue that
holds entries rises to its depth at once (R168). -/
def State.clearCounters (s : State) : State :=
  let keep (x : Nat × BitVec 64) : Bool :=
    decide (x.1 % 2 ^ 28 / 8 = Reg.PWR_ENERGY_LO / 8 ∨ x.1 % 2 ^ 28 / 8 = Reg.PWR_STACK_ENERGY_LO / 8)
  let s := { s with counters := s.counters.filter keep }
  let hwm (x : Nat × Word) : Bool :=
    let r := x.1 % 2 ^ 28
    decide (r < 0x2000000 ∨ r % 0x10000 / 0x1000 ≠ 2 ∨ r % 0x40 ≠ 8)
  let s := { s with regs := s.regs.filter hwm }
  s.sprigs.foldl (fun s y => (List.range 64).foldl (fun s q => s.raiseHwm (y.1 / 272) (y.1 % 272) q) s) s

/-- Every die shows the filter of the control dies (R428). -/
def State.applyFilter (s : State) : State :=
  let s := (List.range 18).foldl (fun s d =>
    ((s.setReg d Reg.CNT_FLT_LAYER (s.reg 18 Reg.CNT_FLT_LAYER)).setReg d Reg.CNT_FLT_OPER (s.reg 18 Reg.CNT_FLT_OPER)).setReg
      d Reg.CNT_FLT_MBID (s.reg 18 Reg.CNT_FLT_MBID)) s
  { s with edge := { s.edge with fltAt := none } }

/-- The breakpoint registers reach every compute die (R435). -/
def State.copyBreakpoint (s : State) : State :=
  let s := computeDies.foldl (fun s d =>
    ((s.setReg d Reg.DBG_BP_ID (s.reg 18 Reg.DBG_BP_ID)).setReg d Reg.DBG_BP_CTL (s.reg 18 Reg.DBG_BP_CTL)).setReg d
      Reg.DBG_BP_STEP (s.reg 18 Reg.DBG_BP_STEP)) s
  { s with edge := { s.edge with bpCopy := false } }

/-- What firmware applies at the start of a tick (R421, R426, R428, R435). -/
def State.tickWork (s : State) : State :=
  let s := if s.edge.clearReq then { s.clearCounters with edge := { s.edge with clearReq := false } } else s
  let s := match s.edge.fltAt with | some t => if t ≤ s.now then s.applyFilter else s | none => s
  let s := if s.edge.bpCopy then s.copyBreakpoint else s
  match s.edge.power.duty with
  | some v => { s with edge := { s.edge with power := { s.edge.power with duty := none } } }.setF 18 .PWR_STATUS_DUTY (v - 1)
  | none => s

/-- SAGE_BANK_OPEN (R134): the bank of the step's parity opens, empty. -/
def State.openSage (s : State) (d step : Nat) : State :=
  let s := s.setBank d (step % 2) { SageBank.empty with step := step }
  ((s.setF d .SAGE_STATUS_OPEN 1).setF d .SAGE_STATUS_BANK (step % 2)).setF d .SAGE_STATUS_RECS 0

/-- TICK (R280, R284): the next tick of a compute die starts, unless its barrier holds it; SPRG_TICK of every sprig
advances, and the die supervisor serves queue 55 (log 95). The first row of a step is for tick 0, which has begun with the release of
the step-start barrier. -/
def execTick (d : CDie) (s : State) : Out :=
  .next <|
    if s.frozen then s
    else
      let first := s.edge.tick0.contains d.val
      let t := if first then 0 else ((s.reg d (Reg.SPRG_TICK 0)).toNat + 1) % 2 ^ 24
      match (if first then none else s.guarded d t) with
      | some b =>
        if s.flag d .GLB_SCHED_STATUS_HELD then s
        else
          let s := (s.setF d .GLB_SCHED_STATUS_HELD 1).count d (dieCtr 9) 1
          let mark (x : Barrier) : Barrier := if x.id = b.id ∧ x.nominal = 0 then { x with nominal := s.now } else x
          let bs := if s.barriers.any fun x => x.id = b.id then s.barriers else s.barriers ++ [b]
          { s with barriers := bs.map mark }
      | none =>
        let s := (s.sprigs.foldl (fun s y => if y.1 / 272 = d.val then s.supServe d (y.1 % 272) else s) s)
        let s := (s.sampleDie d).tickWork
        let s := (s.setF d .GLB_SCHED_STATUS_HELD 0).count d (dieCtr 8) 1
        let s := (List.range 272).foldl (fun s p => s.setF d (.SPRG_TICK_TICK p) t) s
        if first then
          { s with edge := { s.edge with tick0 := s.edge.tick0.filter (· ≠ d.val) } }
        else s

/-! BARRIER_RELEASE (R284, R319). -/

/-- An all-or-nothing request of Fennel is held poisoned (R329). -/
def State.anyPoisoned (s : State) : Bool := s.edge.fnl.waits.any fun x => x.2.any fun w => w.failed || w.redo

/-- The group's maximum and minimum of the drop lists' CRC-32 are that of this module's list (R374). -/
def Job.dropsAgree (j : Job) (mx mn : Word) : Bool := mx == j.dropsCrc && mn == j.dropsCrc

/-- A reshard takes effect at the step boundary at which the module stands (R334): no reduction of the old epoch is in flight, and no
checkpoint is due at it (log 101). Its PERMUTE requests run before it commits. -/
def State.reshardDue (s : State) : Bool :=
  s.edge.reshard.isSome && s.edge.boundary == some 0 && s.fenceClear && match s.job with | some j => !s.ckptDue j | none => false

/-- What keeps a boundary barrier from releasing: its variant (R288); in group scope a new group plan that the modules form
alike (R277); at the step's start coverage (R275), the AMAX of the step before (R110), a checkpoint (R393), a reshard (R336); before the update
the decision (R136), Fennel's retries (R329), and equal drop lists (R374). -/
def State.boundaryReady (s : State) (j : Job) (ph : Nat) (dropMax dropMin planMax planMin : Word) : Bool :=
  s.variantReady j ph && (ph == 1 || ph == 2 || s.planAgreed j planMax planMin) && match ph with
  | 0 => j.stepCovered j.step && s.edge.ckpt.isNone && s.edge.boundary == some 0 && !s.reshardDue &&
      (j.lastDone.isNone || s.amaxIn j (j.step - 1))
  | 3 => !s.anyPoisoned && j.dropsAgree dropMax dropMin &&
      (s.flag 18 .JRN_STATUS_REPLAY || (s.gov.vectors.lookup (j.step + 1)).isSome)
  | _ => true

/-- The first tick of a step is held until the AMAX of the step before is reduced: counted as a barrier that holds a tick (R110). -/
def State.amaxWait (s : State) (j : Job) : State :=
  if s.flag 0 .GLB_SCHED_STATUS_HELD then s
  else
    let s := computeDies.foldl (fun s d => (s.setF d .GLB_SCHED_STATUS_HELD 1).count d (dieCtr 9) 1) s
    let mark (x : Barrier) : Barrier := if s.opens j x.id = some 0 then { x with nominal := s.now } else x
    { s with barriers := s.barriers.map mark }

/-- A wait at a boundary shows, counts and is journaled: VARWAIT and VAR_WAIT for a variant; the wait for coverage (R275) and for
AMAX (R110); STATS_LATE once a step; unequal drop lists are sent again. -/
def State.boundaryWait (s : State) (j : Job) (ph : Nat) (dropMax dropMin planMax planMin : Word) : State :=
  let s := if ph = 1 ∨ ph = 2 ∨ s.planAgreed j planMax planMin then s else (s.settlePlan j false).dataCorrupt (s.planOf j (if ph = 0 then j.step else j.step + 1)) []
  let s := if s.variantReady j ph then s else s.variantWait ph
  let covers (r : List Word) : Bool := bits (r.getD 0 0) 15 8 == 2
  let noted := s.edge.waits ++ (s.journal.map fun r => r.faults).getD []
  let s := if ph = 0 ∧ !j.stepCovered j.step ∧ !noted.any covers then s.journalWait 2 0 else s
  let s := if ph = 0 ∧ j.lastDone.isSome ∧ !s.amaxIn j (j.step - 1) then s.amaxWait j else s
  let s := if ph = 3 ∧ (s.gov.vectors.lookup (j.step + 1)).isNone ∧ s.edge.late ≠ some j.step then
      { (s.countK 1 1).sageEvent 6 j.step 0 0 with edge := { s.edge with late := some j.step } }
    else s
  if ph = 3 ∧ !j.dropsAgree dropMax dropMin then { s with outbox := s.outbox ++ [Sent.drops (j.drops.map Drop.bytes)] } else s

/-- The participants' commands complete (R157, R284). -/
def State.releaseArrivals (s : State) (b : Barrier) : State :=
  b.arrived.foldl (fun s a =>
    let d := a.1 / 272; let p := a.1 % 272
    s.complete d p a.2 rcOk (s.coreSrc d p (match s.cmd d p a.2 with | some c => c.q | none => 0)) 0 []) s

/-- The energy counters at a step's start (R424). -/
def State.energyNow (s : State) : EnergyLog :=
  { input := (s.ctr 18 Reg.PWR_STACK_ENERGY_LO).toNat,
    dieE := (List.range 20).map fun d => (s.ctr d Reg.PWR_ENERGY_LO).toNat,
    stackE := computeDies.map fun d => (s.ctr d Reg.PWR_STACK_ENERGY_LO).toNat,
    layers := [], unattr := 0, wins := [], aborted := false }

/-- SPRG_TICK of every sprig is 0: tick 0 begins on every die (R280). -/
def State.zeroTicks (s : State) : State :=
  { s with regs := s.regs.filter fun x =>
      !decide (x.1 / 2 ^ 28 < 16 ∧ 0x2000000 ≤ x.1 % 2 ^ 28 ∧ x.1 % 2 ^ 28 < sprigBase 272 ∧ x.1 % 0x10000 = 0x20) }

/-- The current record of the step, with what is known at its start (R388); entries that it already holds stay. In a replay the
journaled STATS are kept for the comparison, and REPLAYED sets (R390, R392). -/
def State.startRecord (s : State) (j : Job) (lr : Nat) : Journal :=
  let replay := s.flag 18 .JRN_STATUS_REPLAY
  let r := match s.journal with | some r => r | none => Journal.opened j.step []
  let r := if r.step = j.step then r else Journal.opened j.step []
  { r with
    flags := r.flags ||| (if replay then 4 else 0) ||| s.edge.compat.toNat * 8, epoch := s.getF 0 .FNL_EPOCH_EPOCH,
    gplan := s.planOf j j.step, pv := Store.get [] s.gov.vectors j.step,
    vars := (List.range 4).map fun ph => crc32 (s.variantKey j j.step ph), rules := s.reg 18 Reg.SAGE_DIGEST,
    freeze := crc32 (freezeBytes s.gov.freeze), lr := lr, tstart := s.now,
    faults := r.faults ++ s.edge.waits,
    stats := match (if replay then s.recordBytes j.step else none) with | some b => BitVec.ofNat 32 (fld b 0x58 4) | none => 0 }

/-- A replayed step takes the freeze table whose CRC-32 its record holds, from those that the job has committed (R389, R390). -/
def State.replayFreeze (s : State) (step : Nat) : State :=
  if !s.flag 18 .JRN_STATUS_REPLAY then s
  else
    let s := s.readRecord step
    match s.recordBytes step with
    | none => s
    | some b =>
    match ([] :: s.gov.frozen).find? fun f => (crc32 (freezeBytes f)).toNat = fld b 0x30 4 with
    | some f => { s with gov := { s.gov with freeze := f } }.placeFreeze
    | none => s

/-- The step starts (R280, R286, R388): forward phase, tick 0 and the statistics banks, scale words, the journal record, no drop
entries. -/
def State.startStep (s : State) (j : Job) : State :=
  let lr := (j.graph.lr.filter fun e => e.1 ≤ j.step).foldl (fun a e => if a.1 ≤ e.1 then e else a) (0, 0)
  let drops := if s.flag 18 .JRN_STATUS_REPLAY then j.drops else []
  let s := { s with edge := { s.edge with
    tickLens := computeDies.foldl (fun m d => Store.set 0 m d (s.getF d .GLB_TICK_CFG_TICK_LEN)) s.edge.tickLens } }
  let aborts := j.aborts
  let j := { j with phase := 0, started := true, drops := drops, stepStart := s.now, corrupt := if aborts = 0 then 0 else j.corrupt,
                    atBoundary := false, planNow := s.planOf j j.step }
  let s := ({ s with job := some j }.regroup j).replayFreeze j.step
  let s := computeDies.foldl (fun s d =>
    (s.setReg d Reg.UPD_LR (BitVec.ofNat 32 lr.2)).setReg d Reg.UPD_LR_STEP (BitVec.ofNat 32 j.step)) s
  let s := computeDies.foldl (fun s d => s.openSage d j.step) ((s.showPhase 0).formScales j j.step).zeroTicks
  let s := { s with
    journal := some (s.startRecord j lr.2),
    edge := { s.edge with
      boundary := none, waits := [], released := [], tick0 := computeDies, committed := [], rerun := false,
      energy := if aborts ≠ 0 then { s.edge.energy with aborted := true } else s.energyNow } }
  (s.setF 18 .JRN_STATUS_OPEN 1).writeTags

/-- The drop list closes and staged group parity of earlier steps commits (R331, R375): the exchange buffers go, but for a
reduction that is still incomplete, whose fence timer starts with the phase that ends by which it was to complete (R335): that of its
own step, or of the step after for GPDELTA. -/
def State.enterUpdate (s : State) (j : Job) : State :=
  let old (x : GroupDelta) : Bool := decide (x.step < j.step)
  let s := (s.edge.fnl.staged.filter old).foldl (fun s x => s.putParity x.src x.off x.data true) s
  let delta (rid : Nat) : Bool := s.edge.fnl.waits.any fun x => x.2.any fun w => fld w.bytes 16 1 == 6 && fldBits w.desc 0 4 27 0 == rid
  let waits (rid : Nat) : Bool := s.edge.fnl.waits.any fun x => x.2.any fun w => fldBits w.desc 0 4 27 0 == rid
  let ends (r : Reduction) : Bool := waits r.rid && r.due.isNone && (!delta r.rid || decide (j.stepOfRid r.rid < j.step))
  let late (r : Reduction) : Reduction := if ends r then { r with due := some s.now } else r
  let keep (r : Reduction) : Bool := waits r.rid || (r.sets.isEmpty && j.stepOfRid r.rid == j.step)
  (s.setFnl fun f => { f with done := [], saved := [], staged := f.staged.filter fun x => !old x,
                              reds := (f.reds.filter keep).map late }).showFence

/-- At a group-scope boundary each port takes its traffic back from its twin (R312). -/
def State.takeBack (s : State) : State :=
  (List.range 16).foldl (fun s k =>
    let x := Store.get PortS.fresh s.edge.ports k
    if x.away && s.nativeUp k then { s with edge := { s.edge with ports := Store.set PortS.fresh s.edge.ports k { x with away := false } } } else s) s

/-- The time at which a barrier releases (R284, R319): A + LEAD, or what the release frame says. -/
def State.releaseTime (s : State) (b : Barrier) : Nat := b.release.getD (max b.last b.remote + s.barrierLead b.id)

/-- The job ends as JOB_END asked (Table 12.7). -/
def State.finishJob (s : State) (j : Job) : State :=
  ((s.longs.filter fun c => c.opcode = 0x12 ∧ c.result.isNone).foldl (fun s c => s.finishLong c.tag rcOk [j.lastWord]) s).endJob

/-- At a step boundary a due checkpoint is written once its state is known (R147), and then a job that is to end does. -/
def State.settleEnd (s : State) : State :=
  let s := s.settleCkpt
  match s.job with
  | some j =>
    let due := match s.edge.ckpt with | some c => c.written || s.ckptDue j | none => false
    if s.edge.boundary = some 0 ∧ j.endReq = EndReq.finish ∧ !due then s.finishJob j else s
  | none => s

/-- BARRIER_RELEASE (R284, R319): once every participant has arrived, the release at A + LEAD completes the arrivals, lets a held
tick start, and opens a phase boundary when nothing keeps it waiting. -/
def execBarrierRelease (id : BitVec 28) (mx mn : GroupWords) (s : State) : Out :=
  .next <|
    if s.frozen then s
    else
      let n := id.toNat
      let s := s.settleEnd
      let bar := s.barriers.find? fun b => b.id = n
      match s.job with
      | none => s
      | some j =>
        let ph := s.opens j n
        let b := bar.getD (Barrier.new n s.now)
        if bar.isNone ∨ !s.releasable j b ∨ s.edge.boundary == some 0 && j.endReq == EndReq.finish then s
        else match ph.filter fun p => !s.boundaryReady j p mx.drops mn.drops mx.plan mn.plan with
        | some p => s.boundaryWait j p mx.drops mn.drops mx.plan mn.plan
        | none =>
          let t := s.releaseTime b
          let dies := s.barDies b
          let lateRel := b.release.isSome ∧ t < s.now
          let s := (s.advanceTo t)
          let s := if lateRel then (s.count 16 (dieCtr 2) 1).count 17 (dieCtr 2) 1 else s
          let s := dies.foldl (fun s d =>
            let s := if s.flag d .GLB_SCHED_STATUS_HELD then s.count d (dieCtr 10) (s.now - b.nominal) else s
            s.setF d .GLB_SCHED_STATUS_HELD 0) s
          let s := { s with barriers := s.barriers.filter fun x => x.id ≠ n,
                            outbox := if barScope n = 2 ∧ b.release.isNone then s.outbox ++ [Sent.barrier 1 n t] else s.outbox,
                            edge := { s.edge with released := s.edge.released ++ [n] } }
          let s := (s.releaseArrivals b).showBarriers
          let s := if ph = some 0 ∨ ph = some 3 then { s with job := s.job.map fun k => { k with deadSched := k.dead } } else s
          match ph with
          | some 0 =>
            let s := s.settlePlan j true
            let j := s.job.getD j
            (s.takeBack.enterStep j).startStep j
          | some 3 =>
            let s := s.settlePlan j true
            let j := s.job.getD j
            let s := { s with job := some { j with planNow := s.planOf j j.step } }
            let s := s.enterUpdate (s.job.getD j)
            { s with edge := { s.edge with boundary := some 3 } }
          | some p => { s with edge := { s.edge with boundary := some p } }
          | none => s

/-- Sprig reference cycles in ns at the frequency in force. -/
def State.refNs (s : State) (n : Nat) : Nat := n * 100 / s.edge.power.freq

/-- When a barrier times out (R285): GLB_BARRIER_TMO.TICKS ticks after the nominal start of its tick, which for a step-start
barrier is when its last arrival so far came (log 91); a wait for coverage before that is not counted (R275). -/
def State.barrierDue (s : State) (j : Job) (b : Barrier) : Option Nat :=
  let start := if b.nominal ≠ 0 then some b.nominal else if s.opens j b.id = some 0 then some b.last else none
  start.map fun t => max t b.since + s.refNs (s.getF 0 .GLB_BARRIER_TMO_TICKS * s.tickNow)

/-- BARRIER_TIMEOUT (R285, R384): counted and reported; HANG_REPORT; the step is aborted. A release that is due by then wins, and a
wait for coverage is not counted (R275). -/
def execBarrierTimeout (id : BitVec 28) (s : State) : Out :=
  .next <|
    if s.frozen then s
    else match s.barriers.find? fun b => b.id = id.toNat, s.job with
    | some b, some j =>
      match s.barrierDue j b with
      | none => s
      | some t =>
        if (s.releasable j b ∧ s.releaseTime b ≤ t) ∨ (s.opens j b.id = some 0 ∧ !j.stepCovered j.step) then s
        else
          let s := (s.barDies b).foldl (fun s d => s.count d (dieCtr 11) 1) (s.advanceTo t)
          ((s.ownFault 0x31 18 0 0 id.toNat 0 1).hangReport id.toNat).requestAbort
    | _, _ => s

/-! PHASE_SWITCH (R287). -/

/-- A die's window closes (R425): its energy is divided among layers by weighted activity; what is left over, and the energy of a
window without activity, goes to UNATTR. -/
def EnergyLog.closeWin (e : EnergyLog) (d : Nat) : EnergyLog :=
  let w := Store.get EWin.fresh e.wins d
  let total := (w.shares.map (·.2)).foldl (· + ·) 0
  let part (n : Nat) : Nat := if total = 0 then 0 else w.amount * n / total
  let layers := w.shares.foldl (fun m x => Store.set 0 m x.1 (Store.get 0 m x.1 + part x.2)) e.layers
  let given := (w.shares.map fun x => part x.2).foldl (· + ·) 0
  { e with layers := layers, unattr := e.unattr + (w.amount - given), wins := Store.set EWin.fresh e.wins d EWin.fresh }

/-- ENERGY_RECORD (R424, Table 14.8); windows that are open close with it. -/
def State.energyRecord (s : State) (j : Job) (step tstart : Nat) : State :=
  let e := computeDies.foldl (fun e d => e.closeWin d) s.edge.energy
  let cur := (s.ctr 18 Reg.PWR_STACK_ENERGY_LO).toNat - e.input
  let die (d : Nat) : Nat := (s.ctr d Reg.PWR_ENERGY_LO).toNat - e.dieE.getD d 0
  let stack (d : Nat) : Nat := (s.ctr d Reg.PWR_STACK_ENERGY_LO).toNat - e.stackE.getD d 0
  let parts := ((List.range 20).map die).foldl (· + ·) 0 + (computeDies.map stack).foldl (· + ·) 0
  let lastStage := j.cut.pp * j.cut.v - 1
  let reach := (List.range (j.cut.dp * j.cut.mb)).filter fun b => !(j.drops.any fun x => x.covers b lastStage)
  let mj (n : Nat) : List Byte := natLe 4 (n / 1000)
  let head := natLe 4 step ++ natLe 4 (1 + e.aborted.toNat * 2) ++ natLe 8 tstart ++ natLe 8 s.now ++ natLe 8 cur ++
    (computeDies.flatMap fun d => mj (die d)) ++ (computeDies.flatMap fun d => mj (stack d)) ++
    (linkDies ++ controlDies).flatMap (fun d => mj (die d)) ++ mj (cur - parts) ++ mj e.unattr ++
    natLe 8 (reach.length * j.cut.mbtok) ++ List.replicate 64 0
  let a := dpa 0 0 (s.dramSize - 0x88000000 + step % 64 * 0x40000)
  let ls := j.graph.layers.flatMap fun l => mj (Store.get 0 e.layers l.layer)
  (s.writeRange a head).writeRange (a + 0x10000) ls

/-- RELAYOUT (R261, R376): a die lost since the last boundary leaves the stripe; the registers take the layout of the dies that are
left, every persistent range goes to its place under par_map with the new n, and the new region's parity is formed. Without room, or
with fewer than two stripe dies, the module is lost. -/
def State.relayout (s : State) : State :=
  let lost := s.stripe.filter s.lostDies.contains
  if lost.isEmpty then s
  else
    let left := s.stripe.filter fun d => !lost.contains d
    let plan := match s.job with | some j => j.groupPlan | none => 0
    match (if left.length < 2 then none else Config.parLayout plan left) with
    | none => s.loseModule s.modIx
    | some (base, blocks, stg) =>
      let (s, old) := match s.job with | some j => s.gather s.stripe fun s d => s.layoutSections j d | none => (s, [])
      let mask := (left.map (2 ^ ·)).foldl (· + ·) 0
      let s := ((s.setFs computeDies .MEM_PAR_MASK_MASK mask).setFs computeDies .MEM_PAR_BASE_BASE base)
      let s := (s.setFs computeDies .MEM_PAR_BLOCKS_BLOCKS blocks).setFs computeDies .MEM_STG_BASE_BASE stg
      let s := match s.job with | some j => old.foldl (fun (s : State) x => s.restoreRange j x) s | none => s
      s.regenerateAll

/-- RESHARD_COMMIT (R336): the group's report decides, once no segment is left to copy; the new layout commits with the next epoch,
parity is regenerated. -/
def State.reshardCommit (s : State) (j : Job) (r : ReshardPlan) : State :=
  match s.edge.reshard with
  | none => s
  | some q =>
    if !s.reshardDue then s
    else
      let s := { s with edge := { s.edge with reshard := none } }
      let s := s.setFs (computeDies ++ linkDies) .FNL_STATUS_FENCE 0
      if !r.fits then s.finishLong q.tag rcNoResource []
      else if !r.complete then (s.setFs computeDies .FNL_ERR_PERMUTE 1).finishLong q.tag rcAborted []
      else if ¬(r.groupMax = r.groupPlan ∧ r.groupMin = r.groupPlan) then (s.dataCorrupt r.groupPlan []).finishLong q.tag rcFault []
      else
        let e := (s.getF 0 .FNL_EPOCH_EPOCH + 1) % 65536
        let s := s.setFs (computeDies ++ linkDies) .FNL_EPOCH_EPOCH e
        let lo : Word := j.seed.setWidth 32; let hi : Word := (j.seed >>> 32).setWidth 32
        let s := computeDies.foldl (fun s d => (List.range 272).foldl (fun s p =>
          ((s.setReg d (Reg.SPRG_SEED_LO p) lo).setReg d (Reg.SPRG_SEED_HI p) hi).setF d (.SPRG_EPOCH_EPOCH p) e) s) s
        let k := { j with cut := parseCut q.cut, groupPlan := r.groupPlan,
                          fabric := if q.fabric.isEmpty then j.fabric else q.fabric }.formGroups
        let k := { k with plans := k.plans ++ [(s.planInputs k k.step, r.groupPlan, true)] }
        let s := ({ s with job := some k }.setFnl fun f => { f with parity := [], staged := [] }).formParity k
        s.regenerateAll.finishLong q.tag rcOk [BitVec.ofNat 32 e]

/-- The end of a step (R286, R388, R393, R424): bank and journal close, the energy record, unprotected rows, a relayout; the next step waits at its start, which this module reaches, or the job
ends once no checkpoint is due. -/
def State.endStep (s : State) (j : Job) : State :=
  let tstart := match s.journal with | some x => x.tstart | none => j.stepStart
  let s := s.closeSage.closeJournal.energyRecord j j.step tstart
  let clear (r : Nat) : Bool := (List.range 16).all fun j => !(s.part (s.parityDie r) j).touched.contains r
  let s := (s.unprotected.filter clear).foldl State.regenerateRow s
  let s := s.relayout
  let j := (s.job.getD j)
  let j := { j with lastDone := some j.step, dropped := j.dropped + ((List.range (j.cut.dp * j.cut.mb)).filter fun b => j.drops.any fun d => decide (d.lo ≤ b ∧ b ≤ d.lo + d.nm1)).length,
                    descs := j.descs.filter fun x => x.step ≠ j.step, step := j.step + 1, aborts := 0, drops := [] }
  let s := { s with job := some j, edge := { s.edge with boundary := some 0 } }
  match j.endReq with
  | .finish => s.settleEnd
  | _ =>
    match s.edge.replay with
    | some q =>
      let s := s.countK 7 1
      if q.step < j.step then
        let s := (s.setF 18 .JRN_STATUS_REPLAY 0).setF 18 .JRN_STATUS_STOPPED 0
        let s := { s with job := some { j with running := false, started := false, atBoundary := true, fetching := false },
                          edge := { s.edge with replay := none, boundary := none } }
        s.finishLong q.tag rcOk [BitVec.ofNat 32 q.step, BitVec.ofNat 32 q.stopped.toNat]
      else
        let s := s.readRecord j.step
        let drops := match s.recordBytes j.step with | some b => recordDrops b | none => []
        let s := ({ s with job := some { j with drops := drops } }.replayEpoch j.step).setReg 18 Reg.JRN_REPLAY_STEP (BitVec.ofNat 32 j.step)
        (s.openJournal j.step).reachStart
    | none => s.reachStart

/-- PHASE_SWITCH (R287): at a released boundary bay spares take over and every fetcher takes the next phase's variant, once that
is in the cache; at the end of the update phase the parts of LND-2400 shards that arrive are kept (R386), and the step ends; at the boundary
that follows, it is where a reshard commits (R336, log 117). -/
def execPhaseSwitch (ends : PhaseEnd) (s : State) : Out :=
  .next <|
    match s.job with
    | none => s
    | some j =>
      if s.frozen || !j.running then s
      else match s.edge.boundary with
      | some (ph + 1) =>
        if !s.variantReady j (ph + 1) then s.variantWait (ph + 1)
        else
          let j := { j with phase := ph + 1 }
          let s := { s with job := some j, edge := { s.edge with boundary := none } }
          let s := if ph = 2 then s.takeBack else s
          ((s.substitute.showPhase (ph + 1)).selectVariant j (ph + 1) false).writeTags
      | some 0 => s.reshardCommit j ends.reshard
      | none => if j.phase = 3 then ((ends.shards.foldl (fun s x => s.keepShard j x) s).endStep j).plannedFailover else s

/-- VARIANT_BUILD (R289-R293): a variant takes an entry of the schedule cache; with every entry locked the build waits, a build for a
repair state that is past is discarded, and so is one that the placer does not emit (R127, R267). -/
def execVariantBuild (key : List Byte) (parts : List VariantPart) (s : State) : Out :=
  .next <| if s.repairFresh s.substitute key && s.buildLegal key parts then s.placeVariant key parts else s

end Sys2Proof.Machine
end

