-- ==== Sys2Proof/Machine/CmdOps.lean ====
section
/-! DEFINITION. What MCI commands share: Table 12.7, the checks of a request in their order (log 40), answers, tags
(R346-R353, R359, R362, R365). -/

namespace Sys2Proof.Machine

/-- A row of Table 12.7: long, J, N, whether generation 1 refuses it, whether it is scoped to a job, and the argument bits
that the table names, from DATA1 on. -/
structure CmdRow where
  long : Bool
  j : Bool
  n : Bool
  gen1 : Bool
  job : Bool
  args : List Word
  deriving DecidableEq, Repr

def w32 : Word := 0xFFFFFFFF#32
def wHi : Word := 0x000FFFFF#32

/-- The commands of Table 12.7 by opcode. -/
def cmdRow (op : Nat) : Option CmdRow :=
  let row (long j n gen1 job : Bool) (args : List Word) : Option CmdRow := some ⟨long, j, n, gen1, job, args⟩
  match op with
  | 0x01 => row false false false false false []
  | 0x02 => row false false false false false [0x1FE#32]
  | 0x03 => row false false false false false [0xFFFF#32]
  | 0x10 => row true true true true false [w32, wHi, w32, w32, wHi, w32, wHi, w32, w32, w32, wHi, 0x303FF#32, w32, wHi]
  | 0x11 => row false true false false true [w32]
  | 0x12 => row true true true false true [1#32]
  | 0x13 => row false false false false true []
  | 0x14 => row true true true false true [w32, wHi, w32, wHi]
  | 0x15 => row false false false false true [w32, wHi, w32, w32]
  | 0x20 => row true false false false true [0x7FFFFF#32]
  | 0x21 => row true false false false true [0xFFFFF#32]
  | 0x22 => row true false false false true [w32, w32, w32, w32, w32]
  | 0x23 => row true false false false true [w32, wHi, 0x7F#32]
  | 0x30 => row true true false false true [1#32, w32, wHi, w32]
  | 0x40 => row true false false false false [w32, w32, w32]
  | 0x50 => row true true false false true [w32, w32, wHi, 0xFFFFF#32, 0xFFFF0FFF#32, 1#32]
  | 0x51 => row false false false false false [w32, w32, wHi]
  | 0x60 => row false false false false false [1#32]
  | 0x61 => row false false false false false []
  | 0x62 => row true false true false false [0xFFFFF#32]
  | 0x63 => row false false false false false []
  | 0x64 => row false false false false false [w32, wHi, w32]
  | 0x65 => row false false false false false []
  | 0x70 => row false false false false false [0x1FFF#32]
  | 0x71 => row false true false false false [1#32]
  | 0x80 => row true true false false false [w32, wHi, w32]
  | 0x81 => row true true true false false []
  | _ => none

/-- Compute dies that the repair record or a fault marks lost. -/
def State.dieGone (s : State) (d : Nat) : Bool := s.lostDies.contains d

/-- The functions that a command needs are ready (R362, R365): every command needs MBX, and JOB_LOAD alone leaves out the dies that are
marked lost. -/
def State.needsMet (s : State) (op l : Nat) : Bool :=
  let f (x : Fld) : Bool := s.flag 18 x
  let mem (held : Bool) : Bool := computeDies.all fun d => (held && s.dieGone d) || (s.reg 18 Reg.GLB_FUNC_READY_HI).getLsbD d
  f .GLB_FUNC_READY_MBX && match op with
  | 0x10 => f .GLB_FUNC_READY_PLACER && f .GLB_FUNC_READY_THYME && mem true &&
      (computeDies.all fun d => s.dieGone d || (s.reg 18 Reg.GLB_FUNC_READY).getLsbD (16 + d)) &&
      (linkDies.all fun d => s.dieGone d || (s.reg 18 Reg.GLB_FUNC_READY).getLsbD (d - 8))
  | 0x11 | 0x14 | 0x20 | 0x21 | 0x22 | 0x23 | 0x50 => f .GLB_FUNC_READY_PLACER
  | 0x30 => mem false
  | 0x40 => f (if l = 0 then .GLB_FUNC_READY_HL0 else .GLB_FUNC_READY_HL1)
  | 0x60 | 0x61 => f .GLB_FUNC_READY_THYME
  | 0x63 | 0x64 | 0x65 | 0x80 | 0x81 => f .GLB_FUNC_READY_SEC
  | 0x70 => f .GLB_FUNC_READY_MGT
  | _ => true

/-- A J command is outstanding (R359). -/
def State.jBusy (s : State) : Bool :=
  s.longs.any fun c => match cmdRow c.opcode with | some r => r.j | none => false

/-- The checks that any request passes before its command sees it, in their order (log 40): opcode, functions needed,
generation, reserved bits, the job, J. -/
def State.checkRequest (s : State) (l c : Nat) (req : List Word) : Option Nat :=
  let w (i : Nat) : Word := req.getD i 0
  let op := bits (w 0) 15 0
  match cmdRow op with
  | none => some rcBadOpcode
  | some r =>
    if !s.needsMet op l then some rcNotReady
    else if r.gen1 && s.getF (linkDie l) (.MBX_CTL_GEN c) == 1 then some rcGeneration
    else if bits (w 0) 31 16 ≠ 0 ∨ (List.range 15).any fun i => w (i + 1) &&& ~~~ (r.args.getD i 0) ≠ 0 then some rcBadArg
    else if r.job && s.job.isNone then some rcNoJob
    else if op == 0x10 && s.job.isSome then some rcJobLoaded
    else if r.j && op != 0x12 && s.jBusy then some rcBusy
    else none

/-- The answer to a GO (R349, R351, R352): ACK and the response change together, DONE sets, and IE_DONE signals. -/
def State.answer (s : State) (l c code : Nat) (ws : List Word) : State :=
  let d := linkDie l
  let ch := s.chan l c
  let s := s.setChan l c { ch with taken := false }
  let s := s.setReg d (Reg.MBX_ACK c) (BitVec.ofNat 32 (3 * 2 ^ 30 + code % 256 * 65536 + ch.seq % 65536))
  let s := if s.getF d (.MBX_CTL_GEN c) = 1 then
      (List.range 8).foldl (fun s i => s.setReg d (Reg.MBX_DATA c i) (ws.getD i 0)) s
    else (List.range 16).foldl (fun s i => s.setReg d (Reg.MBX_RESP c i) (ws.getD i 0)) s
  let s := s.setF d (.MBX_STAT_STATE c) 3
  if s.flag d (.MBX_CTL_IE_DONE c) then s.signal l c else s

/-- ACCEPTED latencies of a channel (Table 15.4): their sum and the largest. -/
def State.countLatency (s : State) (c ns : Nat) : State :=
  let s := s.countK (128 + 4 * c + 2) ns
  let off := dieCtr (128 + 4 * c + 3)
  s.setCtr 18 off (BitVec.ofNat 64 (max (s.ctr 18 off).toNat ns))

/-- Firmware takes the request of a FULL channel (R349); one that a check refuses is answered at once. The second component
says whether a request of a command channel is now taken. -/
def State.takeRequest (s : State) (l c : Nat) : State × Bool :=
  let d := linkDie l
  if 24 ≤ c ∨ !s.flag 18 .GLB_FUNC_READY_MBX then (s, false)
  else if s.getF d (.MBX_STAT_STATE c) ≠ 1 then (s, (s.chan l c).taken)
  else
    let ch := s.chan l c
    let s := (s.setChan l c { ch with taken := true }).setF d (.MBX_STAT_STATE c) 2
    let s := s.countLatency c (s.now - ch.goAt)
    match s.checkRequest l c ch.req with
    | some code => (s.answer l c code [], false)
    | none => (s, true)

/-- How a command goes on: a short answer, an accepted long command with its acceptance code (and its result, when it is
known at once), or not at all: it waits. -/
inductive Mci where
  | done (code : Nat) (ws : List Word)
  | accept (code : Nat) (result : Option (Nat × List Word))
  deriving DecidableEq, Repr

/-- A tag for a long command (R350); 64 on a link are the limit. -/
def State.acceptLong (s : State) (l c : Nat) (req : List Word) (code : Nat) (r : Option (Nat × List Word)) : State :=
  let tag := s.nextTag
  let cmd : LongCmd := { tag := tag, opcode := bits (req.getD 0 0) 15 0, link := l, chan := c, seq := (s.chan l c).seq,
                         args := req, result := r }
  ({ s with longs := s.longs ++ [cmd], nextTag := if tag = 0xFFFF then 1 else tag + 1 }).answer l c code [BitVec.ofNat 32 tag]

/-- Long commands outstanding on a link (R350): those without a completion event, and those whose event waits on channel 24, which
therefore never fills (R355). -/
def State.outstanding (s : State) (l : Nat) : Nat :=
  let own (r : List Word) : Bool := bits (r.getD 5 0) 16 16 == l
  (s.longs.filter fun x => x.link = l).length + (((s.chan 0 24).queue ++ (s.chan 1 24).queue).filter own).length

/-- An MCI row: the request of its opcode is taken if it is still FULL, and its command runs. `run` sees the tag that a long
command would get. -/
def State.mci (s : State) (l c op : Nat) (run : State → List Word → Nat → State × Mci) : State :=
  if bits ((s.chan l c).req.getD 0 0) 15 0 ≠ op then s
  else match s.takeRequest l c with
  | (s, false) => s
  | (s, true) =>
    let req := (s.chan l c).req
    let long := match cmdRow op with | some r => r.long | none => false
    if long && decide (64 ≤ s.outstanding l) then s.answer l c rcNoResource []
    else match run s req s.nextTag with
    | (s, .done code ws) => s.answer l c code ws
    | (s, .accept code r) => s.acceptLong l c req code r

def argW (req : List Word) (i : Nat) : Nat := (req.getD i 0).toNat
/-- A DPA argument: the low word and the high word's [19:0]. -/
def argDpa (req : List Word) (i : Nat) : Nat := argW req i + argW req (i + 1) % 2 ^ 20 * 2 ^ 32

/-- Bytes that firmware reads at a DPA that a command names: BAD_ARG where unmapped (R235), FAULT where not readable. -/
def State.readArg (s : State) (a n : Nat) : State × Except Nat (List Byte) :=
  if n = 0 then (s, .ok [])
  else if !s.hostRange false a n then (s, .error rcBadArg)
  else match s.readRange a n with
    | (s, true, bs) => (s, .ok bs)
    | (s, false, _) => (s, .error rcFault)

end Sys2Proof.Machine
end

