-- ==== Sys2Proof/Machine/XferOps.lean ====
section
/-! DEFINITION. Checkpoint transfers over Ethernet (R395): frames, what is asked for next, what has arrived, how a transfer
ends. -/

namespace Sys2Proof.Machine

/-- The storage descriptor of a transfer: the copy in the reference of a checkpoint that is written, or what a restore named. -/
def State.xferDesc (s : State) (x : Xfer) : List Byte :=
  if x.write then
    match s.edge.ckpt with
    | some c => s.view (c.dpa + 0x40) 64
    | none => []
  else x.store

/-- A transfer frame: MAC header, the 32-byte transfer header with its CRC-32, and data. -/
def State.xferFrame (s : State) (x : Xfer) (op tag off len : Nat) (data : List Byte) : List Byte :=
  let d := 16 + x.port / 8; let k := x.port % 8
  let mac := natBe 6 (s.getF d (.LNK_MAC_HI_MAC_HI k) * 2 ^ 32 + (s.reg d (Reg.LNK_MAC_LO k)).toNat)
  let h := natLe 2 op ++ [0, 0] ++ natLe 4 tag ++ natLe 8 x.obj ++ natLe 8 off ++ natLe 4 len
  slice (s.xferDesc x) 0 6 ++ mac ++ slice (s.xferDesc x) 6 2 ++ h ++ natLe 4 (crc32 (h ++ data)).toNat ++ data

/-- One frame of a transfer goes out: a WRITE with its data, or a READ. -/
def State.sendXfer (s : State) (x : Xfer) (f : XFrame) : State :=
  let b := if x.write then s.xferFrame x 1 f.tag f.off f.len ((x.store.drop f.off).take f.len)
    else s.xferFrame x 3 f.tag f.off f.len []
  { s with outbox := s.outbox ++ [Sent.transfer x.port b] }

/-- New frames of a transfer, as long as fewer than 16 are in flight: up to 8,192 bytes written, up to 1 MiB asked for. -/
def State.pumpXfer (s : State) (x : Xfer) : Nat → State × Xfer
  | 0 => (s, x)
  | n + 1 =>
    if 16 ≤ x.out.length ∨ x.len ≤ x.next then (s, x)
    else
      let len := min (if x.write then 8192 else 1048576) (x.len - x.next)
      let f : XFrame := { off := x.next, len := len, tag := x.next / 64 % 2 ^ 32, tries := 0 }
      (s.sendXfer x f).pumpXfer { x with out := x.out ++ [f], next := x.next + len, at_ := s.now } n

/-- Every transfer sends what it may. -/
def State.pumpXfers (s : State) : State :=
  let xs := s.edge.xfers
  xs.foldl (fun s x =>
    let (s, y) := s.pumpXfer x 16
    { s with edge := { s.edge with xfers := s.edge.xfers ++ [y] } }) { s with edge := { s.edge with xfers := [] } }

/-- How far the bytes that have arrived reach without a gap. -/
def reach (got : List (Nat × List Byte)) : Nat → Nat → Nat
  | 0, off => off
  | n + 1, off =>
    match got.find? fun g => decide (g.1 ≤ off ∧ off < g.1 + g.2.length) with
    | some g => reach got n (g.1 + g.2.length)
    | none => off

def Xfer.reached (x : Xfer) (off : Nat) : Nat := reach x.got (x.got.length + 1) off

/-- The bytes of an object that has arrived whole. -/
def Xfer.image (x : Xfer) : List Byte := x.got.foldl (fun b g => splice b g.1 g.2) (List.replicate x.len 0)

/-- A command whose transfers fail completes with FAULT (R395); a load that restores from them loads nothing. -/
def State.failXfers (s : State) (tag : Nat) : State :=
  let isLoad := s.longs.any fun c => c.tag = tag ∧ c.opcode = 0x10
  let s := { s with edge := { s.edge with xfers := s.edge.xfers.filter (fun x => x.tag ≠ tag),
                                          ckpt := s.edge.ckpt.filter fun c => c.tag ≠ tag },
                    job := if isLoad then none else s.job }
  s.finishLong tag rcFault []

/-- A transfer has moved its object (R393, R396): a restore takes the image; the last one of a command completes it. -/
def State.doneXfer (s : State) (x : Xfer) : State :=
  let s := { s with edge := { s.edge with xfers := s.edge.xfers.filter fun y => !(y.tag == x.tag && y.obj == x.obj) } }
  let last := !(s.edge.xfers.any fun y => y.tag = x.tag)
  if x.write then
    match s.edge.ckpt with
    | some c =>
      if last ∧ c.tag = x.tag then
        { s with edge := { s.edge with ckpt := none } }.finishLong x.tag rcOk
          [BitVec.ofNat 32 (dpaLo c.dpa), BitVec.ofNat 32 (dpaHi c.dpa), BitVec.ofNat 32 c.step]
      else s
    | none => s
  else
    match s.job with
    | none => s
    | some j =>
      let s := s.takeImage j x.image (fld x.image 8 4) (x.obj == fld x.store 8 8)
      if last then
        let s := s.regenerateAll.formParity j
        if s.longs.any fun c => c.tag = x.tag ∧ c.opcode = 0x10 then s.finishLong x.tag rcOk [BitVec.ofNat 32 j.variants] else s
      else s

/-- A transfer takes its next Ethernet port; when none is left, the command fails. -/
def State.moveXfer (s : State) (x : Xfer) : State :=
  let tried := x.tried ++ [x.port]
  match ethPorts.find? fun p => !tried.contains p && s.ethUp p with
  | some p =>
    let reset (f : XFrame) : XFrame := { f with tries := 0 }
    let y := { x with port := p, tried := tried, out := x.out.map reset, at_ := s.now }
    let put (z : Xfer) : Xfer := if z.tag = x.tag ∧ z.obj = x.obj then y else z
    let s := { s with edge := { s.edge with xfers := s.edge.xfers.map put } }
    y.out.foldl (fun s f => s.sendXfer y f) s
  | none => s.failXfers x.tag

end Sys2Proof.Machine
end

