-- ==== Sys2Proof/Machine/Link.lean ====
section
/-! DEFINITION. The rows of the links (R300-R319, R337-R338, R439-R442): frames sent and received, lanes, training,
Ethernet, injection. -/

namespace Sys2Proof.Machine

/-! FRAME_SEND (R308-R310, R338). -/

/-- The virtual channels that a slot may carry, in order: VC 0 in slots 0-14, then 3, 1 and 2, where between 1 and 2 a frame that has
been at its channel's head for the age limit of R262 goes first, the older one when both have. -/
def slotOrder (x : PortS) (slot now age : Nat) : List Nat :=
  let since (vc : Nat) : Option Nat := ((x.queue.find? fun e => e.1 == vc).map (·.2.1)).filter fun t => decide (age ≤ now - t)
  let two := match since 1, since 2 with
    | none, some _ => true
    | some a, some b => decide (b < a)
    | _, none => false
  (if slot < 15 then [0] else []) ++ (if two then [3, 2, 1] else [3, 1, 2])

/-- The frame of the queue that a slot carries, by its place: its channel has credit and the retry buffer has room. While the
module is stopped only a stop frame leaves. -/
def pickFrame (x : PortS) (stopped : Bool) (order : List Nat) : Option Nat :=
  if 4096 ≤ x.retry.length then none
  else (order.filter fun vc => decide (0 < x.credits.getD vc 0)).findSome? fun vc =>
    x.queue.findIdx? fun e => e.1 == vc && (!stopped || frType e.2.2 == 4)

/-- The credit that the next frame returns: its channel and how many frames. -/
def creditOf (x : PortS) : Nat × Nat :=
  match (List.range 4).find? fun vc => decide (0 < x.give.getD vc 0) with
  | some vc => (vc, min 63 (x.give.getD vc 0))
  | none => (0, 0)

/-- A frame leaves with the control fields that the port owes its peer. -/
def State.emit (s : State) (pt : Nat) (seq : Nat) (f : List Byte) : State :=
  let x := s.port pt
  let (vc, n) := creditOf x
  let ver := if s.portGen pt = 1 then 3 else 4
  s.setPort pt { x with wire := sealFrame ver seq x.rxSeq x.nak vc n f, wireErr := [], nak := false,
                        give := x.give.set vc (x.give.getD vc 0 - n),
                        late := x.late.map fun l => (l.1 - 1, l.2) }

/-- FRAME_INJECTION at the sender (R338): whether this data frame is selected, and the KIND. -/
def State.inject (s : State) (pt : Nat) : State × Option Nat :=
  let d := portDie pt; let k := portIx pt
  let kind := s.getF d (.LNK_INJ_CTL_KIND k)
  if s.flag d (.LNK_INJ_CTL_EN k) && kind ≠ 2 then
    let x := s.port pt
    let l := lfsrStep x.lfsr
    let s := s.setPort pt { x with lfsr := l }
    if bits l 15 0 < s.getF d (.LNK_INJ_CTL_RATE k) then (s.portCount pt 6, some kind) else (s, none)
  else (s, none)

/-- A data frame leaves unless injection omits or delays it; its sequence number stays taken. Corruption before FEC XORs symbols of the
codeword that starts the frame. -/
def State.emitData (s : State) (pt seq : Nat) (f : List Byte) : State :=
  let (s, k) := if frType f = 1 then s.inject pt else (s, none)
  match k with
  | some 0 => s.modPort pt fun x => { x with wire := [] }
  | some 1 =>
    let m := s.reg (portDie pt) (Reg.LNK_INJ_MASK (portIx pt))
    let pos := s.getF (portDie pt) (.LNK_INJ_POS_POS (portIx pt))
    (s.emit pt seq f).modPort pt fun x => { x with wireErr := [(pos, bits m 9 0), (pos + 1, bits m 19 10), (pos + 2, bits m 29 20)] }
  | some 3 =>
    let w := s.getF (portDie pt) (.LNK_INJ_CTL_WINDOW (portIx pt))
    s.modPort pt fun x => { x with wire := [], late := x.late ++ [(w, splice f 2 (natLe 2 seq))] }
  | _ => s.emit pt seq f

/-- A new sequenced frame takes the next sequence number and a credit, and stays in the retry buffer; the frame behind it comes to the
head of its channel, where its age starts (R262, R308). -/
def State.sendNew (s : State) (pt i : Nat) : State :=
  let x := s.port pt
  match x.queue[i]? with
  | none => s
  | some (vc, _, f) =>
    let seq := x.txSeq
    let f := splice f 2 (natLe 2 seq)
    let rest := x.queue.eraseIdx i
    let rest := match rest.findIdx? fun e => e.1 == vc with
      | some k => rest.modify k fun e => (e.1, s.now, e.2.2)
      | none => rest
    let s := s.setPort pt { x with queue := rest, txSeq := (seq + 1) % 65536, retry := x.retry ++ [(seq, f)],
                                   credits := x.credits.set vc (x.credits.getD vc 0 - 1),
                                   waitAt := if x.retry.isEmpty then s.now else x.waitAt }
    (s.portCount pt 0).emitData pt seq f

/-- A MAC frame as it goes on the wire (R304): padded to the shortest length, with the FCS that transmission generates. -/
def withFcs (f : List Byte) : List Byte :=
  let f := f ++ List.replicate (60 - f.length) 0
  f ++ natLe 4 (crc32 f).toNat

/-- A PAUSE frame (Annex 31B of IEEE 802.3): MAC control type 0x8808, opcode 0x0001, and the quanta it asks for. -/
def pauseFrame (src : List Byte) (quanta : Nat) : List Byte :=
  [0x01, 0x80, 0xC2, 0x00, 0x00, 0x01] ++ src ++ [0x88, 0x08, 0x00, 0x01] ++ (natLe 2 quanta).reverse

/-- An Ethernet port sends the next MAC frame of its ring, unless a PAUSE frame keeps it silent (R304, R305). -/
def State.sendMac (s : State) (pt : Nat) : State :=
  let s := s.pumpXfers.placeOutbox
  let x := s.port pt
  if s.now < x.pauseTill then s
  else match x.queue with
  | [] => s
  | (_, _, f) :: t => (s.setPort pt { x with queue := t, wire := withFcs f }).portCount pt 8

/-- FRAME_SEND (R308): a native or compatibility port sends a delayed frame that is due, else a replayed frame, else the
frame its slot carries, else an idle frame. -/
def execFrameSend (pt : Port) (slot : Fin 16) (s : State) : Out :=
  .next <|
    let s := s.placeOutbox
    if s.portUp pt ∧ s.portGen pt = 2 then s.sendMac pt
    else if !s.nativeUp pt then s
    else
      let x := s.port pt
      let idle := frameOf 0 0 false 0 s.modIx 0xFFFF []
      match x.late.find? fun l => l.1 = 0 with
      | some l =>
        if s.frozen then s.emit pt 0 idle
        else (s.setPort pt { x with late := x.late.erase l }).emit pt (frSeq l.2) l.2
      | none =>
        match (if s.frozen then none else x.resend.head?) with
        | some q =>
          let s := s.setPort pt { x with resend := x.resend.tail, replayFrom := if x.resend.tail.isEmpty then none else x.replayFrom }
          match x.retry.find? fun r => r.1 = q with
          | some r => (s.portCount pt 2).emitData pt q r.2
          | none => s.emit pt 0 idle
        | none =>
          match pickFrame x s.frozen (slotOrder x slot s.now (s.getF 0 .MEM_AGE_CFG_BRIDGE * 64)) with
          | some i => s.sendNew pt i
          | none => s.emit pt 0 idle

/-! Frames received. -/

/-- IDLE_FRAME (R307, R309): a good one brings ACK, NAK and credit only. -/
def execIdleFrame (pt : Port) (frame : List Byte) (fecOk : Bool) (s : State) : Out :=
  .next (if s.nativeUp pt then (s.receive pt frame fecOk).1 else s)

/-- A SEND entry reaches its receive queue, or waits while the queue is full, its credit not yet returned (R308); one for a queue that
takes no entries is discarded, and its sender answers DENIED (R162, R166), and so is one of a unit that a drop entry
excludes (R370). The frame carries SPRG_STEP at the SEND's dispatch (R152; log 99). An entry for an event queue is the completion of a cancelled SEND. -/
def State.takeSend (s : State) (qid step : Nat) (e : List Byte) (pt : Nat) (f : List Byte) : State :=
  let d := qid / 2 ^ 14; let q := qid % 64
  let p := s.physOf d (qid / 64 % 256)
  if q < 48 ∧ s.job.any fun j => j.running && j.excluded (hdrMbid e) (hdrLayer e) then s
  else match s.sendTarget qid with
  | some (d', p', q') =>
    if (s.que d' p' q').full then
      s.modPort pt fun x => { x with rx := x.rx ++ [f], give := x.give.set 1 (x.give.getD 1 0 - 1) }
    else s.pushQ d' p' q' { bytes := e, tick := step, cmd := 0 }
  | none =>
    if 56 ≤ q ∧ d < 16 then s.postEntry d p q e (fld e 16 1 = rcCancelled)
    else s

/-- Frames of SEND that wait for a full receive queue are tried again, oldest first. -/
def State.retrySends (s : State) (pt : Nat) : State :=
  let fs := (s.port pt).rx
  fs.foldl (fun s f => s.takeSend (fld (frPayload f) 64 4 % 2 ^ 18) (fld (frPayload f) 68 4) (slice (frPayload f) 0 64) pt f)
    (s.modPort pt fun x => { x with rx := [], give := x.give.set 1 (x.give.getD 1 0 + fs.length) })

/-- Drop entries of another module join the step's list (R374). -/
def State.mergeDropsFrom (s : State) (bs : List Byte) : State :=
  match s.job with
  | some j =>
    if j.running ∧ !s.dropsClosed j ∧ !s.replaying then
      let es := ((List.range (bs.length / 16)).map fun i => parseDrop (slice bs (16 * i) 16)).filter fun x => x.stride ≠ 0
      let ds := es.foldl (fun a x => insertDrop x a) j.drops
      let s := s.putDrops j ds
      if 256 < ds.length then s.requestAbort else s
    else s
  | none => s

/-- A data frame for this module (R321, R333): SEND on VC 1; otherwise its reduction takes it, or it is held; a frame of another
epoch is discarded. Whole data units enter the group parity (R330). The root's CRC-32 and the units of a rebuild go to firmware: the
modules that differ, and the units, arrive with MODULE_LOST (log 112, log 117). -/
def State.takeData (s : State) (pt : Nat) (f : List Byte) : State :=
  let b := frPayload f
  if frVc f = 1 then s.takeSend (fld b 64 4 % 2 ^ 18) (fld b 68 4) (slice b 0 64) pt f
  else
    let rid := fldBits b 0 4 27 0
    if rid = dropRid ∧ frEpoch f = 0xFFFF then s.mergeDropsFrom (b.drop 8)
    else if (rid = corruptRid ∧ frEpoch f = 0xFFFF) ∨ rid = unitRid then s
    else if rid = formRid then
      if frEpoch f = s.getF 0 .FNL_EPOCH_EPOCH then s.putParity (fldBits f 10 2 9 0) (fld b 8 8 + fld b 4 4) (b.drop 16) false
      else s.setF (portDie pt) .FNL_ERR_EPOCH 1
    else match s.reduction rid with
    | some r => s.giveFrame (portDie pt) r f
    | none => s.setFnl fun x => { x with held := x.held ++ [(pt, s.now, f)] }

/-- A delivered data frame: one for another module goes on along the route to it (R316); without a route it is discarded, as
the frames of a lost module are (R312). -/
def State.deliverData (s : State) (pt : Nat) (f : List Byte) : State :=
  match s.job with
  | some j =>
    if frDst f = j.modIx then s.takeData pt f
    else match s.routePort j (frDst f) with
    | some p => s.queueFrame p (frVc f) f
    | none => s
  | none => s.takeData pt f

/-- What a TYPE 0x3 frame says (R319, R381): an arrival raises the subtree's latest arrival, which goes on once the subtree is
complete; a
release and an abort go down the tree. -/
def State.takeBarrier (s : State) (pt : Nat) (m : BarrierMsg) : State :=
  match m with
  | .arrival id t =>
    let n := id.toNat
    let b := (s.barriers.find? fun b => b.id = n).getD (Barrier.new n 0)
    let b := { b with remote := max b.remote t, kids := b.kids ++ [s.getF (portDie pt) (.LNK_PORT_STATUS_PEER_MOD (portIx pt))] }
    let s := { s with barriers := (s.barriers.filter fun (x : Barrier) => x.id ≠ n) ++ [b] }
    s.barrierUp n
  | .release id t =>
    let n := id.toNat
    let b := (s.barriers.find? fun b => b.id = n).getD (Barrier.new n 0)
    { s with barriers := (s.barriers.filter fun (x : Barrier) => x.id ≠ n) ++ [{ b with release := some t }],
             outbox := s.outbox ++ [Sent.barrier 1 n t] }
  | .abort t =>
    if s.edge.abortAt.isSome || (match s.job with | some j => !j.running | none => true) then s
    else { s with edge := { s.edge with abortAt := some t }, outbox := s.outbox ++ [Sent.barrier 2 0 t] }

/-- What a stop frame says (R439, R440, R442): a stop seen for the first time is issued here with its T and forwarded; one
that comes later than T - 12 ns freezes the module at once. A later time under a seen ID is the resume time. -/
def State.takeStopFrame (s : State) (pt id t : Nat) : State :=
  if !s.stop.seen.contains id then
    let s := { s with stop := { s.stop with seen := s.stop.seen ++ [id] }, outbox := s.outbox ++ [Sent.stop 0 id t (some pt)] }
    let was := s.getF 18 .DBG_STOP_STATUS_STATE
    let s := s.takeStop 4 true id t []
    if 2 ≤ was then s
    else if t < s.now + 12 then
      ((s.setFs allDies .DBG_STOP_STATUS_LATE 1).setFs allDies .DBG_STOP_STATUS_SMEAR 1).freezeNow
    else s
  else if s.getF 18 .DBG_STOP_ID_ID = id ∧ s.stop.target < t ∧ !s.stop.resumeSeen.contains t then
    let s := { s with stop := { s.stop with resumeSeen := s.stop.resumeSeen ++ [t], resumeAt := some t },
                      outbox := s.outbox ++ [Sent.stop 1 id t (some pt)] }
    if s.getF 18 .DBG_STOP_STATUS_STATE = 2 then s.setFs allDies .DBG_STOP_STATUS_STATE 3 else s
  else s

/-- A sequenced frame that is delivered has its effect; the payload layouts of barrier and stop frames are the model's
(log 35). -/
def State.deliver1 (s : State) (pt : Nat) (f : List Byte) : State :=
  let b := frPayload f
  match frType f with
  | 1 => s.deliverData pt f
  | 3 =>
    let id := BitVec.ofNat 28 (fld b 0 4); let t := fld b 4 8
    s.takeBarrier pt (if fld b 12 1 = 0 then .arrival id t else if fld b 12 1 = 1 then .release id t else .abort t)
  | 4 => s.takeStopFrame pt (fldBits b 0 4 25 0) (fld b 4 8)
  | _ => s

/-- A frame of a sequenced type arrives (R309, R441): in RUN it is delivered in sequence; during a stop it is captured. -/
def State.arrive (s : State) (pt : Nat) (f : List Byte) (fecOk : Bool) (time : Nat) (act : State → State) : State :=
  if !s.nativeUp pt then s
  else match s.receive pt f fecOk with
  | (s, false) => s
  | (s, true) =>
    if s.frozen then s.capture pt f time
    else match s.inOrder pt f with
    | (s, true) => act s
    | (s, false) => s

/-- Captured frames are delivered in order ahead of new frames (R442). -/
def State.deliverCaptured (s : State) : State :=
  (List.range 16).foldl (fun s pt =>
    let fs := (s.port pt).capture
    if fs.isEmpty then s
    else
      let s := s.modPort pt fun x => { x with capture := [] }
      fs.foldl (fun s c => match s.inOrder pt c.2.2 with | (s, true) => s.deliver1 pt c.2.2 | (s, false) => s) s) s

/-- DATA_FRAME (R309). -/
def execDataFrame (pt : Port) (frame : List Byte) (fecOk : Bool) (time : Nat) (s : State) : Out :=
  .next <|
    let s := s.advanceTo time
    let s := if s.frozen then s else s.retrySends pt
    s.arrive pt frame fecOk time fun s => s.deliverData pt frame

/-- BARRIER_FRAME (R319). -/
def execBarrierFrame (pt : Port) (frame : List Byte) (fecOk : Bool) (msg : BarrierMsg) (s : State) : Out :=
  .next (s.arrive pt frame fecOk s.now fun s => s.takeBarrier pt msg)

/-- STOP_FRAME (R439, R440, R442): it acts during a stop too, or a resume could not arrive. -/
def execStopFrame (pt : Port) (frame : List Byte) (fecOk : Bool) (stopId : BitVec 26) (target : Nat) (s : State) : Out :=
  .next <|
    if s.frozen ∧ s.nativeUp pt then
      match s.receive pt frame fecOk with
      | (s, true) => (s.takeStopFrame pt stopId.toNat target).capture pt frame s.now
      | (s, false) => s
    else s.arrive pt frame fecOk s.now fun s => s.takeStopFrame pt stopId.toNat target

/-! Thyme (R317, R318). -/

/-- THYME_SYNC_SEND (R317): once PERIOD has passed, a sync frame with its own send time and the times of the last one received. -/
def execThymeSyncSend (pt : Port) (s : State) : Out :=
  .next <|
    if !s.nativeUp pt then s
    else
      let x := s.port pt
      let s := s.advanceTo x.syncAt
      let b := natLe 8 (16 * s.now) ++ natLe 8 x.syncRx.1 ++ natLe 8 x.syncRx.2
      (s.setPort pt { x with syncAt := s.now + s.getF (portDie pt) (.LNK_TMB_CFG_PERIOD (portIx pt)) }).emit pt 0
        (frameOf 2 0 false 0 s.modIx 0xFFFF b)

/-- Slewing towards the parent (R318): at most 100 ppm and in the direction of the offset, in the units of TMB_STATUS.SLEW
(0.01 ppm); how much is free (log 55). -/
def slewOf (offset : Int) (now : Nat) : Int :=
  let m : Int := ((Config.slewRate offset now % 10001 : Nat) : Int)
  if offset = 0 then 0 else if offset < 0 then -m else m

/-- The time count has slewed since the last sample, at the rate that TMB_STATUS.SLEW shows, in 0.01 ppm; what is less than a
nanosecond carries over. -/
def State.slewNow (s : State) : State :=
  let c := s.edge.ctl
  let acc := c.slewed + sx 16 (s.getF s.activeK .TMB_STATUS_SLEW) * ((s.now - c.sampleAt : Nat) : Int)
  let s := { s with now := (max 0 ((s.now : Int) + acc.tdiv (10 ^ 8))).toNat }
  { s with edge := { s.edge with ctl := { c with slewed := acc.tmod (10 ^ 8), sampleAt := s.now } } }

/-- PARENT_SELECT and the parent's sample: one step when it is first acquired, slewing after, group lock after 64
consecutive samples within 8 ns. -/
def State.parentSample (s : State) (pt : Nat) (offset : Int) : State :=
  let s := if s.edge.ctl.acquired then s.slewNow
    else { s with now := (max 0 ((s.now : Int) + offset / 16)).toNat,
                  edge := { s.edge with ctl := { s.edge.ctl with acquired := true, sampleAt := s.now } } }
  let s := s.setFs controlDies .TMB_STATUS_SLEW (lowBits 16 (slewOf offset s.now))
  let n := if offset.natAbs ≤ 128 then (s.port pt).samples + 1 else 0
  let s := s.modPort pt fun x => { x with samples := n }
  if 64 ≤ n then s.setFs controlDies .TMB_STATUS_GROUP_LOCK 1 else s

/-- THYME_SYNC_FRAME (R317, R318): of a complete exchange the frame brings t1, t2 and t3, and the port has measured t4, all in units of
1/16 ns. -/
def execThymeSyncFrame (pt : Port) (frame : List Byte) (fecOk : Bool) (times : Option SyncTimes) (s : State) : Out :=
  .next <|
    if !s.nativeUp pt then s
    else match s.receive pt frame fecOk with
    | (s, false) => s
    | (s, true) =>
      let b := frPayload frame
      let s := s.modPort pt fun x => { x with syncRx := (fld b 0 8, (times.map SyncTimes.t4).getD (16 * s.now)) }
      match times.map fun x => { t1 := fld b 8 8, t2 := fld b 16 8, t3 := fld b 0 8, t4 := x.t4 : SyncTimes } with
      | none => s
      | some t =>
        let d := portDie pt; let k := portIx pt
        let a : Int := t.t2 - t.t1; let b : Int := t.t3 - t.t4
        let offset := (a + b) / 2
        let delay := (((t.t4 : Int) - t.t1) - ((t.t3 : Int) - t.t2)) / 2
        let s := s.setReg d (Reg.LNK_TMB_OFFSET k) (BitVec.ofInt 32 offset)
        let s := s.setReg d (Reg.LNK_TMB_DELAY k) (BitVec.ofInt 32 delay)
        match s.job with
        | none => s
        | some j =>
          let s := s.showParent j
          if (s.thymeParent j).map (·.2) = some pt.val then s.parentSample pt offset else s

/-! Lanes (R302, R305). -/

/-- LANE_REPAIR_FRAME (R302): both ends move the lane to the spare at the codeword boundary it names;
the end that did not ask for the repair answers with the same frame. -/
def execLaneRepairFrame (pt : Port) (frame : List Byte) (fecOk : Bool) (lane : Fin 8) (codeword : Nat) (s : State) : Out :=
  .next <|
    if !s.nativeUp pt then s
    else match s.receive pt frame fecOk with
    | (s, false) => s
    | (s, true) =>
      let d := portDie pt; let k := portIx pt
      if s.flag d (.LNK_PORT_STATUS_SPARE_USED k) ∨ (s.getF d (.LNK_LANE_STATUS_FAILED k)).testBit 8 then s
      else
        let agreed := match (s.port pt).repair with | some (l, c) => l == lane.val && c == codeword | none => true
        if !agreed then s
        else
          let s := if (s.port pt).repair.isNone then
              s.emit pt 0 (frameOf 5 0 false 0 s.modIx 0xFFFF (natLe 1 lane ++ natLe 8 codeword))
            else s
          let s := (s.setF d (.LNK_PORT_STATUS_SPARE_USED k) 1).setF d (.LNK_PORT_STATUS_SPARE_FOR k) lane
          let s := (s.setPortState pt 2).modPort pt fun x => { x with repair := none }
          s.ownFault 0x0A d k 0 lane 0 0

/-- LANE_WEAK (R302): an active lane past the repair threshold; the ends exchange a lane-repair frame. -/
def execLaneWeak (pt : Port) (lane : Fin 9) (s : State) : Out :=
  .next <|
    let d := portDie pt; let k := portIx pt
    let s := s.setF d (.LNK_LANE_STATUS_WEAK k) (s.getF d (.LNK_LANE_STATUS_WEAK k) ||| 2 ^ lane.val)
    if lane.val = 8 ∨ !s.nativeUp pt ∨ s.flag d (.LNK_PORT_STATUS_SPARE_USED k) ∨
        (s.getF d (.LNK_LANE_STATUS_FAILED k)).testBit 8 then s
    else
      let cw := Config.repairCodeword pt s.now
      let s := (s.setPortState pt 3).modPort pt fun x => { x with repair := some (lane, cw) }
      s.emit pt 0 (frameOf 5 0 false 0 s.modIx 0xFFFF (natLe 1 lane ++ natLe 8 cw))

/-- Checkpoint transfers of an Ethernet port go to another one that is up (R305, R395). -/
def State.moveXfers (s : State) (pt : Nat) : State :=
  let mv (x : Xfer) : Xfer :=
    if x.port = pt then
      match ethPorts.find? fun p => p != pt && s.ethUp p && !x.tried.contains p with
      | some p => { x with port := p, tried := x.tried ++ [pt] }
      | none => x
    else x
  { s with edge := { s.edge with xfers := s.edge.xfers.map mv } }

/-- A lane carries data: the spare where it is used, and every other lane but the one that it stands in for. -/
def State.laneCarries (s : State) (pt lane : Nat) : Bool :=
  let used := s.flag (portDie pt) (.LNK_PORT_STATUS_SPARE_USED (portIx pt))
  if lane = 8 then used else !(used && s.getF (portDie pt) (.LNK_PORT_STATUS_SPARE_FOR (portIx pt)) == lane)

/-- LANE_FAIL (R302, R305): an Ethernet port goes down; a native port whose failed lane carried data retrains, or is FAILED with two
failed lanes. -/
def execLaneFail (pt : Port) (lane : Fin 9) (s : State) : Out :=
  .next <|
    let d := portDie pt; let k := portIx pt
    let f := s.getF d (.LNK_LANE_STATUS_FAILED k) ||| 2 ^ lane.val
    let s := s.setF d (.LNK_LANE_STATUS_FAILED k) f
    let n := (setBitsOf 9 f).length
    if !s.portUp pt then (if s.portState pt = 1 ∧ 2 ≤ n then s.failPort pt else s)
    else if s.portGen pt = 2 then (if lane.val = 8 then s else (s.setPortState pt 0).moveXfers pt)
    else if 2 ≤ n then s.failPort pt
    else if s.laneCarries pt lane then s.doRetrain pt
    else s

/-! Replay, training (R303, R310-R312). -/

/-- ACK_TIMEOUT (R310): the oldest unacknowledged frame has waited ACK_TMO; it pauses during a stop. -/
def execAckTimeout (pt : Port) (s : State) : Out :=
  .next <|
    let x := s.port pt
    if !s.nativeUp pt || s.frozen || x.retry.isEmpty then s
    else
      let s := s.advanceTo (x.waitAt + s.getF (portDie pt) (.LNK_RETRY_CFG_ACK_TMO (portIx pt)) * 1000)
      (s.portErr pt 2).replayPort pt

/-- RETRAIN (R303, R312): an enabled port trains, with handover. -/
def execRetrain (pt : Port) (s : State) : Out :=
  .next (if s.flag (portDie pt) (.LNK_PORT_CTL_EN (portIx pt)) then s.doRetrain pt else s)

/-- PORT_UP (R303, R311, R314): training ends; the port samples GEN and learns its peer. -/
def execPortUp (pt : Port) (peerMod : BitVec 10) (peerPort : BitVec 4) (s : State) : Out :=
  .next <|
    let d := portDie pt; let k := portIx pt
    if s.portState pt ≠ 1 || !s.canTrain pt then s
    else
      let gen := s.getF d (.LNK_PORT_CTL_GEN k)
      let s := ((s.setPortState pt 2).setF d (.LNK_PORT_STATUS_GEN k) gen).setF d (.LNK_PORT_STATUS_PEER_MOD k) peerMod.toNat
      let s := s.setF d (.LNK_PORT_STATUS_PEER_PORT k) peerPort.toNat
      let s := s.modPort pt fun x => { x with samples := 0, waitAt := s.now }
      match s.job with
      | some j => let j := { j with dead := j.dead.filter (· ≠ pt.val) }; { s with job := some j }.showParent j
      | none => s

/-- RETRAIN_TIMEOUT (R311): a retrain that does not reach UP leaves the port FAILED. -/
def execRetrainTimeout (pt : Port) (s : State) : Out :=
  .next <|
    if s.portState pt ≠ 1 then s
    else
      let s := s.advanceTo ((s.port pt).trainAt + s.getF (portDie pt) (.LNK_RETRY_CFG_RETRAIN_MS (portIx pt)) * 1000000)
      (s.portErr pt 3).failPort pt

/-- PORT_RETRY (R311): firmware repeats the retrain of a FAILED port 1 s on. -/
def execPortRetry (pt : Port) (s : State) : Out :=
  .next <|
    if s.portState pt ≠ 4 then s
    else
      (s.advanceTo ((s.port pt).trainAt + 1000000000)).startTraining pt

/-- GEN values that a port takes (R303, R11): Ethernet on ports 6, 7, 14 and 15 only. -/
def genLegal (pt gen : Nat) : Bool := gen < 2 || (gen == 2 && ethCapable pt)

/-- A write of LNK_PORT_CTL (R303, R312): a reserved GEN keeps its old value; EN starts training, or takes the port down with
handover; RETRAIN retrains now. -/
def State.writePortCtl (s : State) (pt : Nat) (v : Word) : State :=
  let d := portDie pt; let k := portIx pt
  let was := s.flag d (.LNK_PORT_CTL_EN k)
  let g := bits v 30 29
  let s := s.setF d (.LNK_PORT_CTL_EN k) (bit v 31).toNat
  let s := if genLegal pt g then s.setF d (.LNK_PORT_CTL_GEN k) g else s
  if !bit v 31 then (if was then (s.handover pt).setPortState pt 0 else s)
  else if !was ∨ bit v 28 then s.doRetrain pt
  else s

/-- PORT_ENABLE (R303). -/
def execPortEnable (pt : Port) (val : Word) (s : State) : Out := .next (s.writePortCtl pt val)

/-! Ethernet and injection (R304, R337). -/

/-- A received PAUSE frame: MAC control type 0x8808, opcode 0x0001. -/
def isPause (f : List Byte) : Bool := slice f 12 4 = [0x88, 0x08, 0x00, 0x01]

/-- How long a PAUSE frame asks for: quanta of 512 bit times at 800 Gb/s, 0.64 ns each. -/
def pauseNs (f : List Byte) : Nat := beNat (slice f 16 2) * 64 / 100

/-- The destination filter of Table 11.3: the port's own address, broadcast, or every frame. -/
def State.macTakes (s : State) (pt : Nat) (f : List Byte) : Bool :=
  let d := portDie pt; let k := portIx pt
  let dst := beNat (slice f 0 6)
  s.flag d (.LNK_MAC_HI_PROMISC k) || dst == 2 ^ 48 - 1 ||
    dst == s.getF d (.LNK_MAC_HI_MAC_HI k) * 2 ^ 32 + (s.reg d (Reg.LNK_MAC_LO k)).toNat

/-- A port whose receive ring is full asks its peer to pause, ahead of its other frames (R304); how many frames a ring takes is free
(log 118). -/
def State.askPause (s : State) (pt : Nat) : State :=
  let x := s.port pt
  if Config.ringTakes pt ≤ x.rx.length then
    let d := portDie pt; let k := portIx pt
    let mac := ((natLe 4 (s.reg d (Reg.LNK_MAC_LO k)).toNat) ++ natLe 2 (s.getF d (.LNK_MAC_HI_MAC_HI k))).reverse
    (s.setPort pt { x with queue := (0, s.now, pauseFrame mac 0xFFFF) :: x.queue }).portCount pt 11
  else s

/-- ETHERNET_FRAME (R304, R305): a frame, held without its FCS, at an Ethernet port; a good one that the filter takes goes to the port's
ring. -/
def execEthernetFrame (pt : Port) (frame : List Byte) (fcsOk : Bool) (s : State) : Out :=
  .next <|
    if !s.portUp pt ∨ s.portGen pt ≠ 2 then s
    else if !fcsOk then s.portCount pt 10
    else if frame.length + 4 < 64 ∨ 9216 < frame.length + 4 then s
    else
      let s := s.portCount pt 9
      if isPause frame then
        (s.portCount pt 12).modPort pt fun x => { x with pauseTill := s.now + pauseNs frame }
      else if s.macTakes pt frame then (s.modPort pt fun x => { x with rx := x.rx ++ [frame] }).askPause pt
      else s

/-- Debug authorization is held (R429). -/
def State.authHeld (s : State) : Bool := s.flag 18 .DBG_AUTH_STATUS_HELD

/-- A write of LNK_INJ_CTL (R337): EN takes effect only under debug authorization; the LFSR is loaded when EN is set. -/
def State.writeInjCtl (s : State) (pt : Nat) (v : Word) : State :=
  let d := portDie pt; let k := portIx pt
  if bit v 31 && !s.authHeld then s.portErr pt 5
  else
    let was := s.flag d (.LNK_INJ_CTL_EN k)
    let s := s.setReg d (Reg.LNK_INJ_CTL k)
      (setBits (setBits (v &&& 0x8000FFFF#32) 30 28 (if bits v 30 28 < 4 then bits v 30 28 else s.getF d (.LNK_INJ_CTL_KIND k)))
        27 24 (if bits v 27 24 = 0 then s.getF d (.LNK_INJ_CTL_WINDOW k) else bits v 27 24))
    if bit v 31 && !was then
      let seed := s.reg d (Reg.LNK_INJ_SEED k)
      s.modPort pt fun x => { x with lfsr := if seed = 0 then 1 else seed }
    else s

/-- INJECTION_ENABLE (R337). -/
def execInjectionEnable (pt : Port) (val : Word) (s : State) : Out := .next (s.writeInjCtl pt val)

end Sys2Proof.Machine
end

