-- ==== Sys2Proof/Machine/DebugOps.lean ====
section
/-! DEFINITION. What the debug rows share: resuming a stop, paused timers, the end of an authorization, the capture regions
(R431, R436, R442-R444, Tables 15.9 and 15.10). -/

namespace Sys2Proof.Machine

/-! Stop control. -/

/-- A resume is issued (R442): R is 12 ns on, or GLEAD on for a group stop, when frames carry it. -/
def State.issueResume (s : State) : State :=
  let group := s.flag 18 .DBG_STOP_STATUS_SCOPE
  let r := s.now + (if group then s.getF 18 .DBG_STOP_CFG_GLEAD * 1000 else 12)
  let s := { s.setFs allDies .DBG_STOP_STATUS_STATE 3 with stop := { s.stop with resumeAt := some r } }
  if group then
    { s with stop := { s.stop with resumeSeen := s.stop.resumeSeen ++ [r] },
             outbox := s.outbox ++ [Sent.stop 1 (s.getF 18 .DBG_STOP_ID_ID) r none] }
  else s

/-- A write of DBG_STOP_CTL (R432, R442): with STOP and RESUME both 1 it is discarded; SCOPE and PIN_EN are taken first. -/
def State.writeStopCtl (s : State) (v : Word) : State :=
  if bit v 31 && bit v 30 then s
  else
    let s := s.plainWrite 18 Reg.DBG_STOP_CTL v 0 0
    let st := s.getF 18 .DBG_STOP_STATUS_STATE
    if bit v 31 then s.issueStop 0 s.stopScope []
    else if bit v 30 then
      (if st = 2 then s.issueResume else if st = 1 then s.countK 10 1 else s)
    else s

/-- Timers that a stop paused go on with their remaining time (R436, R442): what they count from moves by the length of the
stop. -/
def State.shiftTimers (s : State) (n : Nat) : State :=
  let que (x : Nat × Queue) : Nat × Queue := (x.1, if x.2.st = .draining then { x.2 with drainAt := x.2.drainAt + n } else x.2)
  let spr (x : Nat × Sprig) : Nat × Sprig :=
    (x.1, { x.2 with queues := x.2.queues.map que, drainAt := if x.2.st = .draining then x.2.drainAt + n else x.2.drainAt })
  let eng (x : Nat × Engine) : Nat × Engine := (x.1, if x.2.st = .draining then { x.2 with drainAt := x.2.drainAt + n } else x.2)
  let port (x : Nat × PortS) : Nat × PortS :=
    (x.1, if x.2 = PortS.fresh then x.2
      else { x.2 with waitAt := if x.2.retry.isEmpty then x.2.waitAt else x.2.waitAt + n })
  let red (r : Reduction) : Reduction := { r with due := r.due.map (· + n) }
  let bar (b : Barrier) : Barrier :=
    { b with last := if b.arrived.isEmpty then b.last else b.last + n, nominal := if b.nominal = 0 then 0 else b.nominal + n }
  { s with sprigs := s.sprigs.map spr, engines := s.engines.map eng, barriers := s.barriers.map bar,
           edge := { s.edge with ports := s.edge.ports.map port, fnl := { s.edge.fnl with reds := s.edge.fnl.reds.map red } } }

/-! Debug authorization (R431). -/

/-- Authorization ends; `why`: 0 AUTH_END, 1 expiry, 2 a reset. Injection stops. -/
def State.endAuth (s : State) (why : Nat) : State :=
  if !s.authHeld then s
  else
    let s := s.setF 18 .DBG_AUTH_STATUS_HELD 0
    let s := { s with edge := { s.edge with auth := { s.edge.auth with until_ := 0 } } }
    let s := (List.range 16).foldl (fun s pt => s.setF (portDie pt) (.LNK_INJ_CTL_EN (portIx pt)) 0) s
    s.event 7 5 [BitVec.ofNat 32 why]

/-- The open challenge closes. -/
def State.closeChallenge (s : State) : State :=
  { s.setF 18 .DBG_AUTH_STATUS_OPEN 0 with edge := { s.edge with auth := { s.edge.auth with challenge := none } } }

/-- The checks of an authorization response (R429, Table 15.5). -/
def State.authValid (s : State) (b : List Byte) : Bool :=
  let a := s.edge.auth
  (match a.challenge with | some (c, t) => slice b 0 32 == c && decide (s.now < t) | none => false) &&
    fld b 32 8 == s.inv.serial.toNat && decide (1 ≤ fld b 40 4 ∧ fld b 40 4 ≤ 86400) && fld b 44 4 == 0 &&
    a.keys.any fun k => ecdsaValid k (slice b 0 48) (beNat (slice b 48 48)) (beNat (slice b 96 48))

/-- A failed response (R430): FAILS stays at 8, and its eighth failure starts the lockout. -/
def State.authFailed (s : State) : State :=
  let n := s.getF 18 .DBG_AUTH_STATUS_FAILS
  let s := s.closeChallenge.countK 12 1
  let s := s.setF 18 .DBG_AUTH_STATUS_FAILS (min 8 (n + 1))
  let s := if n = 7 then
      { s.setF 18 .DBG_AUTH_STATUS_LOCKOUT 1 with edge := { s.edge with auth := { s.edge.auth with lock := s.now + 600000000000 } } }
    else s
  s.event 7 6 [BitVec.ofNat 32 (min 8 (n + 1))]

/-- A granted response (R430). -/
def State.authGranted (s : State) (secs : Nat) : State :=
  let s := s.closeChallenge.setF 18 .DBG_AUTH_STATUS_FAILS 0
  let s := (s.setF 18 .DBG_AUTH_STATUS_HELD 1).setF 18 .DBG_AUTH_STATUS_REMAIN secs
  let s := { s with edge := { s.edge with auth := { s.edge.auth with until_ := s.now + secs * 1000000000 } } }
  s.event 7 4 [BitVec.ofNat 32 secs]

/-! Scan-out (R443). -/

/-- The first byte of a die's capture region (Table 9.2). -/
def State.captureBase (s : State) (d : Nat) : Nat :=
  if d < 16 then dpa d 0 (s.dramSize - 0x40000000)
  else dpa (if d = 16 then 0 else if d = 17 then 7 else if d = 18 then 8 else 15) 0 (s.dramSize - 0x80000000)

/-- The capture header (Table 15.10). -/
def State.captureHead (s : State) (d tscan : Nat) : List Byte :=
  let fl := 1 + s.getF 18 .DBG_STOP_STATUS_LATE * 2 + s.getF 18 .DBG_STOP_STATUS_SMEAR * 4
  natLe 2 1 ++ natLe 1 d ++ natLe 1 fl ++ natLe 4 (s.getF 18 .DBG_STOP_ID_ID) ++ natLe 8 s.stop.target ++ natLe 8 tscan ++
    natLe 4 (Config.flopBits d).toNat ++ List.replicate 36 0

/-- A stationary slot of a cell as scan-out shows it (Table 15.9). -/
def Arr.cellWord (x : Arr) (cell : Nat) : Word :=
  let slot := cell / 1024; let col := cell % 32
  let sel := x.sel.getLsbD col
  let v := Store.get 0 x.cells cell
  let here := sel == decide (slot = 1)
  let use := if here then (if (x.modes.lookup (slot * 32 + col)).isSome then 2 else 0) else if x.staged.getLsbD col then 1 else 0
  BitVec.ofNat 32 (v.toNat + sel.toNat * 2 ^ 24 + use * 2 ^ 25)

/-- The live entries of a queue at their places in queue memory. -/
def State.captureQueue (s : State) (d p q base : Nat) : State :=
  let x := s.que d p q
  (List.range x.entries.length).foldl (fun s i =>
    match x.entries[i]? with
    | some e => s.poke (base + 0x1000000 + p * 0x40000 + q * 0x1000 + (x.head + i) % 64 * 64) e.bytes
    | none => s) s

/-- What a compute die's region holds of queues, accumulators and stationary slots. -/
def State.captureSprig (s : State) (d p base : Nat) : State :=
  let s := (List.range 64).foldl (fun s q => s.captureQueue d p q base) s
  (List.range 4).foldl (fun s a =>
    let s := (List.range 8192).foldl (fun s i =>
      let v := Store.get 0 s.acc (accKey d p a 0 0 + i)
      s.poke (base + 0x8000000 + p * 0x80000 + a * 0x20000 + 16 * i) (natLe 12 (bits v 95 0) ++ natLe 2 (bits v 107 96) ++ [0, 0])) s
    let x := s.arr d p a
    (List.range 2048).foldl (fun s c =>
      s.poke (base + 0x11000000 + (p * 4 + a) * 0x2000 + 4 * c) (natLe 4 (x.cellWord c).toNat)) s) s

/-- A link die's capture buffers. -/
def State.capturePorts (s : State) (d base : Nat) : State :=
  (List.range 8).foldl (fun s k =>
    let fs := (s.port ((d - 16) * 8 + k)).capture
    (List.range fs.length).foldl (fun s i =>
      match fs[i]? with
      | some f => s.poke (base + 0x100000 + (k * 256 + i) * 512) (slice f.2.2 0 512)
      | none => s) s) s

/-- A dual-clock queue's record of 32 bytes (Table 15.9). -/
def QRecord.bytes (q : QRecord) : List Byte :=
  natLe 4 q.wp.toNat ++ natLe 4 q.rp.toNat ++ natLe 4 q.rpSeen.toNat ++ natLe 4 q.wpSeen.toNat ++ natLe 1 q.wdom ++ natLe 1 q.rdom ++
    natLe 1 q.depth ++ List.replicate 13 0

/-- A die's cut is copied into its region, whose codewords are written whole and are normal (R251); what the spec gives no contents is free (log 15); the header is written last. -/
def State.captureDie (s : State) (d tscan : Nat) : State :=
  let base := s.captureBase d
  let n := cdiv (Config.flopBits d).toNat 8
  let s := { s with ecc := Store.clear s.ecc base (base + 0x20000000 + cdiv n 64 * 64) }.scramble base 0x20000000
  let s := s.poke (base + 0x10000) ((s.stop.queues.filter fun q => q.die = d).flatMap QRecord.bytes)
  let s := s.poke (base + 0x20000000) ((List.range n).map (Config.flopByte d))
  let s := if d < 16 then (List.range 272).foldl (fun s p => s.captureSprig d p base) s
    else if d < 18 then s.capturePorts d base else s
  s.poke base (s.captureHead d tscan)

end Sys2Proof.Machine
end

