-- ==== Sys2Proof/Machine/Debug.lean ====
section
/-! DEFINITION. The rows of counters, the global stop, scan-out and debug authorization (R426-R444). -/

namespace Sys2Proof.Machine

/-- A job runs. -/
def State.jobRuns (s : State) : Bool := match s.job with | some j => j.running | none => false

/-- A write of 1 to CNT_CTL.CLEAR (R426): at the next tick's start, or at once when no job runs. -/
def State.requestClear (s : State) : State :=
  if s.jobRuns then { s with edge := { s.edge with clearReq := true } } else s.clearCounters

/-- CLEAR. -/
def execClear (s : State) : Out := .next s.requestClear

/-- A write of a filter register on a control die (R428): in force 10 µs on, at a tick's start, or at once without a job. -/
def State.writeFilter (s : State) (off : Nat) (v : Word) : State :=
  let s := s.plainWrite 18 off v 0 0
  if s.jobRuns then { s with edge := { s.edge with fltAt := some (s.now + 10000) } } else s.applyFilter

/-- FILTER_WRITE. -/
def execFilterWrite (k : KDie) (off : RegOff) (val : Word) (s : State) : Out :=
  .next <|
    let _ := k
    if off.toNat = Reg.CNT_FLT_LAYER ∨ off.toNat = Reg.CNT_FLT_OPER ∨ off.toNat = Reg.CNT_FLT_MBID then s.writeFilter off.toNat val else s

/-- A write of a breakpoint register on a control die (R435): every compute die takes it at the next tick's start. -/
def State.writeBreakpoint (s : State) (off : Nat) (v : Word) : State :=
  let s := s.plainWrite 18 off v 0 0
  { s with edge := { s.edge with bpCopy := true } }

/-- BREAKPOINT_ARM. -/
def execBreakpointArm (k : KDie) (val : Word) (s : State) : Out := .next (let _ := k; s.writeBreakpoint Reg.DBG_BP_CTL val)

/-! The global stop. -/

/-- STOP (source 0): a write of DBG_STOP_CTL with STOP 1. -/
def execStop (k : KDie) (val : Word) (s : State) : Out := .next (let _ := k; if bit val 31 then s.writeStopCtl val else s)

/-- RESUME: a write of DBG_STOP_CTL with RESUME 1. -/
def execResume (k : KDie) (val : Word) (s : State) : Out := .next (let _ := k; if bit val 30 then s.writeStopCtl val else s)

/-- DBG_STOP_N (source 2): a pulse on the pin, while PIN_EN is 1. -/
def execDbgStopN (s : State) : Out :=
  .next (if s.flag 18 .DBG_STOP_CTL_PIN_EN then s.issueStop 2 s.stopScope [] else s)

/-- STOP_FREEZE (R436): at T every domain freezes. -/
def execStopFreeze (s : State) : Out :=
  .next (if s.getF 18 .DBG_STOP_STATUS_STATE = 1 then (s.advanceTo s.stop.target).freezeNow else s)

/-- RESUME_TIME (R442): at R the module resumes, its paused timers go on, and captured frames are delivered. -/
def execResumeTime (s : State) : Out :=
  .next <|
    match s.stop.resumeAt with
    | none => s
    | some r =>
      if !s.frozen then s
      else
        let n := max s.now r - s.stop.target
        (((s.resumeNow).shiftTimers n).setF 18 .JRN_STATUS_STOPPED 0).deliverCaptured

/-- GSTOP: the response is the target in force. -/
def State.runGstop (s : State) (req : List Word) (_ : Nat) : State × Mci :=
  if s.frozen then (s, .done rcBusy [])
  else
    let s := s.issueStop 1 (bit (req.getD 1 0) 0) []
    (s, .done rcOk [BitVec.ofNat 32 s.stop.target, BitVec.ofNat 32 (s.stop.target / 2 ^ 32)])

def execGstop (l : KDie) (c : Chan) (s : State) : Out := .next (s.mci l c 0x60 State.runGstop)

/-- GRESUME (R442). -/
def State.runGresume (s : State) (_ : List Word) (_ : Nat) : State × Mci :=
  match s.getF 18 .DBG_STOP_STATUS_STATE with
  | 1 => (s, .done rcBusy [])
  | 2 => if s.flag 18 .DBG_SCAN_STATUS_BUSY then (s, .done rcBusy []) else (s.issueResume, .done rcOk [])
  | _ => (s, .done rcOk [])

def execGresume (l : KDie) (c : Chan) (s : State) : Out := .next (s.mci l c 0x61 State.runGresume)

/-- SCANOUT (R443): the named dies are captured; `failed` are those that fail during the scan. -/
def State.runScanout (failed : BitVec 20) (s : State) (req : List Word) (_ : Nat) : State × Mci :=
  if !s.authHeld then (s, .done rcDenied [])
  else if s.getF 18 .DBG_STOP_STATUS_STATE ≠ 2 then (s, .done rcBusy [])
  else
    let named := setBitsOf 20 (bits (req.getD 1 0) 19 0)
    let done := named.filter fun d => !failed.getLsbD d && !s.dieGone d
    let t := s.now
    let s := done.foldl (fun s d => s.captureDie d t) s
    let m := (done.map (2 ^ ·)).foldl (· + ·) 0
    let s := ((s.setF 18 .DBG_SCAN_STATUS_DONE m).countK 11 1).event 7 3 [BitVec.ofNat 32 m]
    (s, .accept rcPending (some (if done.length = named.length then rcOk else rcPartial, [BitVec.ofNat 32 m])))

def execScanout (l : KDie) (c : Chan) (failed : BitVec 20) (s : State) : Out := .next (s.mci l c 0x62 (State.runScanout failed))

/-! Debug authorization (R429-R431). -/

/-- AUTH_CHALLENGE: 32 random bytes, open for 60 s. -/
def State.runAuthChallenge (s : State) (_ : List Word) (_ : Nat) : State × Mci :=
  if s.flag 18 .DBG_AUTH_STATUS_LOCKOUT then (s, .done rcDenied [])
  else
    let (s, b) := s.freeBytes 32
    let s := { s.setF 18 .DBG_AUTH_STATUS_OPEN 1 with
      edge := { s.edge with auth := { s.edge.auth with challenge := some (b, s.now + 60000000000) } } }
    (s, .done rcOk (wordsOf 8 b))

def execAuthChallenge (l : KDie) (c : Chan) (s : State) : Out := .next (s.mci l c 0x63 State.runAuthChallenge)

/-- AUTH_RESPONSE. -/
def State.runAuthResponse (s : State) (req : List Word) (_ : Nat) : State × Mci :=
  if argW req 3 ≠ 144 then (s, .done rcBadArg [])
  else match s.readArg (argDpa req 1) 144 with
  | (s, .error c) => (s, .done c [])
  | (s, .ok b) =>
    if s.authValid b then (s.authGranted (fld b 40 4), .done rcOk [BitVec.ofNat 32 (fld b 40 4)])
    else (s.authFailed, .done rcDenied [])

def execAuthResponse (l : KDie) (c : Chan) (s : State) : Out := .next (s.mci l c 0x64 State.runAuthResponse)

/-- AUTH_END. -/
def State.runAuthEnd (s : State) (_ : List Word) (_ : Nat) : State × Mci := (s.endAuth 0, .done rcOk [])

def execAuthEnd (l : KDie) (c : Chan) (s : State) : Out := .next (s.mci l c 0x65 State.runAuthEnd)

/-- AUTH_EXPIRY: the granted seconds have passed. -/
def execAuthExpiry (s : State) : Out :=
  .next (if s.authHeld then (s.advanceTo s.edge.auth.until_).endAuth 1 else s)

/-- CHALLENGE_EXPIRY: the challenge has been open for 60 s. -/
def execChallengeExpiry (s : State) : Out :=
  .next <|
    match s.edge.auth.challenge with
    | some (_, t) => (s.advanceTo t).closeChallenge
    | none => s

/-- LOCKOUT_EXPIRY: 600 s after the eighth failure. -/
def execLockoutExpiry (s : State) : Out :=
  .next <|
    if s.flag 18 .DBG_AUTH_STATUS_LOCKOUT then
      ((s.advanceTo s.edge.auth.lock).setF 18 .DBG_AUTH_STATUS_LOCKOUT 0).setF 18 .DBG_AUTH_STATUS_FAILS 0
    else s

end Sys2Proof.Machine
end

