-- ==== Sys2Proof/Machine/Embed.lean ====
section
/-! DEFINITION. The embedding gather/scatter engine (R197-R200) and the layout engine (R202, R203). -/

namespace Sys2Proof.Machine

def embWidth (j : EJob) : Nat := fld j.desc 0 4
def embRow0 (j : EJob) : Nat := fld j.desc 4 4
def embNrows (j : EJob) : Nat := fld j.desc 8 4
def embVocab (j : EJob) : Nat := fld j.desc 12 4
def embFmt (j : EJob) : Nat := fld j.desc 16 1
def embOut (j : EJob) : Nat := fld j.desc 17 1
def embG (j : EJob) : Nat := fld j.desc 20 4
def embO (j : EJob) : Nat := fld j.desc 24 4
def embClear (j : EJob) : Bool := j.flags.testBit 0
def embRows (j : EJob) : Nat := j.count + 1

def embLegal (j : EJob) : Bool :=
  decide (1 ≤ j.op ∧ j.op ≤ 3) && decide (j.flags < 2) && decide (1 ≤ embWidth j ∧ embWidth j ≤ 65536) &&
    (if j.op = 1 then decide (embFmt j < 5) else decide (embFmt j < 4)) && decide (embOut j < 5) &&
    zeroBytes j.desc 18 2 && zeroBytes j.desc 28 36 &&
    embG j % 16 == 0 && embO j % 16 == 0

/-- The indices of a request; a request whose index list cannot be read does not run. -/
def embIndices (j : EJob) (b : List Byte) : List Nat := (List.range (embRows j)).map fun i => fld b (4 * i) 4

inductive EmbIx where
  | pad | bad | here (row : Nat) | elsewhere
  deriving DecidableEq, Repr

def embClass (j : EJob) (i : Nat) : EmbIx :=
  if i = 0xFFFFFFFF then .pad
  else if embVocab j ≤ i then .bad
  else if embRow0 j ≤ i ∧ i < embRow0 j + embNrows j then .here (i - embRow0 j)
  else .elsewhere

/-- The indices are read before the rows they name. -/
def State.withIndices (s : State) (j : EJob) (go : State → List EmbIx → State × EAns) : State × EAns :=
  let r := (j.addr 1, 4 * embRows j)
  match s.checkRanges [r] [] with
  | some st => (s.refuseRanges j.d st, EAns.code st)
  | none =>
    let (s, ok, b) := s.readRange r.1 r.2
    if ok then go s ((embIndices j b).map (embClass j)) else (s, EAns.code rcFault)

/-- Out-of-range indices set ERR.INDEX (R200). -/
def State.embMark (s : State) (d bad : Nat) : State := if bad = 0 then s else s.setF d (.ENG_ERR_INDEX 2) 1

/-- GATHER (R197, R200). -/
def runGather (s : State) (j : EJob) : State × EAns :=
  let eb := fmtBytes (embFmt j); let w := embWidth j
  s.withIndices j fun s ix =>
    let rows := ix.mapIdx fun r c => (r, c)
    let src := rows.filterMap fun y => match y.2 with | .here k => some (j.addr 0 + k * w * eb, w * eb) | _ => none
    let moved := rows.filter fun y => y.2 ≠ .elsewhere
    let wr := moved.map fun y => (j.addr 2 + y.1 * w * eb, w * eb)
    let bad := (ix.filter fun c => c = .bad).length
    let (s, a) := s.engineRun j src wr fun s bss =>
      let one (acc : State × Report × Nat) (y : Nat × EmbIx) : State × Report × Nat :=
        let (s, rep, n) := acc
        let (data, n') := match y.2 with
          | .here _ => (bss.getD n [], n + 1)
          | .bad => ((List.replicate w (natLe eb (poisonCode (embFmt j)))).flatten, n)
          | _ => (List.replicate (w * eb) 0, n)
        let rep := (List.range w).foldl (fun a i =>
          let v := fld data (i * eb) eb
          a.add (outReport (embFmt j) (elemVal (embFmt j) (embG j) v) v false)) rep
        (s.writeRange (j.addr 2 + y.1 * w * eb) data, rep, n')
      let (s, rep, _) := moved.foldl one (s, Report.none, 0)
      (s.sage j.d j.tid (some j.mbid) rep, { EAns.code rcOk with detail := [moved.length, bad, 0], work := src.length * w * eb })
    (if a.status = rcOk then s.embMark j.d bad else s, a)

/-- Bytes of an entry of the buffer (R198). -/
def embEntry (j : EJob) : Nat := if embFmt j < 2 then 16 else 40

/-- An entry's value in its units: GSCALE for Q gradients, 2^-141 for L16 and binary16. -/
def embUnits (j : EJob) (v : Nat) : Option Int :=
  if embFmt j = 0 then some (sx 8 v) else if embFmt j = 1 then some (sx 16 v)
  else (elemVal (embFmt j) 0 v).map fun x => (x * pow2 141).floor

/-- An entry holds POISON (R38): its bytes are a free value, and the mark says so (log 32). -/
def State.poisonEntry (s : State) (a n : Nat) : State :=
  let (s, bs) := s.freeBytes n
  { s.writeRange a bs with embPois := Store.set false s.embPois a true }

/-- Entries of a range hold POISON no longer. -/
def State.clearEntries (s : State) (a n : Nat) : State := { s with embPois := Store.clear s.embPois a (a + n) }

/-- An entry holds POISON. -/
def State.entryPoison (s : State) (a : Nat) : Bool := Store.get false s.embPois a

/-- SCATTER (R198, R200). A gradient element without a value makes its entry POISON; the first one into an empty buffer starts
without any. -/
def runScatter (s : State) (j : EJob) : State × EAns :=
  let eb := fmtBytes (embFmt j); let w := embWidth j; let en := embEntry j
  s.withIndices j fun s ix =>
    let rows := ix.mapIdx fun r c => (r, c)
    let here := rows.filterMap fun y => match y.2 with | .here k => some (y.1, k) | _ => none
    let bad := (ix.filter fun c => c = .bad).length
    let buf := j.addr 2
    let rd := (buf, 64) :: (here.map fun y => (j.addr 0 + y.1 * w * eb, w * eb))
    let wr := (buf, 64) :: (here.flatMap fun y => [(buf + 64 + y.2 * w * en, w * en), (j.addr 3 + y.2 / 8, 1)])
    let (s, a) := s.engineRun j (rd ++ wr.drop 1) wr fun s bss =>
      let hd := bss.getD 0 []
      if fldBits hd 5 1 0 0 = 1 ∧ (fld hd 4 1 ≠ embFmt j ∨ (embFmt j < 2 ∧ fld hd 0 4 ≠ embG j)) then
        (s.setF j.d (.ENG_ERR_SCALE 2) 1, EAns.code rcBadArg)
      else
        let s := if fldBits hd 5 1 0 0 = 1 then s
          else (s.writeRange buf (natLe 4 (embG j) ++ natLe 1 (embFmt j) ++ natLe 1 1 ++ (hd.drop 6))).clearEntries buf
            (64 + embNrows j * w * en)
        let one (s : State) (y : Nat × (Nat × Nat)) : State :=
          let g := bss.getD (1 + y.1) []
          let k := y.2.2
          let s := (List.range w).foldl (fun s c =>
            let at_ := buf + 64 + (k * w + c) * en
            match embUnits j (fld g (c * eb) eb) with
            | some u => s.writeRange at_ (natLe en (lowBits (8 * en) ((leNat (s.bytes at_ en) : Int) + u)))
            | none => s.poisonEntry at_ en) s
          let b := j.addr 3 + k / 8
          s.writeRange b [s.byte b ||| BitVec.ofNat 8 (2 ^ (k % 8))]
        let s := (here.mapIdx fun i y => (i, y)).foldl one s
        (s, { EAns.code rcOk with detail := [here.length, bad, 0], work := here.length * w * eb })
    (if a.status = rcOk then s.embMark j.d bad else s, a)

/-- FIN (R199). -/
def runFin (s : State) (j : EJob) : State × EAns :=
  let w := embWidth j; let en := embEntry j; let n := embRows j; let buf := j.addr 0; let ob := fmtBytes (embOut j)
  let bm := (j.addr 3, cdiv n 8)
  let ents := (buf + 64, n * w * en)
  let whole := embClear j ∧ n = embNrows j
  let wr := (j.addr 2, n * w * ob) :: (if embClear j then [ents, bm] else []) ++ (if whole then [(buf, 64)] else [])
  s.engineRun j [ents, bm] wr fun s bss =>
    let eb := bss.getD 0 []; let tb := bss.getD 1 []
    let unit : Rat := if embFmt j < 2 then (scaleOf (embG j)).val else pow2 (-141)
    let sc := (scaleOf (embO j))
    let one (acc : State × Report × FpFlags) (r : Nat) : State × Report × FpFlags :=
      let touched := fldBits tb (r / 8) 1 (r % 8) (r % 8) = 1
      let cs := (List.range w).map fun c =>
        let at_ := (r * w + c) * en
        if !touched then Stored.zero
        else if s.entryPoison (ents.1 + at_) then Stored.poison (embOut j)
        else
          let x := (sx (8 * en) (fld eb at_ en) : Rat) * unit
          if embOut j < 2 then storeVal (embOut j) (embO j) .rne x
          else if sc.zero then { Stored.zero with clip := decide (x ≠ 0), val := some x }
          else { storeVal (embOut j) 0 .rne (x / sc.val) with val := some x }
      (acc.1.writeRange (j.addr 2 + r * w * ob) (cs.flatMap fun c => natLe ob c.code),
        acc.2.1.add (reportAll (embOut j) cs), acc.2.2 ||| flagsAll cs)
    let (s, rep, fl) := (List.range n).foldl one (s, Report.none, 0)
    let s := if embClear j then
        let s := (s.writeRange ents.1 (List.replicate ents.2 0)).clearEntries ents.1 ents.2
        let bits := (List.range bm.2).map fun i =>
          if 8 * i + 8 ≤ n then (0 : Byte) else (BitVec.ofNat 8 (fld tb i 1)) &&& ~~~BitVec.ofNat 8 (2 ^ (n - 8 * i) - 1)
        let s := s.writeRange bm.1 bits
        if whole then s.writeRange buf (List.replicate 64 0) else s
      else s
    (s.sage j.d j.tid (some j.mbid) rep, { EAns.code rcOk with fpx := fl, detail := [n, 0, 0], work := n * w * ob })

/-- GATHER (R197); the row also refuses a reserved OP. -/
def execGather (d : CDie) (s : State) : Out :=
  .next <| acceptRequest d .emb true (fun o => o ≠ 2 ∧ o ≠ 3 ∧ o ≠ 0x10) (engBad .emb) embLegal runGather s
/-- SCATTER (R198). -/
def execScatter (d : CDie) (s : State) : Out :=
  .next <| acceptRequest d .emb true (fun o => o = 2) (engBad .emb) embLegal runScatter s
/-- FIN (R199). -/
def execFin (d : CDie) (s : State) : Out :=
  .next <| acceptRequest d .emb true (fun o => o = 3) (engBad .emb) embLegal runFin s

/-! The layout engine (R202, R203). -/

/-- The size of an element in 4-bit units. -/
def layUnits (j : EJob) : Nat := match fld j.desc 0 1 with | 0 => 1 | 1 => 2 | 2 => 4 | 3 => 8 | _ => 32

def layN (j : EJob) (i : Nat) : Nat := fld j.desc (4 + 4 * i) 4
def layS (j : EJob) (i : Nat) : Int := sx 32 (fld j.desc (16 + 4 * i) 4)
def layD (j : EJob) (i : Nat) : Int := sx 32 (fld j.desc (28 + 4 * i) 4)

def layLegal (j : EJob) : Bool :=
  j.op == 1 && j.flags == 0 && j.count == 0 && decide (fld j.desc 0 1 ≤ 4) && zeroBytes j.desc 1 3 &&
    (List.range 3).all (fun i => decide (1 ≤ layN j i)) && zeroBytes j.desc 40 24

/-- The nibble addresses (source, destination) of every element of the block. -/
def layElems (j : EJob) : List (Int × Int) :=
  let u := layUnits j
  let at_ (base : Nat) (st : Nat → Int) (i0 i1 i2 : Nat) : Int := (2 * base : Int) + (st 0 * i0 + st 1 * i1 + st 2 * i2) * u
  (List.range (layN j 0)).flatMap fun i0 => (List.range (layN j 1)).flatMap fun i1 => (List.range (layN j 2)).map fun i2 =>
    (at_ (j.addr 0) (layS j) i0 i1 i2, at_ (j.addr 1) (layD j) i0 i1 i2)

/-- The byte range that covers a list of nibble addresses. -/
def layCover (u : Nat) (xs : List Nat) : Nat × Nat :=
  match xs with
  | [] => (0, 0)
  | x :: t =>
    let lo := t.foldl min x / 2
    let hi := (t.foldl max x + u + 1) / 2
    (lo, hi - lo)

/-- The format (Table 4.8 codes, 5 for Q4) of a tensor's elements of `u` nibbles: the graph's, or that of its layer's level
(Tables 5.1 and 10.3); none for a size that the tensor's format does not have. -/
def State.movedFmt (s : State) (b : Job) (t : TensorRec) (u : Nat) : Option Nat :=
  let ix := b.graph.layers.findIdx fun l => l.layer = t.layer
  let p4 : Bool := 4 ≤ ((Store.get [] s.gov.vectors b.step).getD ix 0).toNat
  match t.fmt, u with
  | 1, 4 => some 2
  | 2, 4 => some 3
  | 3, 8 => some 4
  | 0, 1 => some 5
  | 0, 2 => some 0
  | 0, 4 => if p4 then (if (b.graph.layers[ix]?).any (·.fh) then some 3 else some 2) else some 1
  | _, _ => none

/-- What MOVE reports of the elements that it wrote (R182), under the destination tensor's format and its scale word of the
step; elements of another size are only counted (log 88). -/
def State.movedReport (s : State) (j : EJob) (vs : List Nat) : Report :=
  match s.job with
  | some b => match b.tensor j.tid with
    | some t =>
      let sc := (Store.get 0 s.gov.scales j.tid).toNat
      match s.movedFmt b t (layUnits j) with
      | some 5 => vs.foldl (fun a v => a.add (outReport 0 (some ((sx 4 v : Rat) * (scaleOf sc).val)) v false)) Report.none
      | some f => vs.foldl (fun a v => a.add (outReport f (elemVal f sc v) v false)) Report.none
      | none => { Report.none with elems := vs.length }
    | none => { Report.none with elems := vs.length }
  | none => Report.none

/-- MOVE: every element's bits, unchanged; a block with an element below address 0 has unmapped bytes. -/
def runMove (s : State) (j : EJob) : State × EAns :=
  let u := layUnits j; let ss := layElems j
  if ss.any fun e => e.1 < 0 ∨ e.2 < 0 then (s.refuseRanges j.d rcBadArg, EAns.code rcBadArg) else
  let es := ss.map fun e => (e.1.toNat, e.2.toNat)
  let a := layCover u (es.map (·.1)); let b := layCover u (es.map (·.2))
  if a.1 < b.1 + b.2 ∧ b.1 < a.1 + a.2 then (s, EAns.code rcBadArg)
  else
    let n := (u + 1) / 2
    s.engineRun j (es.map fun e => (e.1 / 2, n)) (es.map fun e => (e.2 / 2, n)) fun s bss =>
      let code (x : (Nat × Nat) × List Byte) : Nat :=
        if u = 1 then (leNat x.2 / (if x.1.1 % 2 = 0 then 1 else 16)) % 16 else leNat x.2
      let s := (List.zip es bss).foldl (fun s x =>
        let e := x.1
        if u = 1 then
          let v := code x
          let old := (s.byte (e.2 / 2)).toNat
          s.writeRange (e.2 / 2) [BitVec.ofNat 8 (if e.2 % 2 = 0 then old / 16 * 16 + v else old % 16 + 16 * v)]
        else s.writeRange (e.2 / 2) x.2) s
      (s.sage j.d j.tid (some j.mbid) (s.movedReport j ((List.zip es bss).map code)),
        { EAns.code rcOk with detail := [es.length, 0, 0], work := es.length * u / 2 })

/-- MOVE (R202); the row also refuses a reserved OP. -/
def execMove (d : CDie) (s : State) : Out :=
  .next <| acceptRequest d .lay true (fun o => o ≠ 0x10) (engBad .lay) layLegal runMove s

end Sys2Proof.Machine
end

