-- ==== Sys2Proof/Machine/Fennel.lean ====
section
/-! DEFINITION. Fennel: gradient exchange, record reduction, rings, permutes, parity deltas and broadcasts (R320-R335),
and the reduction of statistics records (R130-R135, R141, R229, R467). -/

namespace Sys2Proof.Machine

/-! CONTRIB (R323). -/

def word32 (x : Int) : Nat := lowBits 32 x

/-- CONTRIB: one micro-batch's Q16 tile is added to, or with NEG subtracted from, the exchange buffer. One that is all-or-nothing and
fails leaves sum-word marks (R329); the words that it found are the retained input of its retry (log 35). -/
def runContrib (s : State) (j : EJob) : State × FRes :=
  let n := j.fCount
  if s.wrongEpoch j then (s.setF j.d .FNL_ERR_EPOCH 1, .done (EAns.code rcOk))
  else
    let neg := j.flags.testBit 0
    let s := s.takeSaved (j.addr 1)
    let found := s.view (j.addr 1) (4 * n)
    let (s, a) := s.engineRun j [(j.addr 0, 2 * n), (j.addr 1, 4 * n)] [(j.addr 1, 4 * n)] fun s bss =>
      let t := bss.getD 0 []; let b := bss.getD 1 []
      let ws := (List.range n).flatMap fun i =>
        let q := sx 16 (fld t (2 * i) 2); let o := sx 32 (fld b (4 * i) 4)
        natLe 4 (word32 (if neg then o - q else o + q))
      let s := s.writeRange (j.addr 1) ws
      match s.reduction j.rid with
      | some r => (s.putRed (r.addMbid (j.addr 1) n j.fMbid neg j.fTid t), EAns.code rcOk)
      | none => (s, EAns.code rcOk)
    if j.aon ∧ a.status = rcFault then
      (s.setFnl fun f => { f with saved := f.saved ++ [(j.addr 1, found)] }).fnlFailed j true []
    else (s, .done a)

/-- CONTRIB (R323); the row also refuses a reserved OP. -/
def execContrib (d : CDie) (s : State) : Out :=
  .next <| fnlRow d (fun o => o < 2 ∨ 7 < o) runContrib s

/-! XREDUCE (R324, R325). -/

/-- Lists of MBIDs hold the same numbers. -/
def sameSet (a b : List Nat) : Bool := a.all b.contains && b.all a.contains

/-- An element of the group mean, S x s_x / N rounded once to L16, and what Sage counts of it. -/
def meanElem (j : EJob) (n : Nat) (i : Nat) (sum : Int) : Nat × Report :=
  let rnd := (j.key j.fTid (fldBits j.desc 21 1 2 0) (fldBits j.desc 20 1 1 0) (fldBits j.desc 20 1 6 2)).rnd
    ((fld j.desc 24 5 + i) % 2 ^ 40)
  let x := (sum : Rat) * (scaleOf (fld j.desc 16 4)).val / (n : Rat)
  let r := toL16 rnd x
  (r.1, outReport 2 (some x) r.1 r.2)

/-- The other replicas of a module's shards across data and context parallelism (R324). -/
def Job.replicas (j : Job) (m : Nat) : List Nat :=
  let c := j.coords m
  j.members.filter fun x => x != m && (j.coords x).2.1 == c.2.1 && (j.coords x).2.2.1 == c.2.2.1

/-- The MBIDs of a module's pipeline (R273). -/
def Job.mbidsOf (j : Job) (m : Nat) : Nat × Nat := ((j.coords m).1 * j.cut.mb, j.cut.mb)

/-- This module's sum words and MBID set leave for the other replicas once its own micro-batches that contribute are in the buffer,
and again when the set changes (R324; when they leave is the model's choice, log 35). -/
def State.sendSums (s : State) (j : EJob) (jb : Job) (a n : Nat) : State :=
  match s.reduction j.rid with
  | none => s
  | some r =>
    let own := r.mbids a (4 * n)
    let mine := jb.mbidsOf jb.modIx
    let want := (jb.contributing j.fTid).filter fun b => decide (mine.1 ≤ b ∧ b < mine.1 + mine.2)
    if !sameSet own want ∨ r.sent.contains (a, own) then s
    else
      let bs := s.view a (4 * n)
      let out := (jb.replicas jb.modIx).flatMap fun m => [j.sends 2 m bs, j.sends setOp m (own.flatMap (natLe 2))]
      { s with outbox := s.outbox ++ out }.putRed { r with sent := (a, own) :: r.sent.filter fun x => x.1 ≠ a }

/-- XREDUCE: the sum over every replica, of which `peers` and the frames that have come bring the partial sums, then the mean, which
Sage measures (R128); a failed part poisons the result until the retry. With no contribution left the mean is undefined and its
report is taken back (R130). -/
def runXreduce (peers : List PeerSum) (failed : List Nat) (s : State) (j : EJob) : State × FRes :=
  let n := j.fCount
  match s.job with
  | none => (s, .done (EAns.code rcFault))
  | some jb =>
    if s.wrongEpoch j then (s.setF j.d .FNL_ERR_EPOCH 1, .done (EAns.code rcOk))
    else match s.checkRanges [(j.addr 0, 4 * n)] [(j.addr 1, 2 * n)] with
    | some st => (s.refuseRanges j.d st, .done (EAns.code st))
    | none =>
      if !failed.isEmpty then
        (s.writeRange (j.addr 1) ((List.range n).flatMap fun _ => natLe 2 l16Poison), .poisoned)
      else
        let s := s.sendSums j jb (j.addr 0) n
        let r := (s.reduction j.rid).getD { rid := j.rid, epoch := 0, sets := [], frames := [], due := none }
        let came := (r.partials n).filter fun x => !peers.any fun p => p.module = x.module
        let peers := peers ++ came
        let all := (r.mbids (j.addr 0) (4 * n) ++ peers.flatMap (·.mbids)).eraseDups
        let want := jb.contributing j.fTid
        if !sameSet all want then (s, .waits)
        else
          let (s, a) := s.engineRun j [(j.addr 0, 4 * n)] [(j.addr 1, 2 * n)] fun s bss =>
            let b := bss.getD 0 []
            let src := fld j.desc 24 5 + 1
            let s := (s.putRed { r with done := true }).sageRetract j.d j.fTid src
            if want.isEmpty then (s.scramble (j.addr 1) (2 * n), EAns.code rcOk)
            else
              let sums := (List.range n).map fun i =>
                peers.foldl (fun a p => a + p.sums.getD i 0) (sx 32 (fld b (4 * i) 4))
              let out := (List.range n).map fun i => meanElem j want.length i (sums.getD i 0)
              let s := s.sage j.d j.fTid none (out.foldl (fun a x => a.add x.2) Report.none) src
              (s.writeRange (j.addr 1) (out.flatMap fun x => natLe 2 x.1), EAns.code rcOk)
          (s, .done a)

/-- XREDUCE (R324, R325, R329). -/
def execXreduce (d : CDie) (peers : List PeerSum) (failed : List Nat) (s : State) : Out :=
  .next <| fnlRow d (fun o => o = 2) (runXreduce peers failed) s

/-! Statistics records (R130-R136, R141, R467). -/

/-- The AMAX history of each measured tensor takes the step (R108). -/
def State.takeAmax (s : State) (step : Nat) (rs : List (List Byte)) : State :=
  rs.foldl (fun s r =>
    let tid := fldBits r 0 4 23 0
    let old := (Store.get [] s.gov.amax tid).filter fun x => x.1 ≠ step
    { s with gov := { s.gov with amax := Store.set [] s.gov.amax tid (((step, fld r 12 2) :: old).take 16) } }) s

/-- The CRC-32 of what modules must hold alike in their records: ID, STEP and LAYER (R135, R383; log 112). -/
def recordsCrc (rs : List (List Byte)) : Word := crc32 (rs.flatMap fun r => slice r 0 12)

/-- RECRED: records, tree nodes and CRC-32 pairs, first across the dies, then across the group. The first reduction of a step's
records reduces their AMAX fields, which the next step's start awaits (R110, R136); one that follows it reduces the remaining
fields and carries the CRC-32 pairs (log 100). -/
def runRecred (peers : List PeerRecs) (failed : List Nat) (s : State) (j : EJob) : State × FRes :=
  match s.job with
  | none => (s, .done (EAns.code rcFault))
  | some jb =>
    let n := 64 * j.fCount
    match s.checkRanges [(j.addr 0, n)] [(j.addr 0, n)] with
    | some st => (s.refuseRanges j.d st, .done (EAns.code st))
    | none =>
      let step := jb.stepOfRid j.rid
      let first := !s.amaxIn jb step
      let s := if first then s
        else { s with gov := { s.gov with tentIn := s.gov.tent.isSome, freezeIn := s.gov.freezeTent.isSome } }
      if !failed.isEmpty then (s.writeRange (j.addr 0) (List.replicate n 0xFF), .poisoned)
      else if first then
        let (rs, bad) := s.groupRecords jb step peers
        let own := jb.graph.measured.map fun t => (s.moduleRecord jb step t).1
        let out := (List.zip own rs).map fun x => splice x.1 12 (slice x.2 12 2)
        let s := (s.writeRange (j.addr 0) (out.flatten.take n)).takeAmax step rs
        ((if bad then s.dataCorrupt (recordsCrc own) (peers.map fun p => (p.module, recordsCrc p.records)) else s).dropRed j.rid, .done (EAns.code rcOk))
      else
        let (rs, bad) := s.groupRecords jb step peers
        let mine := match s.gov.tent with | some r => crc32 r.bytes | none => crc32 s.gov.rules.bytes
        let frz := crc32 (freezeBytes (s.gov.freezeTent.getD s.gov.freeze))
        let s := s.ruleOutcome step (peers.all fun p => p.ruleCrc == mine)
        let s := s.freezeOutcome (peers.all fun p => p.freezeCrc == frz)
        let plan := s.planOf jb (step + 1)
        let s := if peers.all fun p => p.planCrc == plan then s else s.dataCorrupt plan (peers.map fun p => (p.module, p.planCrc))
        let s := s.writeRange (j.addr 0) (rs.flatten.take n)
        let s := s.setFs computeDies .SAGE_STATUS_REDUCING 0
        let s := { s with gov := { s.gov with reduced := Store.set [] s.gov.reduced step rs } }
        let s := s.takeStats step (crc32 rs.flatten)
        let own := jb.graph.measured.map fun t => (s.moduleRecord jb step t).1
        let s := if bad then s.dataCorrupt (recordsCrc own) (peers.map fun p => (p.module, recordsCrc p.records)) else s
        (s.dropRed j.rid, .done (EAns.code rcOk))

/-- RECRED (R326), with RULE_SET_COMMIT (R141) and FREEZE_COMMIT (R229). -/
def execRecred (d : CDie) (peers : List PeerRecs) (failed : List Nat) (s : State) : Out :=
  .next <| fnlRow d (fun o => o = 3) (runRecred peers failed) s

/-! RING, PERMUTE, GPDELTA, BCAST (R327, R331, R336). -/

/-- A request that copies its source to modules; a copy for this module is placed at the destination. -/
def State.fnlCopy (s : State) (j : EJob) (targets : List Nat) : State × FRes :=
  let n := j.fCount * s.elemBytes j.fTid
  let own := s.modIx
  let wr := if targets.contains own then [(j.addr 1, n)] else []
  let (s, a) := s.engineRun j [(j.addr 0, n)] wr fun s bss =>
    let b := bss.getD 0 []
    let s := { s with outbox := s.outbox ++ (targets.filter (· ≠ own)).map fun m => j.sends j.op m (natLe 8 (j.addr 1) ++ b) }
    (if targets.contains own then s.writeRange (j.addr 1) b else s, EAns.code rcOk)
  (s, .done a)

/-- Parts that fail: those that the group reports, and those whose participant is out of reach (R328). -/
def State.failedParts (s : State) (failed : List Nat) (ts : List Nat) : List Nat :=
  (List.range ts.length).filter fun i => failed.contains i || s.outOfReach (ts.getD i 0)

/-- A copy to a list of modules, some parts of which fail: nothing is sent where the request is all-or-nothing; else the completed
parts stand, and the request completes with PARTIAL (R328, R329). -/
def State.fnlSpread (s : State) (j : EJob) (allOrNone : Bool) (failed ts : List Nat) : State × FRes :=
  let bad := s.failedParts failed ts
  if bad.isEmpty then s.fnlCopy j ts
  else if allOrNone then s.fnlFailed j true bad
  else
    let good := ((List.range ts.length).filter fun i => !bad.contains i).map fun i => ts.getD i 0
    match s.fnlCopy j good with
    | (s, .done a) => if a.status = rcOk then s.fnlFailed j false bad else (s, .done a)
    | r => r

/-- RING: the chunk goes to member (j + 1) mod CP (R327). -/
def runRing (failed : Bool) (s : State) (j : EJob) : State × FRes :=
  match s.job with
  | none => if failed then s.fnlFailed j j.aon [0] else (s, .done (EAns.code rcFault))
  | some jb =>
    let c := jb.coords jb.modIx
    s.fnlSpread j j.aon (if failed then [0] else []) [jb.moduleAt c.1 c.2.1 c.2.2.1 ((c.2.2.2 + 1) % jb.cut.cp)]

/-- RING (R327). -/
def execRing (d : CDie) (failed : Bool) (s : State) : Out := .next <| fnlRow d (fun o => o = 4) (runRing failed) s

/-- PERMUTE: always all-or-nothing (R329); a failure sets FNL_ERR.PERMUTE. -/
def runPermute (failed : List Nat) (s : State) (j : EJob) : State × FRes :=
  let ts := s.participants j
  let s := if (s.failedParts failed ts).isEmpty then s else s.setF j.d .FNL_ERR_PERMUTE 1
  s.fnlSpread j true failed ts

/-- PERMUTE (R336). -/
def execPermute (d : CDie) (failed : List Nat) (s : State) : Out := .next <| fnlRow d (fun o => o = 5) (runPermute failed) s

/-- GPDELTA: old XOR new goes, for each data unit, to its row's parity member (R330, R331); a module that the plan puts in no group
names it in its list. A part fails whose module is out of reach (R328). -/
def runGpdelta (s : State) (j : EJob) : State × FRes :=
  if s.wrongEpoch j then (s.setF j.d .FNL_ERR_EPOCH 1, .done (EAns.code rcOk))
  else match s.job with
  | none => (s, .done (EAns.code rcFault))
  | some jb =>
    let n := j.fCount * jb.storedBytes j.fTid
    let off := jb.groupBase jb.modIx j.fTid + fld j.desc 24 5 * jb.storedBytes j.fTid
    let parts (x : List Byte) : List (Nat × Nat × List Byte) := match jb.groupOf jb.modIx with
      | some g => deltaParts g jb.modIx off x
      | none => (s.participants j).map fun m => (m, off, x)
    let ts := ((parts (List.replicate n 0)).map (·.1)).eraseDups
    let bad := ts.filter s.outOfReach
    let places := bad.map fun m => (s.participants j).idxOf m
    if j.aon ∧ !bad.isEmpty then s.fnlFailed j true places
    else
      let (s, a) := s.engineRun j [(j.addr 0, n), (j.addr 1, n)] [] fun s bss =>
        let out := (parts (xorBytes (bss.getD 0 []) (bss.getD 1 []))).filter fun x => !bad.contains x.1
        let mine := out.filter fun x => x.1 = jb.modIx
        let sent := (out.filter fun x => x.1 ≠ jb.modIx).map fun x => j.sends 6 x.1 (natLe 8 x.2.1 ++ x.2.2)
        let kept := mine.map fun x => { src := jb.modIx, step := j.step.toNat, off := x.2.1, data := x.2.2 : GroupDelta }
        let s := { s with outbox := s.outbox ++ sent }
        (s.setFnl fun f => { f with staged := f.staged ++ kept }, EAns.code rcOk)
      if a.status = rcOk ∧ !bad.isEmpty then s.fnlFailed j false places else (s, .done a)

/-- GPDELTA (R331). -/
def execGpdelta (d : CDie) (s : State) : Out := .next <| fnlRow d (fun o => o = 6) runGpdelta s

/-- BCAST: the buffer goes to every listed module; some failed: PARTIAL, or held for a retry (R328, R329). -/
def runBcast (failed : List Nat) (s : State) (j : EJob) : State × FRes := s.fnlSpread j j.aon failed (s.participants j)

/-- BCAST (Table 11.8). -/
def execBcast (d : CDie) (failed : List Nat) (s : State) : Out := .next <| fnlRow d (fun o => o = 7) (runBcast failed) s

/-! Frames without a reduction, and the fence (R321, R335). -/

/-- RID_HOLD_EXPIRY (R321): the oldest frame that a link die has held for 100 us is discarded and counted. -/
def execRidHoldExpiry (l : LDie) (s : State) : Out :=
  .next <|
    match s.edge.fnl.held.find? fun h => h.1 / 8 = l.val with
    | some h =>
      ((s.advanceTo (h.2.1 + 100000)).setFnl fun f => { f with held := f.held.erase h }).count (16 + l.val) (dieCtr 1) 1
    | none => s

/-- FENCE_TIMEOUT (R335): a reduction of the epoch that a waiting reshard ends, still incomplete, is aborted; the MBIDs of the modules
that did not deliver join the drop list, and it is retried over what is present. -/
def execFenceTimeout (rid : BitVec 28) (missing : List Nat) (s : State) : Out :=
  .next <|
    if s.frozen ∨ s.edge.reshard.isNone then s
    else match s.reduction rid.toNat, s.job with
    | some r, some j =>
      match r.due with
      | none => s
      | some t =>
        if !s.inFlight r then s
        else
          let s := s.advanceTo (t + s.getF 0 .FNL_FENCE_TMO_MS * 1000000)
          let s := (s.setFs (computeDies ++ linkDies) .FNL_ERR_FENCE_TMO 1).putRed { r with due := none }
          let ds := missing.map fun m =>
            let c := j.coords m
            { lo := c.1 * j.cut.mb, nm1 := j.cut.mb - 1, stage0 := c.2.1, stride := j.cut.pp, n := j.cut.v, cause := 0x33,
              fidx := s.faultIndex : Drop }
          (s.ownFault 0x33 18 0 ds.length rid.toNat 0 1).addDrops ds
    | _, _ => s

end Sys2Proof.Machine
end

