-- ==== Sys2Proof/Machine/HostMem.lean ====
section
/-! DEFINITION. Device addresses that a host names in a DMA descriptor: memory, and under debug authorization the
accumulator window (R235, R239, R366). -/

namespace Sys2Proof.Machine

/-! The accumulator window (R239): word i of array a of physical sprig p. -/

/-- A byte of the populated window. -/
def winMapped (a : Nat) : Bool :=
  let d := dpaDie a; let off := dpaOff a
  decide (d < 16) && dpaSpace a == 3 && decide (off / 0x100000 < 272) && decide (off % 0x100000 < 0x80000)

/-- A range that a host may name: memory as BAR4 reaches it, or the window under debug authorization, for a write only
while a global stop holds the die. -/
def State.dmaRange (s : State) (write : Bool) (a n : Nat) : Bool :=
  if dpaSpace a = 3 then
    n == 0 || (s.flag 18 .DBG_AUTH_STATUS_HELD && (!write || s.frozen) && winMapped a && winMapped (a + n - 1) && sameBlock a (a + n - 1) &&
      dpaOff a / 0x100000 == dpaOff (a + n - 1) / 0x100000)
  else s.hostRange write a n

/-- A host's transfer reads as BAR4 does (R250). -/
def State.dmaRead (s : State) (a n : Nat) : State × Bool × List Byte := s.readRange a n

def State.dmaWrite (s : State) (a : Nat) (bs : List Byte) : State × Bool := s.requestWrite a bs

end Sys2Proof.Machine
end

