-- ==== Sys2Proof/Machine/Mailbox.lean ====
section
/-! DEFINITION. The rows of the mailboxes (R345-R357): GO, acknowledgements, faults of channels, taking requests, posting
events, heartbeats. -/

namespace Sys2Proof.Machine

/-- A write of 1 to MBX_GO.GO (R347, R348): on an event channel, whose sender is firmware, it submits nothing. -/
def State.submit (s : State) (l c seq : Nat) : State :=
  let d := linkDie l
  if !s.flag 18 .GLB_FUNC_READY_MBX then s
  else
    let st := s.getF d (.MBX_STAT_STATE c)
    if st = 0 ∨ st = 3 then
      if 24 ≤ c then s
      else
      let n := if s.getF d (.MBX_CTL_GEN c) = 1 then 8 else 16
      let req := (List.range 16).map fun i => if i < n then s.reg d (Reg.MBX_DATA c i) else 0
      let s := (s.setF d (.MBX_GO_SEQ c) seq).setF d (.MBX_STAT_STATE c) 1
      (s.setChan l c { s.chan l c with req := req, seq := seq, goAt := s.now, taken := false }).countK (128 + 4 * c) 1
    else s.setF d (.MBX_STAT_OVR c) 1

/-- GO. -/
def execGo (l : KDie) (c : Chan) (seq : BitVec 16) (s : State) : Out := .next (s.submit l c seq.toNat)

/-- A write of MBX_ACK by the host (R354): it acknowledges the pending record of an event channel whose SEQ it echoes. -/
def State.acknowledge (s : State) (l c : Nat) (v : Word) : State :=
  let d := linkDie l
  if !s.flag 18 .GLB_FUNC_READY_MBX ∨ c < 24 then s
  else if !bit v 31 then s.setReg d (Reg.MBX_ACK c) (v &&& 0xC0FFFFFF#32)
  else if s.getF d (.MBX_STAT_STATE c) = 1 ∧ bits v 15 0 = s.getF d (.MBX_GO_SEQ c) then
    let s := (s.setReg d (Reg.MBX_ACK c) (v &&& 0xC0FFFFFF#32)).setF d (.MBX_STAT_STATE c) 3
    s.setChan l c { s.chan l c with record := [] }
  else s.setF d (.MBX_STAT_OVR c) 1

/-- ACK. -/
def execAck (l : KDie) (c : Chan) (val : Word) (s : State) : Out := .next (s.acknowledge l c val)

/-- A write of 1 to MBX_CTL.CLR (R354): the channel leaves FAULT for IDLE. -/
def State.clearFault (s : State) (l c : Nat) : State :=
  let d := linkDie l
  if s.flag 18 .GLB_FUNC_READY_MBX ∧ s.getF d (.MBX_STAT_STATE c) = 4 then s.setF d (.MBX_STAT_STATE c) 0 else s

/-- CLR. -/
def execClr (l : KDie) (c : Chan) (s : State) : Out := .next (s.clearFault l c)

/-- POISONED_TLP (R354): the channel is in FAULT; a command channel discards its request; AER reports it (R339, R344). -/
def execPoisonedTlp (l : KDie) (c : Chan) (s : State) : Out :=
  .next <|
    let d := linkDie l
    let s := ((s.setF d (.MBX_STAT_STATE c) 4).setF 18 .GLB_ERR_POISON 1).reportAer l 1
    if c.val < 24 then s.setChan l c { s.chan l c with req := [], taken := false } else s

/-- REQUEST_TAKE (R346, R349): firmware takes the request of a FULL channel; one that a check refuses is answered at once. -/
def execRequestTake (l : KDie) (c : Chan) (s : State) : Out := .next (s.takeRequest l c).1

/-- LOST_RECORD (R355): when space returns, a record reports what was lost before any later event. -/
def State.reportLost (s : State) (l c : Nat) : State :=
  let ch := s.chan l c
  if ch.lost = 0 ∨ 128 ≤ ch.queue.length then s
  else if (Store.get 0 s.evMask l).testBit 8 then s.setChan l c { ch with lost := 0 }
  else s.setChan l c { ch with queue := ch.queue ++ [s.record 8 0 [BitVec.ofNat 32 ch.lost, BitVec.ofNat 32 ch.lostAt]], lost := 0 }

/-- A record stands in an event channel: its words, GO with its SEQ, FULL, and the vector under IE_FULL (R354). -/
def State.showRecord (s : State) (l c : Nat) (r : List Word) (seq : Nat) : State :=
  let d := linkDie l
  let s := (List.range 16).foldl (fun s i => s.setReg d (Reg.MBX_DATA c i) (r.getD i 0)) s
  let s := (s.setF d (.MBX_GO_SEQ c) seq).setF d (.MBX_STAT_STATE c) 1
  if s.flag d (.MBX_CTL_IE_FULL c) then s.signal l c else s

/-- EVENT_POST (R354-R356): an event channel that is IDLE or DONE takes its pending record again, or its oldest event. SEQ counts
from 1 on each channel, a first value that R354 does not give (DESIGN CHOICE, log 123). -/
def execEventPost (l : KDie) (c : Chan) (s : State) : Out :=
  .next <|
    let st := s.getF (linkDie l) (.MBX_STAT_STATE c)
    if c.val < 24 ∨ !s.linkTakes l 1 ∨ (st ≠ 0 ∧ st ≠ 3) then s
    else
      let ch := s.chan l c
      if !ch.record.isEmpty then s.showRecord l c ch.record (ch.evSeq % 65536)
      else match ch.queue with
        | [] => s
        | r :: t =>
          let q := ch.evSeq + 1
          let s := (s.setChan l c { ch with queue := t, record := r, evSeq := q }).reportLost l c
          (s.showRecord l c r (q % 65536)).countK (128 + 4 * c.val) 1

/-- COMPLETION_EVENT (R349, R356, R358): a long command whose result is known is reported once, on the link on which it was
accepted, or on the other link when that one is lost. -/
def execCompletionEvent (tag : BitVec 16) (s : State) : Out :=
  .next <|
    match s.longs.find? fun x => x.tag = tag.toNat with
    | none => s
    | some x =>
      match x.result with
      | none => s
      | some (code, ws) =>
        let s := { s with longs := s.longs.filter fun y => y.tag ≠ tag.toNat }
        let up (l : Nat) : Bool := s.flag 18 (if l = 0 then .GLB_FUNC_READY_HL0 else .GLB_FUNC_READY_HL1)
        let l := if !up x.link && up (1 - x.link) then 1 - x.link else x.link
        s.enqueue l (s.record 1 0 ([BitVec.ofNat 32 (x.tag + x.opcode * 65536),
          BitVec.ofNat 32 (code + x.chan * 256 + x.link * 65536), BitVec.ofNat 32 x.seq, 0] ++ ws.take 8))

/-- HEARTBEAT (R357): a record every 1 ms of Thyme, while the mailboxes work. -/
def execHeartbeat (s : State) : Out :=
  .next <|
    if !s.flag 18 .GLB_FUNC_READY_MBX then s
    else
      let s := s.advanceTo (s.edge.ctl.beatAt + 1000000)
      let n := s.edge.ctl.beats + 1
      let s := s.setEdge fun e => { e with ctl := { e.ctl with beats := n, beatAt := s.now } }
      let ph := match s.job with | some j => j.phase | none => 0
      s.event 2 0 [BitVec.ofNat 32 (ph + s.job.isSome.toNat * 4 + (s.activeK == 19).toNat * 8), BitVec.ofNat 32 n,
        s.reg 18 Reg.GLB_FUNC_READY, s.reg 18 Reg.GLB_FUNC_READY_HI]

end Sys2Proof.Machine
end

