-- ==== Sys2Proof/Machine/ResetOps.lean ====
section
/-! DEFINITION. Resets: their reaches (Table 14.2), holds and causes, what a reset keeps, software resets of blocks (R397-R409). -/

namespace Sys2Proof.Machine

/-! Causes and holds (R397, R399, R401). -/

/-- A source sets its bit of RST_CAUSE on the dies of its reach; POR clears the others. -/
def State.setCause (s : State) (ds : List Nat) (c : Nat) : State :=
  ds.foldl (fun s d => s.setReg d Reg.RST_CAUSE (if c = 0 then 1#32 else s.reg d Reg.RST_CAUSE ||| BitVec.ofNat 32 (2 ^ c))) s

/-- RST_STATUS.HOLD of the dies shows whether a source holds them. -/
def State.setHold (s : State) (ds : List Nat) (c : Nat) (v : Bool) : State :=
  ds.foldl (fun s d =>
    let h := s.getF d .RST_STATUS_HOLD
    s.setF d .RST_STATUS_HOLD (if v then h ||| 2 ^ c else h &&& (255 - 2 ^ c))) s

/-- One of POR, MODRST and THERM holds the module. -/
def State.heldFull (s : State) : Bool := s.getF 18 .RST_STATUS_HOLD % 8 ≠ 0

/-- A load is restarted (R404): counted on the die, up to 255. -/
def State.countRestart (s : State) (ds : List Nat) : State :=
  ds.foldl (fun s d => s.setF d .RST_STATUS_LOAD_RESTARTS (min 255 (s.getF d .RST_STATUS_LOAD_RESTARTS + 1))) s

/-- The dies whose option store or trims are loading: a release that reloads trims stands at their step. -/
def State.loading (s : State) : List Nat :=
  match s.edge.release with
  | some r =>
    if !r.trims then []
    else if r.step = 1 then controlDies
    else if r.step = 6 then computeDies.filter fun d => !s.dieGone d && !(s.reg 18 Reg.GLB_FUNC_READY).getLsbD (16 + d)
    else if r.step = 7 then linkDies
    else []
  | none => []

/-! Reaches. -/

/-- What no reset changes: the non-volatile stores, the model's own fields, what stands outside the module (R399). -/
def State.nonVolatile (s : State) : State :=
  { State.reset with pending := s.pending, fresh := s.fresh, inv := s.inv, repair := s.repair, wires := s.wires, retired := s.retired,
                     lostDies := s.lostDies, detours := s.detours,
                     edge := { Edge.fresh with fw := { s.edge.fw with staged := none, stage := 0, tag := 0 }, release := none,
                                               auth := { Edge.fresh.auth with keys := s.edge.auth.keys }, tap := s.edge.tap,
                                               pins := { s.edge.pins with fault := false }, answer := s.edge.answer, hostMem := s.edge.hostMem } }

/-- SPRG_MAPb shows the repair record (R172). -/
def State.reinstate (s : State) : State :=
  (List.range 256).foldl (fun s i => s.setReg (i / 16) (Reg.SPRG_MAP (i % 16)) (Store.get 0 s.repair i)) s

/-- RST_CAUSE and LOAD_RESTARTS, and the sources that hold each die, outlast every reset but POR. -/
def State.keepRst (s t : State) : State :=
  allDies.foldl (fun s d =>
    ((s.setReg d Reg.RST_CAUSE (t.reg d Reg.RST_CAUSE)).setF d .RST_STATUS_LOAD_RESTARTS (t.getF d .RST_STATUS_LOAD_RESTARTS)).setF d
      .RST_STATUS_HOLD (t.getF d .RST_STATUS_HOLD)) s

/-- The reach of POR, MODRST and THERM: every block of every die; DRAM is lost, Thyme restarts at 0. -/
def State.resetFull (s : State) : State := (s.nonVolatile.keepRst s).reinstate

/-- Test-Logic-Reset selects IDCODE (R459). -/
def Tap.toReset (x : Tap) (on : Bool) : Tap := if on then { x with ir := .idcode, reset := true } else x

/-- POR, MODRST or THERM asserts (R397-R399, R401, R404): a load in progress will restart; the release waits. The management
endpoint stays on I3C until a POR (R454); a POR resets the TAP (R459). -/
def State.assertFull (s : State) (c : Nat) : State :=
  let s := s.countRestart s.loading
  let i3c := if c = 0 then none else s.edge.mgmt.i3c
  let s := s.resetFull
  let s := { s with edge := { s.edge with mgmt := { s.edge.mgmt with i3c := i3c }, tap := s.edge.tap.toReset (c = 0) } }
  let s := (s.setCause allDies c).setHold allDies c true
  if c = 0 then allDies.foldl (fun s d => s.setF d .RST_STATUS_LOAD_RESTARTS 0) s else s

/-- One of the three releases: once none holds the module the cold sequence starts at step 1 (R402, R403). -/
def State.releaseFull (s : State) (c : Nat) : State :=
  if !(s.getF 18 .RST_STATUS_HOLD).testBit c then s
  else
    let s := s.setHold allDies c false
    if s.heldFull then s
    else { s with edge := { s.edge with release := some { step := 1, trims := true, dramLost := true } } }

/-- Registers of a range of a die's offsets, as `t` holds them. -/
def State.keepRange (s t : State) (d lo hi : Nat) : State :=
  let mine (x : Nat × Word) : Bool := decide (d * 2 ^ 28 + lo ≤ x.1 ∧ x.1 < d * 2 ^ 28 + hi)
  (t.regs.filter mine).foldl (fun s x => { s with regs := Store.ins s.regs x.1 x.2 })
    { s with regs := Store.clear s.regs (d * 2 ^ 28 + lo) (d * 2 ^ 28 + hi) }

/-- Energy counters: kept by every reset but the full ones. -/
def energyKey (k : Nat) : Bool := k % 2 ^ 28 / 8 = Reg.PWR_ENERGY_LO / 8 || k % 2 ^ 28 / 8 = Reg.PWR_STACK_ENERGY_LO / 8

/-- The reach of WARM and MODWDOG: every block but the PWR blocks, the MGT and TMB blocks of the control dies and the host link
cores with their channels and aperture slots; SRAM, queues and accumulators are zeroed; DRAM is kept in self-refresh with
`keep`. The active die stays active (R27); the journal's first and last step stay with the journal. Whether a holding register (R12)
survives a reset the spec does not say: every agent's is empty after a warm reset (DESIGN CHOICE, log 63).
-/
def State.resetWarm (s : State) (keep : Bool) : State :=
  let t := s.dropWork
  let s := (t.nonVolatile.keepRst t).reinstate
  let s := allDies.foldl (fun s d => s.keepRange t d 0x130000 0x140000) s
  let s := controlDies.foldl (fun s d =>
    let s := ((s.keepRange t d 0x120000 0x130000).keepRange t d 0xD0000 0xD2000).keepRange t d 0x90100 0x90140
    s.setF d .GLB_ROLE_ACTIVE (t.getF d .GLB_ROLE_ACTIVE)) s
  let dram (k : Nat) : Bool := k / 2 ^ 44 % 8 = 0
  let s := { s with now := t.now, counters := t.counters.filter (fun x => energyKey x.1), msix := t.msix, d3 := t.d3, evMask := t.evMask, chans := t.chans,
                    nextTag := t.nextTag,
                    edge := { s.edge with pins := t.edge.pins, power := t.edge.power, mgmt := t.edge.mgmt,
                                          aer := t.edge.aer, msixTab := t.edge.msixTab,
                                          ctl := { t.edge.ctl with takeover := none } } }
  if keep then
    let s := ((s.setReg 18 Reg.JRN_LAST_STEP (t.reg 18 Reg.JRN_LAST_STEP)).setReg 18 Reg.JRN_FIRST_STEP (t.reg 18 Reg.JRN_FIRST_STEP))
    { s with mem := t.mem.filter (fun x => dram x.1), ecc := t.ecc.filter fun x => dram x.1 }.setFs computeDies .MEM_STATUS_SREF 1
  else s

/-- Channels return to IDLE, but for the one that carried WARM_RESET (R406); events that waited are gone with the firmware's
state. -/
def State.idleChannels (s : State) (keep : Option (Nat × Nat)) : State :=
  [0, 1].foldl (fun s l =>
    (List.range 32).foldl (fun s c =>
      if keep = some (l, c) then s
      else (s.setChan l c { Channel.fresh with evSeq := (s.chan l c).evSeq }).setF (linkDie l) (.MBX_STAT_STATE c) 0) s) s

/-- A warm reset begins (R406): work is aborted, blocks are held; MGT, HL0 and HL1 stay set. A release in progress goes on from
the earlier step, and what it has lost stays lost (R401-R403). -/
def State.assertWarm (s : State) (c : Nat) (keep : Bool) (carrier : Option (Nat × Nat)) : State :=
  if s.heldFull then s.setCause allDies c
  else
    let was := s.edge.release
    let ready := s.reg 18 Reg.GLB_FUNC_READY
    let s := s.countRestart s.loading
    let lost := !keep || (match was with | some r => r.dramLost | none => false)
    let s := s.endAuth 2
    let s := (s.resetWarm (!lost)).idleChannels carrier
    let s := (s.setCause allDies c).setHold allDies c true
    let rel : Release := match was with
      | some r => { r with step := min r.step 2, dramLost := lost }
      | none => { step := 2, trims := false, dramLost := lost }
    let s := { s with edge := { s.edge with release := some rel } }
    (s.setReg 18 Reg.GLB_FUNC_READY ready).setReady (ready &&& 0xD#32) 0

/-! CTLWDOG, DSWDOG, PERST. -/

/-- Registers that a control die holds for itself: all but the shared ones, its channels, aperture slots and PWR block. -/
def ownControlReg (off : Nat) : Bool :=
  !twinShared off && !decide (0xD0000 ≤ off ∧ off < 0xD2000) && !decide (0x90100 ≤ off ∧ off < 0x90140) &&
    !decide (0x130000 ≤ off ∧ off < 0x140000) && !decide (off = 0xC) && !decide (off = Reg.RST_CAUSE ∨ off = Reg.RST_STATUS)

/-- The reach of CTLWDOG: the die's own blocks; its Thyme copy relocks. The control processor's holding registers stay (log 63). -/
def State.resetControl (s : State) (d : Nat) : State :=
  let s := ((s.setF d .RST_STATUS_OPT_DONE 0).setF d .RST_STATUS_TRIM_DONE 0).setF d .RST_STATUS_DENIED 0
  { s with regs := s.regs.filter fun x => decide (x.1 / 2 ^ 28 ≠ d) || !ownControlReg (x.1 % 2 ^ 28) }

/-- The reach of DSWDOG: the die supervisor with its holding registers (log 63) and its internal channels. -/
def State.resetSupervisor (s : State) (d : Nat) : State :=
  let s := s.resetRegs d 0xE0000 0xE0800
  { s with supIrq := Store.set 0 s.supIrq d 0, holds := s.holds.filter fun h => match h.1 with | .sup x => decide (x.val ≠ d) | _ => true }

/-- The reach of PERST: a host link core with its channels and aperture slots, the function's MSI-X table, AER status and holding
registers (log 63); its function is in D0. -/
def State.resetHostLink (s : State) (l : Nat) : State :=
  let d := linkDie l
  let s := (s.resetRegs d 0xD0000 0xD2000).resetRegs d 0x90100 0x90140
  { s with chans := Store.clear s.chans (l * 32) (l * 32 + 32), evMask := Store.set 0 s.evMask l 0, d3 := s.d3.filter (· ≠ l),
           msix := Store.clear s.msix (l * 64) (l * 64 + 64),
           edge := { s.edge with aer := Store.set 0 s.edge.aer l 0, msixTab := Store.clear s.edge.msixTab (l * 1024) (l * 1024 + 1024) },
           holds := s.holds.filter fun h => match h.1 with | .host x => decide (x.val ≠ l) | _ => true }

/-! Software reset of a block (R408, R409, Table 14.5). -/

/-- The dies that hold a block. -/
def srstOn (b d : Nat) : Bool :=
  let c := decide (d < 16); let l := decide (16 ≤ d ∧ d < 18); let k := decide (18 ≤ d)
  match b with
  | 0 | 2 | 3 | 4 | 5 | 20 | 21 | 24 => true
  | 1 | 22 | 23 => k
  | 6 | 10 => c || k
  | 7 | 8 | 9 | 11 | 14 | 15 | 16 | 17 | 18 | 19 => c
  | 12 => l
  | 13 => c || l
  | _ => false

/-- The engine of a software reset bit. -/
def srstEngine (b : Nat) : Option EngineId :=
  match b with
  | 13 => some .fnl | 14 => some .chv | 15 => some .upd | 16 => some .ats | 17 => some .nrm | 18 => some .emb | 19 => some .lay | _ => none

/-- The die on which a control die's shared registers are held. -/
def ctlHome (d : Nat) : Nat := if d = 19 then 18 else d

/-- A block's registers on a die return to their reset values: those of the die, and of a control die those that both control dies
show alike. What the other control die holds for itself stays (R408). -/
def State.resetRange (s : State) (d lo hi : Nat) : State :=
  { s with regs := s.regs.filter fun x =>
      let off := x.1 % 2 ^ 28; let on := x.1 / 2 ^ 28
      !(decide (lo ≤ off ∧ off < hi) && (on == d || (on == ctlHome d && twinShared off))) }

/-- A Thyme copy is unlocked and relocks (R409, R415); a control die that drives Thyme does so again once it has relocked. -/
def State.unlockThyme (s : State) (d : Nat) : State :=
  let s := s.resetRegs d 0x120000 0x130000
  { s with edge := { s.edge with dieSamples := Store.set 0 s.edge.dieSamples d 0 } }.setReadyBit 6 false

/-- A block without EN is reset: registers, and what it holds. The roles of the control dies stay, as one of them is active at any time
(R27), and what the debug block shows of an authorization is the security block's (R431). -/
def State.resetBlock (s : State) (d b : Nat) : State :=
  let k := decide (18 ≤ d); let h := ctlHome d
  match b with
  | 0 =>
    let s := if k then s.setReady 0 0 else s
    (s.resetRange d 0 Reg.GLB_ROLE).resetRange d (Reg.GLB_ROLE + 4) 0x10000
  | 1 => { s.resetRegs d 0xD0000 0xD2000 with chans := Store.clear s.chans ((d - 18) * 32) ((d - 18) * 32 + 32) }
  | 2 =>
    let n := s.getF d .RST_STATUS_LOAD_RESTARTS
    let s := (s.setReg d Reg.RST_STATUS 0).setF d .RST_STATUS_LOAD_RESTARTS n
    if k then s.resetRegs d Reg.RST_WARM (Reg.RST_WARM + 4) else s
  | 3 => s.resetRegs d 0x110000 0x120000
  | 4 =>
    let s := s.resetRange d 0x130000 0x140000
    if k then { s with edge := { s.edge with power := { Edge.fresh.power with base := s.edge.power.base } } } else s
  | 5 => s.unlockThyme d
  | 6 =>
    if k then
      { s.resetRange d 0x50100 0x50200 with gov := { s.gov with rules := RuleSet.default, tent := none, tentIn := false } }
    else { s.resetRegs d 0x50000 0x50100 with banks := Store.clear s.banks (2 * d) (2 * d + 2) }
  | 10 => s.resetRegs d 0x90000 0xA0000
  | 11 => s.resetRegs d 0xA0000 0xB0000
  | 12 =>
    let p := (d - 16) * 8
    { s.resetRegs d 0xB0000 0xC0000 with
      counters := Store.clear s.counters (d * 2 ^ 28 + 0xB0000) (d * 2 ^ 28 + 0xC0000),
      edge := { s.edge with ports := Store.clear s.edge.ports p (p + 8) } }
  | 13 => s.resetRegs d 0xC0000 0xD0000
  | 20 =>
    let a := s.reg 18 Reg.DBG_AUTH_STATUS
    let s := s.resetRange d 0x150000 0x160000
    if k then { s.setReg 18 Reg.DBG_AUTH_STATUS a with stop := { StopUnit.fresh with issues := s.stop.issues } } else s
  | 21 =>
    { s.resetRange d 0x140000 0x150000 with
      counters := Store.clear s.counters (h * 2 ^ 28 + 0x140000) (h * 2 ^ 28 + 0x150000) }
  | 22 => s.resetRange d 0xF0000 0x100000
  | 23 => if d = s.activeK then s.closeChallenge.endAuth 2 else s
  | 24 => if k then { s with edge := { s.edge with mgmt := { Edge.fresh.mgmt with i3c := s.edge.mgmt.i3c } } } else s.resetSupervisor d
  | _ => s

/-- The sprig complex of a die is reset: each sprig drains first (R408). -/
def State.srstSprigs (s : State) (d : Nat) : State :=
  (List.range 272).foldl (fun s p =>
    if s.offline d p || (s.spr d p).st = .disabled then s.resetSprig d p
    else (s.disableSprig d p).modSpr d p fun x => { x with srstReq := true }) s

/-- One bit of RST_BLK_SRST is written with 1 (R408, R409). -/
def State.softReset (s : State) (d b : Nat) : State :=
  if !srstOn b d then s
  else if b = 23 ∧ !s.authHeld then s.setF d .RST_STATUS_DENIED 1
  else if b = 7 ∨ b = 8 ∨ b = 9 then
    let s := s.srstSprigs d
    (s.setReg d Reg.RST_BLK_SRST (s.reg d Reg.RST_BLK_SRST ||| BitVec.ofNat 32 (2 ^ b))).settleSprigs d
  else match srstEngine b with
  | some e =>
    if 16 ≤ d then s.resetBlock d b
    else if (s.eng d e).st = .disabled then (s.resetEngine d e)
    else
      let s := s.disableEngine d e
      (s.setEng d e { s.eng d e with srstReq := true }).setReg d Reg.RST_BLK_SRST (s.reg d Reg.RST_BLK_SRST ||| BitVec.ofNat 32 (2 ^ b))
  | none => s.resetBlock d b

end Sys2Proof.Machine
end

