-- ==== Sys2Proof/Machine/Reset.lean ====
section
/-! DEFINITION. The rows of resets and releases (R397-R409). -/

namespace Sys2Proof.Machine

/-- POR: both inputs leave their limits, or have been within them for 10 ms; the 48 V regulators are on only then (R450, R451). -/
def execPor (inRange : Bool) (s : State) : Out :=
  .next <|
    let s := { s with edge := { s.edge with pins := { s.edge.pins with regulators := inRange && !s.edge.pins.therm } } }
    if inRange then s.releaseFull 0 else s.assertFull 0

/-- MODRST: MOD_RESET_N has been low for 1 µs, or is high again, which resets the TAP first (R459). -/
def execModrst (low : Bool) (s : State) : Out :=
  .next <|
    let s := { s with edge := { s.edge with pins := { s.edge.pins with modResetN := !low }, tap := s.edge.tap.toReset (!low) } }
    if low then s.assertFull 1 else s.releaseFull 1

/-- THERM: a sensor reaches 120 °C and the 48 V regulators go off; or MOD_RESET_N has pulsed below 80 °C. -/
def execTherm (assert : Bool) (s : State) : Out :=
  .next <|
    let s := { s with edge := { s.edge with pins := { s.edge.pins with therm := assert, regulators := !assert } } }
    if assert then s.assertFull 2 else s.releaseFull 2

/-- WARM: a write of 1 to RST_WARM.GO (R406). -/
def execWarm (k : KDie) (s : State) : Out := .next (s.assertWarm 3 (s.flag (18 + k.val) .RST_WARM_KEEP) none)

/-- WARM_RESET: the ACK is written before the reset begins; its channel stays in DONE (R406). -/
def execWarmReset (l : KDie) (c : Chan) (s : State) : Out :=
  .next <|
    if bits ((s.chan l c).req.getD 0 0) 15 0 ≠ 0x71 then s
    else match s.takeRequest l c with
    | (s, false) => s
    | (s, true) =>
      let keep := bit ((s.chan l c).req.getD 1 0) 0
      (s.answer l c rcOk []).assertWarm 3 keep (some (l, c))

/-- MODWDOG: 1 ms without a heartbeat from either control die (R380, Table 14.1): as WARM with KEEP = 1. -/
def execModwdog (s : State) : Out :=
  .next ((((s.advanceTo (s.edge.ctl.beatAt + 1000000)).ownFault 0x19 18 0 0 0 0 1).keepJournal).assertWarm 4 true none)

/-- CTLWDOG: a control die's watchdog resets it until its self-test passes, its trims loaded again (R378, R404). The twin can no longer take over from or for
it: TWIN clears when the die was the twin. -/
def execCtlwdog (k : KDie) (release : Bool) (s : State) : Out :=
  .next <|
    let d := 18 + k.val
    if release then ((s.setHold [d] 5 false).setF d .RST_STATUS_OPT_DONE 1).setF d .RST_STATUS_TRIM_DONE 1
    else
      let s := if s.activeK = d then s.closeChallenge.endAuth 2 else s
      let s := ((s.setCause [d] 5).setHold [d] 5 true).resetControl d
      let s := { s with edge := { s.edge with dieSamples := Store.set 0 s.edge.dieSamples d 0 } }
      let s := s.setReadyBit 6 false
      if s.activeK = d then s else s.setReadyBit 7 false

/-- DSWDOG: a die supervisor's watchdog resets it for 1 ms. -/
def execDswdog (d : Fin 18) (release : Bool) (s : State) : Out :=
  .next <|
    if release then s.setHold [d.val] 6 false
    else ((s.setCause [d.val] 6).setHold [d.val] 6 true).resetSupervisor d

/-- The readiness bit of a host link: HL0 is bit 2, HL1 is bit 3. -/
def hlBit (l : Nat) : Nat := 2 + l

/-- PERST: PERST_N of a link is low (R407). -/
def execPerst (l : KDie) (s : State) : Out :=
  .next <|
    let d := 18 + l.val
    let low := if s.edge.pins.perstLow.contains l.val then s.edge.pins.perstLow else s.edge.pins.perstLow ++ [l.val]
    let s := { s with edge := { s.edge with pins := { s.edge.pins with perstLow := low } } }
    (((s.setCause [d] 7).setHold [d] 7 true).resetHostLink l).setReadyBit (hlBit l) false

/-- PERST_RELEASE: PERST_N is high; the link trains once the release has reached step 4 (Table 14.3). -/
def execPerstRelease (l : KDie) (s : State) : Out :=
  .next <|
    let s := { s with edge := { s.edge with pins := { s.edge.pins with perstLow := s.edge.pins.perstLow.filter (· ≠ l.val) } } }
    let s := s.setHold [18 + l.val] 7 false
    if s.flag 18 .GLB_FUNC_READY_MBX || s.flag 18 .GLB_FUNC_READY_HL0 || s.flag 18 .GLB_FUNC_READY_HL1 then s.setReadyBit (hlBit l) true
    else s

/-- SOFTWARE_RESET: each bit written with 1 (R408). -/
def execSoftwareReset (d : Die) (bits : BitVec 25) (s : State) : Out :=
  .next ((setBitsOf 25 bits.toNat).foldl (fun s b => s.softReset d b) s)

/-! Release (R402-R405, Table 14.3). -/

def State.setStep (s : State) (r : Release) (n : Nat) : State := { s with edge := { s.edge with release := some { r with step := n } } }

/-- The option store and the trims of the control dies are loaded. -/
def State.trimsDone (s : State) : State :=
  controlDies.foldl (fun s d => (s.setF d .RST_STATUS_OPT_DONE 1).setF d .RST_STATUS_TRIM_DONE 1) s

/-- Step 2 is complete: the active die is K0 after a cold release (R27), and the security blocks answer. What a warm reset kept shows as
loaded again. -/
def State.bootDone (s : State) : State :=
  let s := s.trimsDone
  let s := if s.flag 18 .GLB_ROLE_ACTIVE ∨ s.flag 19 .GLB_ROLE_ACTIVE then s
    else (s.setF 18 .GLB_ROLE_ACTIVE 1).setF 18 .TMB_STATUS_MASTER 1
  s.setReadyBit 1 true

/-- The links whose PERST_N is high are up. -/
def State.linksUp (s : State) : State :=
  [0, 1].foldl (fun s l => if s.edge.pins.perstLow.contains l then s else s.setReadyBit (hlBit l) true) s

/-- Step 4 is complete: host links whose PERST_N is high are up after a cold release, and the mailboxes work. -/
def State.linksDone (s : State) (cold : Bool) : State :=
  ((if cold then s.linksUp else s).setReadyBit 4 true).setEdge fun e => { e with ctl := { e.ctl with beatAt := s.now } }

/-- The PLL lock bits of a die: one for each of its clock domains (Table 14.6). -/
def lockMask (d : Nat) : Nat := if d < 16 then 7 else if d < 18 then 15 else 3

/-- Step 5 is complete: every present die's PLLs and Thyme copy are locked (R415). -/
def State.lockDone (s : State) : State :=
  let s := allDies.foldl (fun s d =>
    if s.dieGone d then s
    else
      let s := ((s.setF d .CLK_STATUS_LOCK (lockMask d)).setF d .TMB_STATUS_LOCKED 1).setF d .TMB_NOW_HI_UNLOCKED 0
      let s := if d < 16 then s.setF d .CLK_STATUS_FREQ (s.edge.power.freq * 10) else s
      { s with edge := { s.edge with dieSamples := Store.set 0 s.edge.dieSamples d 64 } }) s
  s.setReadyBit 6 true

/-- A compute die has finished step 6: its trims are loaded, its SRAM is zero, its stack is in service. -/
def State.dieReady (s : State) (d : Nat) : State :=
  let s := ((s.setF d .RST_STATUS_TRIM_DONE 1).setF d .MEM_STATUS_READY 1).setF d .MEM_STATUS_SREF 0
  s.setReady (setBits (s.reg 18 Reg.GLB_FUNC_READY) (16 + d) (16 + d) 1) (setBits (s.reg 18 Reg.GLB_FUNC_READY_HI) d d 1)

/-- Every compute die that is not marked lost has finished step 6. -/
def State.diesReady (s : State) : Bool :=
  computeDies.all fun d => s.dieGone d || (s.reg 18 Reg.GLB_FUNC_READY).getLsbD (16 + d)

/-- Step 6 is complete when the last die has trained. -/
def State.stacksDone (s : State) (r : Release) : State :=
  if s.diesReady then s.setStep r 7 else s

/-- The step of a release that stands is complete. -/
def State.releaseNext (s : State) (r : Release) (trained : BitVec 16) : State :=
  match r.step with
  | 1 => s.trimsDone.setStep r 2
  | 2 => s.bootDone.setStep r (if r.trims then 3 else 4)
  | 3 => (s.setReadyBit 0 true).setStep r 4
  | 4 => (s.linksDone r.trims).setStep r 5
  | 5 => s.lockDone.setStep r 6
  | 6 =>
    let new := computeDies.filter fun d =>
      trained.getLsbD d && !s.dieGone d && !(s.reg 18 Reg.GLB_FUNC_READY).getLsbD (16 + d)
    (new.foldl (fun s d => s.dieReady d) s).stacksDone r
  | 7 =>
    let up := linkDies.filter fun d => !s.dieGone d
    let s := up.foldl (fun s d => (s.setF d .RST_STATUS_TRIM_DONE 1).setReadyBit (d - 8) true) s
    s.setStep r 8
  | _ =>
    let s := { s.setReadyBit 5 true with edge := { s.edge with release := none } }
    (s.setHold allDies 3 false).setHold allDies 4 false

/-- RELEASE_STEP (R402-R405): the step in progress is complete; in step 6, of the dies whose stacks have trained. -/
def execReleaseStep (trained : BitVec 16) (s : State) : Out :=
  .next <|
    match s.edge.release with
    | some r => if s.heldFull then s else s.releaseNext r trained
    | none => s

/-- STACK_TRAIN_TIMEOUT (R405): 1 s without training; after two retries the die is marked lost in the repair record and
reported. -/
def execStackTrainTimeout (d : CDie) (s : State) : Out :=
  .next <|
    match s.edge.release with
    | none => s
    | some r =>
      if r.step ≠ 6 ∨ s.dieGone d ∨ (s.reg 18 Reg.GLB_FUNC_READY).getLsbD (16 + d.val) then s
      else
        let n := Store.get 0 s.edge.trainTries d + 1
        let s := s.advanceTo (s.now + 1000000000)
        if n < 3 then { s with edge := { s.edge with trainTries := Store.set 0 s.edge.trainTries d n } }
        else
          let s := { s with edge := { s.edge with trainTries := Store.set 0 s.edge.trainTries d 0 }, lostDies := s.lostDies ++ [d.val] }
          (s.ownFault 0x11 d 0 0 0 0 2).stacksDone r

end Sys2Proof.Machine
end

