-- ==== Sys2Proof/Machine/RegAccess.lean ====
section
/-! DEFINITION. Register accesses with what they start, and host accesses (R5-R12, R234-R241, R339-R356, R468). -/

namespace Sys2Proof.Machine

/-- A host function writes. -/
def isHost : Agent → Bool
  | .host _ => true
  | _ => false

/-! Mailbox channels (R345, R352, R353). -/

/-- The link and channel that an offset of a control die belongs to. -/
def mbxOf (d off : Nat) : Option (Nat × Nat) :=
  if 18 ≤ d ∧ 0xD0000 ≤ off ∧ off < 0xD2000 then some (d - 18, (off - 0xD0000) / 0x100) else none

/-- The offset of a channel's register in the generation 2 layout, given its offset in the layout in force (R352). -/
def mbxSlot (gen1 : Bool) (r : Nat) : Option Nat :=
  if gen1 then
    if r < 0x20 ∨ r = 0x4C then some r
    else if r = 0x20 then some 0x40 else if r = 0x24 then some 0x44 else if r = 0x28 then some 0x48 else none
  else some r

/-- A write of MBX_CTL: CLR leaves FAULT; GEN changes only in IDLE or DONE, and never on an event channel (R353). -/
def State.writeMbxCtl (s : State) (l c : Nat) (v : Word) : State :=
  let d := linkDie l
  let st := s.getF d (.MBX_STAT_STATE c)
  let gen := bits v 31 30
  let s := (s.setF d (.MBX_CTL_IE_DONE c) (bits v 1 1)).setF d (.MBX_CTL_IE_FULL c) (bits v 0 0)
  let s := if c < 24 ∧ (gen = 1 ∨ gen = 2) ∧ (st = 0 ∨ st = 3) then
      (s.setF d (.MBX_CTL_GEN c) gen).setF d (.MBX_STAT_GEN c) gen
    else s
  if bit v 2 then s.clearFault l c else s

/-- A write to a channel's register at its generation 2 offset. `host`: by a host function. -/
def State.writeMbx (s : State) (host : Bool) (l c r : Nat) (v hwSet hwClr : Word) : State :=
  let d := linkDie l; let off := 0xD0000 + 0x100 * c + r
  if r = 0x40 then (if bit v 31 then s.submit l c (bits v 15 0) else if c < 24 then s.plainWrite d off v hwSet hwClr else s)
  else if r = 0x44 then s.acknowledge l c v
  else if r = 0x4C then s.writeMbxCtl l c v
  else if r < 0x40 ∧ 24 ≤ c ∧ host then s
  else s.plainWrite d off v hwSet hwClr

/-! Registers with a behaviour of their own. -/

/-- The engine whose control register an offset is. -/
def engineAt (off : Nat) : Option EngineId := allEngines.find? fun e => decide ((engEn e).off = off)

/-- A write on a compute die. -/
def State.writeCompute (s : State) (d off : Nat) (v hwSet hwClr : Word) : State :=
  if 0x2000000 ≤ off then
    (if off < 0x2000000 + 272 * 0x10000 then s.windowWrite d ((off - 0x2000000) / 0x10000) (off % 0x10000) v hwSet hwClr else s)
  else match engineAt off with
  | some e =>
    let en := s.getF d (engEn e)
    let s := (s.plainWrite d off v hwSet hwClr).setF d (engEn e) en
    if bit v (engEn e).lo then s.enableEngine d e else s.disableEngine d e
  | none => s.plainWrite d off v hwSet hwClr

/-- A write on a link die. -/
def State.writeLink (s : State) (d off : Nat) (v hwSet hwClr : Word) : State :=
  let pt := (d - 16) * 8 + (off - 0xB0000) / 0x400
  if 0xB0000 ≤ off ∧ off < 0xB2000 ∧ off % 0x400 = 0 then s.writePortCtl pt v
  else if 0xB0000 ≤ off ∧ off < 0xB2000 ∧ off % 0x400 = 0x20 then s.writeInjCtl pt v
  else s.plainWrite d off v hwSet hwClr

/-- A write on a control die. -/
def State.writeControl (s : State) (host : Bool) (d off : Nat) (v hwSet hwClr : Word) : State :=
  match mbxOf d off with
  | some (l, c) =>
    (match mbxSlot (s.getF d (.MBX_CTL_GEN c) == 1) (off % 0x100) with
    | some r => s.writeMbx host l c r v hwSet hwClr
    | none => s)
  | none =>
    if off = Reg.RST_WARM then
      let s := s.plainWrite d off v hwSet hwClr
      if bit v 31 then s.assertWarm 3 (s.flag d .RST_WARM_KEEP) none else s
    else if off = Reg.CNT_CTL then (if bit v 31 then s.requestClear else s)
    else if off = Reg.CNT_FLT_LAYER ∨ off = Reg.CNT_FLT_OPER ∨ off = Reg.CNT_FLT_MBID then s.writeFilter off v
    else if off = Reg.DBG_STOP_CTL then s.writeStopCtl v
    else if off = Reg.DBG_BP_ID ∨ off = Reg.DBG_BP_CTL ∨ off = Reg.DBG_BP_STEP then s.writeBreakpoint off v
    else s.plainWrite d off v hwSet hwClr

/-- A write to a register of an internal channel (R361): a control processor sends by the data registers and GO, the die's
supervisor answers by ACK and the response registers; host software's writes are discarded. The states are those of
Table 12.3 (log 80). -/
def State.writeInternal (s : State) (ag : Agent) (d off : Nat) (v hwSet hwClr : Word) : State :=
  let c := (off - 0xE0000) / 0x100; let r := off % 0x100
  let st := s.getF d (.IMB_STAT_STATE c)
  match ag with
  | .host _ => s
  | .ctl _ _ =>
    if r = 0x40 then
      if !bit v 31 then s.plainWrite d off v hwSet hwClr
      else if st = 0 ∨ st = 3 then (s.setF d (.IMB_GO_SEQ c) (bits v 15 0)).setF d (.IMB_STAT_STATE c) 1
      else s.setF d (.IMB_STAT_OVR c) 1
    else if r = 0x4C then
      let s := s.plainWrite d off v hwSet hwClr
      if bit v 2 ∧ st = 4 then s.setF d (.IMB_STAT_STATE c) 0 else s
    else if r < 0x40 ∨ r = 0x48 then s.plainWrite d off v hwSet hwClr
    else s
  | .sup x =>
    if x.val ≠ d then s
    else if r = 0x44 then
      let s := s.plainWrite d off v hwSet hwClr
      if bit v 31 then s.setF d (.IMB_STAT_STATE c) 3
      else if bit v 30 ∧ st = 1 then s.setF d (.IMB_STAT_STATE c) 2
      else s
    else if 0x80 ≤ r then s.plainWrite d off v hwSet hwClr
    else s

/-- A register write with all that it starts. `cap`: the words of an exception or of an uncorrectable codeword that the
capture at `off` meets in the same cycle; a write that clears VALID leaves it recorded (R10, R90, R264). -/
def State.regWrite (s : State) (ag : Agent) (d off : Nat) (v hwSet hwClr : Word)
    (cap : Option (Word × Word × Word) := none) : State :=
  if off = Reg.RST_BLK_SRST then (setBitsOf 25 v.toNat).foldl (fun s b => s.softReset d b) s
  else if isCapture off then
    let s := s.plainWrite d off v 0 hwClr
    match cap with
    | some (w0, w1, w2) => if (regRow d off).isSome then s.captureEvent d off w0 w1 w2 else s
    | none => s
  else if 0xE0000 ≤ off ∧ off < 0xE8000 then (if d < 18 then s.writeInternal ag d off v hwSet hwClr else s)
  else if d < 16 then s.writeCompute d off v hwSet hwClr
  else if d < 18 then s.writeLink d off v hwSet hwClr
  else s.writeControl (isHost ag) d off v hwSet hwClr

/-- A register read: a generation 1 channel shows its own layout. -/
def State.regRead (s : State) (ag : Agent) (d off : Nat) : State × Word :=
  match mbxOf d off with
  | some (_, c) =>
    (match mbxSlot (s.getF d (.MBX_CTL_GEN c) == 1) (off % 0x100) with
    | some r => (s, if 24 ≤ c ∧ 0x80 ≤ r then 0 else s.peek d (off - off % 0x100 + r))
    | none => (s, 0))
  | none => s.readAs ag d off

/-! BAR2 (R342, R345, R362, Table 12.2). -/

/-- The BAR2 offset of a register that a host function writes on the control die of its own link: one of a mailbox channel. -/
def bar2Of (ag : Agent) (d off : Nat) : Option Nat :=
  match ag, mbxOf d off with
  | .host h, some (l, _) => if h.val = l then some (off - 0xD0000) else none
  | _, _ => none

/-- A word written at a BAR2 offset: the channels, the MSI-X table; a write to the pending bits or to a reserved offset is discarded, and
so is every write until the MBX bit sets. -/
def State.bar2Write (s : State) (l x : Nat) (v hwSet hwClr : Word) : State :=
  if !s.flag 18 .GLB_FUNC_READY_MBX then s
  else if x < 0x2000 then s.regWrite (.host (Fin.ofNat 2 l)) (18 + l) (0xD0000 + x) v hwSet hwClr
  else if 0x8000 ≤ x ∧ x < 0x8400 then
    s.setEdge fun e => { e with msixTab := ((natLe 4 v.toNat).zipIdx).foldl (fun t b => Store.set 0 t (l * 1024 + (x - 0x8000) + b.2) b.1) e.msixTab }
  else s

/-- A word read at a BAR2 offset; 0 until the MBX bit sets. No vector waits, so the pending bits read 0 (log 78). -/
def State.bar2Read (s : State) (l : KDie) (x : Nat) : State × Word :=
  if !s.flag 18 .GLB_FUNC_READY_MBX then (s, 0)
  else if x < 0x2000 then s.regRead (.host l) (18 + l) (0xD0000 + x)
  else if 0x8000 ≤ x ∧ x < 0x8400 then
    (s, BitVec.ofNat 32 (leNat ((List.range 4).map fun i => Store.get 0 s.edge.msixTab (l * 1024 + (x - 0x8000) + i))))
  else (s, 0)

def State.answered (s : State) (a : Answer) : State := s.setEdge fun e => { e with answer := a }

/-! BAR0 (R342, R343, R468). -/

/-- The register that a BAR0 offset reaches: its own die's, or the window's (R342, R343); `true` for the window. -/
def State.bar0Reg (s : State) (l x : Nat) : Option (Nat × Nat × Bool) :=
  if x < 0x1000000 then some (18 + l, x, false)
  else if x < 0x2000000 then some (s.getF 18 .GLB_BAR0_WIN_DIE, s.getF 18 .GLB_BAR0_WIN_BASE * 2 ^ 24 + (x - 0x1000000), true)
  else none

/-- A single-word write through BAR0. -/
def State.bar0Write (s : State) (l x : Nat) (v : Word) : State :=
  match s.bar0Reg l x with
  | none => s
  | some (d, off, win) =>
    if win && decide (d < 18) && !s.authHeld then s.setF 18 .GLB_ERR_DENIED 1 else s.regWrite (.host (Fin.ofNat 2 l)) d off v 0 0

/-- A single-word read through BAR0. -/
def State.bar0Read (s : State) (l : KDie) (x : Nat) : State × Word :=
  match s.bar0Reg l x with
  | none => (s, 0)
  | some (d, off, _) => s.regRead (.host l) d off

/-- Consecutive words of a write. -/
def State.bar0Writes (s : State) (l x : Nat) : List Word → State
  | [] => s
  | w :: t => (s.bar0Write l x w).bar0Writes l (x + 4) t

/-- Consecutive words of a read. -/
def State.bar0Reads (s : State) (l : KDie) (x : Nat) : Nat → State × List Word
  | 0 => (s, [])
  | n + 1 =>
    let y := s.bar0Read l x
    let z := y.1.bar0Reads l (x + 4) n
    (z.1, y.2 :: z.2)

/-- The link answers requests: its HL bit is set (R341). -/
def State.linkUp (s : State) (l : Nat) : Bool := (s.reg 18 Reg.GLB_FUNC_READY).getLsbD (hlBit l)

/-- An unmapped host request (R235, R468): a read is an Unsupported Request, a write is discarded. -/
def State.unmapped (s : State) (l : Nat) (isWrite : Bool) : State :=
  (s.setF (18 + l) .MEM_ERR_UNMAPPED 1).answered (if isWrite then .none else .unsupported)

/-! BAR4 (R235, R240, R241, R250, R256). -/

/-- A host access at a device address through an enabled slot. -/
def State.apertureAccess (s : State) (l a : Nat) (wr : Option (List Byte)) (len : Nat) : State :=
  match wr with
  | some bs => if s.hostRange true a bs.length then (s.requestWrite a bs).1.answered .none else s.unmapped l true
  | none =>
    if s.hostRange false a len then
      match s.readRange a len with
      | (s, true, bs) => s.answered (.data bs)
      | (s, false, bs) => s.answered (.poisoned bs)
    else s.unmapped l false

end Sys2Proof.Machine
end

