-- ==== Sys2Proof/Machine/Host.lean ====
section
/-! DEFINITION. The rows of registers and of host accesses (R8-R12, R240, R341, R468). -/

namespace Sys2Proof.Machine

/-- REGISTER_WRITE (R8, R10, R11, R90, R264); a host's write of a channel of its own link comes through BAR2 (R345, log 121). -/
def execRegisterWrite (ag : Agent) (d : Die) (off : RegOff) (val : Word) (hwSet : HwSet) (hwClr : Word) (s : State) : Out :=
  .next <|
    if off.toNat % 4 ≠ 0 then s
    else match bar2Of ag d off.toNat with
    | some x => s.bar2Write (d - 18) x val hwSet.bits hwClr
    | none => s.regWrite ag d off.toNat val hwSet.bits hwClr hwSet.capture

/-- What a read of a counter's register answers. -/
def State.answerRead (s : State) (ag : Agent) (d off : Nat) : State :=
  let y := s.readAs ag d off
  y.1.answered (.data (natLe 4 y.2.toNat))

/-- COUNTER_LOWER_READ (R12): the upper word is latched for the reader. -/
def execCounterLowerRead (ag : Agent) (d : Die) (off : RegOff) (s : State) : Out :=
  .next (if counterPair d off.toNat = some off.toNat then s.answerRead ag d off.toNat else s)

/-- COUNTER_UPPER_READ (R12): the latched word, or the live one. -/
def execCounterUpperRead (ag : Agent) (d : Die) (off : RegOff) (s : State) : Out :=
  .next (if (counterPair d off.toNat).any (fun low => decide (low + 4 = off.toNat)) then s.answerRead ag d off.toNat else s)

/-- BAR0_ACCESS (R342, R343, R468): whole aligned words with every byte enabled, in increasing address order. -/
def execBar0Access (l : KDie) (off : BitVec 26) (wr : Option (List Byte)) (len : Nat) (allBytes : Bool) (s : State) : Out :=
  .next <|
    let n := match wr with | some bs => bs.length | none => len
    if !s.linkUp l then s.answered .none
    else if s.d3.contains l.val then s.answered (if wr.isSome then .none else .unsupported)
    else if !allBytes || off.toNat % 4 != 0 || n % 4 != 0 || n == 0 then s.unmapped l wr.isSome
    else match wr with
    | some bs => (s.bar0Writes l off.toNat (wordsOf (n / 4) bs)).answered .none
    | none =>
      let y := s.bar0Reads l off.toNat (n / 4)
      y.1.answered (.data (bytesOf y.2))

/-- BAR4_ACCESS (R240): the slot of x[37:34] leads to device memory, or the access is unmapped. -/
def execBar4Access (l : KDie) (off : BitVec 38) (wr : Option (List Byte)) (len : Nat) (s : State) : Out :=
  .next <|
    let n := off.toNat / 2 ^ 34; let d := 18 + l.val
    if !s.linkUp l then s.answered .none
    else if s.d3.contains l.val then s.answered (if wr.isSome then .none else .unsupported)
    else if !s.flag d (.MEM_AP_SLOT_EN n) || (wr.isSome && s.flag d (.MEM_AP_SLOT_RDONLY n)) then s.unmapped l wr.isSome
    else s.apertureAccess l (s.getF d (.MEM_AP_SLOT_BASE n) * 2 ^ 34 + off.toNat % 2 ^ 34) wr len

/-- The extended capabilities of Table 12.1, in its order, by the IDs of the PCI Express specification (log 121): AER, Device Serial
Number, Data Link Feature, Physical Layer 16.0, 32.0 and 64.0 GT/s, Lane Margining at the Receiver, FLIT Logging. -/
def extCapIds : List Nat := [0x0001, 0x0003, 0x0025, 0x0026, 0x002A, 0x0031, 0x0027, 0x0032]

/-- CONFIG_REQUEST (R339-R341): Request Retry Status until the link's HL bit is set; then the identity, the power state, the largest
payload and read request, the MSI-X vectors with the places of their table and pending bits, the extended capabilities and what AER
holds. -/
def execConfigRequest (l : KDie) (req : CfgReq) (s : State) : Out :=
  .next <|
    if !s.linkUp l then s.answered .retry
    else match req with
    | .deviceId => s.answered (.data (natLe 2 0x4820))
    | .classCode => s.answered (.data (natLe 3 0x120000))
    | .serial => s.answered (.data (natLe 8 s.inv.serial.toNat))
    | .powerState => s.answered (.data (natLe 1 (if s.d3.contains l.val then 3 else 0)))
    | .extCaps => s.answered (.data (extCapIds.flatMap (natLe 2)))
    | .payload => s.answered (.data (natLe 2 512 ++ natLe 2 4096))
    | .msix => s.answered (.data (natLe 2 64 ++ natLe 4 0x8000 ++ natLe 4 0xC000))
    | .aer => s.answered (.data (natLe 1 (Store.get 0 s.edge.aer l).toNat))
    | .clearAer m => (s.setEdge fun e => { e with aer := Store.set 0 e.aer l (Store.get 0 e.aer l &&& ~~~m) }).answered .none
    | .setPowerState true => { s with d3 := if s.d3.contains l.val then s.d3 else s.d3 ++ [l.val] }.answered .none
    | .setPowerState false => { s with d3 := s.d3.filter (· ≠ l.val) }.answered .none

end Sys2Proof.Machine
end

