-- ==== Sys2Proof/Machine/JobOps.lean ====
section
/-! DEFINITION. Loading and starting jobs, data descriptors, tentative rule changes and replays: what the MCI commands of
chapters 5, 10 and 13 share (R58, R141, R229, R265-R281, R314, R390, R396). -/

namespace Sys2Proof.Machine

/-! Data descriptors (R274, R275). -/

/-- The result of adding entries to those held: the entries, or what refuses them. -/
def addDescs (held : List DataDesc) (mbs : Nat) (after : Option Nat) (bs : List (List Byte)) : Except (Nat × List Word) (List DataDesc) :=
  match descFault mbs held.length after 0 bs [] with
  | some (i, bad) => .error (if bad then rcBadArg else rcNoResource, [0, BitVec.ofNat 32 i])
  | none =>
    let new := bs.map parseDesc
    let all := held ++ new
    match new.findIdx? fun x => 1024 < (mergeRuns (all.filter fun y => y.step = x.step)).length with
    | some i => .error (rcBadArg, [0, BitVec.ofNat 32 i])
    | none => .ok all

def lastCovered (ds : List DataDesc) (before : Nat) : Nat := ds.foldl (fun a x => max a x.step) before

/-- The table that JOB_LOAD names: its header, then its entries (R274). -/
def State.readTable (s : State) (a mbs : Nat) : State × Except (Nat × List Word) (List DataDesc) :=
  match s.readArg a 64 with
  | (s, .error c) => (s, .error (c, []))
  | (s, .ok h) =>
    let n := fld h 4 4
    if fld h 0 2 ≠ 1 ∨ fld h 2 2 ≠ 0 ∨ fld h 8 56 ≠ 0 then (s, .error (rcBadArg, []))
    else if 1048576 < n then (s, .error (rcNoResource, [0, BitVec.ofNat 32 1048576]))
    else match s.readArg (a + 64) (32 * n) with
      | (s, .error c) => (s, .error (c, []))
      | (s, .ok b) => (s, addDescs [] mbs none (chunks 32 n b))

/-! JOB_LOAD. -/

/-- A PRESENT port that is up and whose peer differs from the map is a cabling fault (R314). -/
def State.cablingFault (s : State) (fabric : List Byte) (m : Nat) : Bool :=
  (List.range 16).any fun p =>
    let w := fld fabric (16 + 80 * m + 16 + 4 * p) 4
    let d := 16 + p / 8; let k := p % 8
    w.testBit 14 && !w.testBit 15 && (s.getF d (.LNK_PORT_STATUS_STATE k) == 2 || s.getF d (.LNK_PORT_STATUS_STATE k) == 3) &&
      (s.getF d (.LNK_PORT_STATUS_PEER_MOD k) != w % 1024 || s.getF d (.LNK_PORT_STATUS_PEER_PORT k) != w / 1024 % 16)

/-- TICK_LEN for the longest step, in sprig cycles (R281). -/
def planTickLen (cycles : Nat) : Option Nat := [1024, 2048, 4096].find? fun t => cdiv cycles t ≤ 2 ^ 24

/-- What a load finds when nothing refuses it. -/
structure Loaded where
  job : Job
  aliases : Nat
  tick : Nat
  ref : List Byte
  refAt : Nat
  deriving DecidableEq, Repr

/-- The graph of a load, with the load failures of the graph itself (R57, R58, R266, R389). -/
def State.loadGraph (s : State) (req : List Word) : State × Except (Nat × List Word) (Graph × Nat) :=
  match s.readArg (argDpa req 1) (argW req 3) with
  | (s, .error c) => (s, .error (c, []))
  | (s, .ok b) =>
    match parseGraph b with
    | none => (s, .error (rcBadArg, []))
    | some g =>
      let al := aliasPairs g.cons
      if 32768 < g.layers.length then (s, .error (rcNoResource, []))
      else match al, (req.getD 12 0).getLsbD 16 with
        | [], _ => (s, .ok (g, 0))
        | _, true => (s, .ok (g, al.length))
        | (x, y) :: _, false =>
          let a (c : ConsRec) : Word := BitVec.ofNat 32 (c.tid + c.lane * 2 ^ 24)
          let b (c : ConsRec) : Word := BitVec.ofNat 32 (c.layer + c.oper * 2 ^ 20)
          (s, .error (rcStreamAlias, [a x, a y, b x, b y]))

/-- Every check of a load, in this order: graph, cut, data descriptors, fabric and position, checkpoint reference, the
group's plan, what the placer can fit (R277, R281, R291, R396). -/
def State.checkLoad (s : State) (req : List Word) (plan : LoadPlan) : State × Except (Nat × List Word) Loaded :=
  match s.loadGraph req with
  | (s, .error e) => (s, .error e)
  | (s, .ok (g, aliases)) =>
    match s.readArg (argDpa req 4) 64 with
    | (s, .error c) => (s, .error (c, []))
    | (s, .ok cb) =>
      let cut := parseCut cb
      if !cutLegal cut g.nblock then (s, .error (rcBadArg, []))
      else match s.readTable (argDpa req 6) (cut.dp * cut.mb) with
      | (s, .error e) => (s, .error e)
      | (s, .ok descs) =>
        match s.readArg (argDpa req 10) (16 + 80 * cut.group) with
        | (s, .error c) => (s, .error (c, []))
        | (s, .ok fabric) =>
          let m := bits (req.getD 12 0) 9 0
          let restore := (req.getD 12 0).getLsbD 17
          let seed : BitVec 64 := req.getD 9 0 ++ req.getD 8 0
          if !fabricLegal fabric cut.group ∨ cut.group ≤ m then (s, .error (rcBadArg, []))
          else match (if restore then s.readArg (argDpa req 13) 256 else (s, .ok [])) with
          | (s, .error c) => (s, .error (c, []))
          | (s, .ok ref) =>
            let absent := fldBits ref 2 2 1 1 = 0 ∧ s.lostMods.any fun x => decide (x < fld ref 0x12 2)
            if restore ∧ (!refValid ref seed g.crc ∨ absent) then (s, .error (rcBadArg, []))
            else if s.cablingFault fabric m then (s, .error (rcFault, []))
            else if ¬(plan.groupMax = plan.groupPlan ∧ plan.groupMin = plan.groupPlan) then (s, .error (rcFault, []))
            else match planTickLen plan.longestStep with
            | none => (s, .error (rcNoResource, []))
            | some t =>
              if !plan.fits then (s, .error (rcNoResource, []))
              else (s, .ok
                { job := Job.formGroups
                    { graph := g, cut := cut, fabric := fabric, modIx := m, seed := seed, s0 := 0, step := 0, phase := 3,
                      running := false, started := false, atBoundary := false, lastDone := none, endReq := .none, descs := descs,
                      covered := lastCovered descs 0, variants := plan.variants, groupPlan := plan.groupPlan, plans := [], drops := [],
                      dropped := 0, aborts := 0, corrupt := 0, ckpt := 0, members := List.range cut.group, stepStart := s.now,
                      old := plan.old.map BitVec.toNat },
                  aliases := aliases, tick := t, ref := ref, refAt := argDpa req 13 })

/-- A job's context on every compute die: seed and epoch of sprigs and of Chervil, the tick length, the stripe (R114, R152,
R254, R280). -/
def State.writeContext (s : State) (j : Job) (tick : Nat) (plan : LoadPlan) : State :=
  let lo : Word := j.seed.setWidth 32; let hi : Word := (j.seed >>> 32).setWidth 32
  let e := s.getF 0 .FNL_EPOCH_EPOCH
  let mask := ((computeDies.filter fun d => !s.dieGone d).map (2 ^ ·)).foldl (· + ·) 0
  computeDies.foldl (fun s d =>
    let s := ((s.setReg d Reg.CHV_SEED_LO lo).setReg d Reg.CHV_SEED_HI hi).setF d .GLB_TICK_CFG_TICK_LEN tick
    let s := ((s.setF d .MEM_PAR_MASK_MASK mask).setF d .MEM_PAR_BASE_BASE plan.parBase.toNat).setF d .MEM_PAR_BLOCKS_BLOCKS plan.parBlocks.toNat
    let s := s.setF d .MEM_STG_BASE_BASE plan.stgBase.toNat
    (List.range 272).foldl (fun s p =>
      ((s.setReg d (Reg.SPRG_SEED_LO p) lo).setReg d (Reg.SPRG_SEED_HI p) hi).setF d (.SPRG_EPOCH_EPOCH p) e) s) s

/-- The governor of a new job: no history, the committed rule set without pins that the graph would refuse (R144; log 41), and no
digest until the first commit (SAGE_DIGEST). -/
def State.freshGovernor (s : State) (j : Job) : State :=
  let fits (p : Nat × Nat) : Bool := j.graph.layers.any fun r => decide (r.layer = p.1 ∧ r.floor ≤ p.2 ∧ p.2 ≤ r.ceil)
  let r := { s.gov.rules with pins := s.gov.rules.pins.filter fits }
  ({ s with gov := { Governor.fresh with rules := r } }.showRules r).setReg 18 Reg.SAGE_DIGEST 0

/-- Transfers that read every image of a reference's group from storage (R395, R396). -/
def restoreXfers (tag : Nat) (ref : List Byte) (now : Nat) : List Xfer :=
  let desc := slice ref 0x40 64
  (List.range (fld ref 0x12 2)).flatMap fun m => (List.range 16).map fun d =>
    { tag := tag, write := false, obj := fld ref 0x38 8 + 16 * m + d, addr := 0, len := 64,
      port := ethPorts.getD (fldBits desc 16 1 1 0) 6, tried := [], at_ := now, out := [], next := 0, got := [], store := desc }

/-- A load selects the Thyme parent and declares group lock, which it has waited for (R318). -/
def State.lockGroup (s : State) (j : Job) : State :=
  let s := { s with edge := { s.edge with ctl := { s.edge.ctl with acquired := true } } }
  (s.showParent j).setFs controlDies .TMB_STATUS_GROUP_LOCK 1

/-- The job is loaded; a restore takes its images. What the command answers, when it is known at once. -/
def State.installJob (s : State) (x : Loaded) (plan : LoadPlan) (tag : Nat) : State × Option (Nat × List Word) :=
  let fw := s.edge.fw
  let placer := if fw.image.isEmpty then fw.placer else Config.imagePlacer fw.image
  let s := { s with job := some x.job, banks := [], edge := { s.edge with fw := { fw with placer := placer } } }.countK 0 x.aliases
  let s := (s.writeContext x.job x.tick plan).freshGovernor x.job
  let x := { x with job := { x.job with
                                protect := s.shardRules x.job plan.shards,
                                snapSteps := s.getF 18 .GLB_COMPAT_CFG_SNAP_STEPS } }
  let s := { s with job := some x.job, edge := { s.edge with kept := [], restored := [], rebuilt := [] } }
  let s := { s with parts := [], unprotected := [], deltas := [] }.setFnl fun _ => Fennel.fresh
  let s := s.lockGroup x.job
  if x.ref.isEmpty then (s.regenerateAll.formParity x.job, some (rcOk, [BitVec.ofNat 32 x.job.variants]))
  else
    let s0 := fld x.ref 4 4
    let j := { x.job with ckpt := x.refAt, step := s0 + 1, lastDone := some s0 }
    let s := { s with job := some j }
    if fldBits x.ref 2 2 1 1 = 1 then
      ({ s with edge := { s.edge with xfers := s.edge.xfers ++ restoreXfers tag x.ref s.now } }.pumpXfers, none)
    else (s.restoreDram j x.ref, some (rcOk, [BitVec.ofNat 32 j.variants]))

/-- A load: refused, or done, or under way. -/
def State.load (s : State) (req : List Word) (plan : LoadPlan) (tag : Nat) : State × Option (Nat × List Word) :=
  match s.checkLoad req plan with
  | (s, .error e) => (s, some e)
  | (s, .ok x) => s.installJob x plan tag

/-! Starting a job (R280, R286). -/

/-- The job stands before the step-start barrier of a step, which this module reaches: its vectors are there, their journal records open
(R388), and the plan of the load is that of its inputs (R277). Where no
vector is held for the step or the next one, as at a job's start and where JOB_START goes on after a replay, they are the graph's
initial levels (DESIGN CHOICE, log 115). -/
def State.beginAt (s : State) (j : Job) (step : Nat) : State :=
  let j := { j with step := step, phase := 3, running := true, started := true, atBoundary := false, endReq := .none, fetching := false }
  let put (v : Store (List Byte)) (k : Nat) : Store (List Byte) := if (v.lookup k).isSome then v else Store.set [] v k j.graph.initial
  let s := { s with job := some j,
                    gov := { s.gov with vectors := put (put s.gov.vectors step) (step + 1),
                                        decided := some (max (s.gov.decided.getD 0) (step + 1)) },
                    edge := { s.edge with boundary := some 0 } }
  let j := if j.plans.isEmpty then { j with plans := [(s.planInputs j step, j.groupPlan, true)] } else j
  ({ s with job := some j }.openJournal step |>.openJournal (step + 1)).reachStart

/-! Tentative rule sets (R141, R144, R145). -/

/-- One change of the tentative rule set. -/
def applyChange (r : RuleSet) (args : List Word) : RuleSet :=
  let l := bits (args.getD 1 0) 19 0
  match bits (args.getD 0 0) 15 0 with
  | 0x20 => { r with pins := setPin l (some (bits (args.getD 1 0) 22 20)) r.pins }
  | 0x21 => { r with pins := setPin l none r.pins }
  | 0x22 => { r with ctl := args.getD 1 0, thr := args.getD 2 0, quiet := args.getD 3 0, lo := args.getD 4 0, hi := args.getD 5 0 }
  | _ => r

/-- The tentative set that the outstanding changes make of the committed one. -/
def State.rebuildTent (s : State) : State :=
  let cs := s.longs.filter fun c => [0x20, 0x21, 0x22].contains c.opcode && c.result.isNone
  { s with gov := { s.gov with tent := if cs.isEmpty then none else some (cs.foldl (fun r c => applyChange r c.args) s.gov.rules) } }

/-- Register images that the governor takes: no reserved bit, no reserved encoding (R11, R346). -/
def imagesLegal (args : List Word) : Bool :=
  let reg (i : Nat) : Nat := [Reg.SAGE_GOV_CTL, Reg.SAGE_THR, Reg.SAGE_QUIET, Reg.SAGE_RATIO_LO, Reg.SAGE_RATIO_HI].getD i 0
  (List.range 5).all fun i =>
    match regRow 18 (reg i) with
    | none => true
    | some r => r.fields.all fun f =>
      let v := bits (args.getD (i + 1) 0) f.hi f.lo
      if f.acc = .rsvd then v == 0 else f.legal.isEmpty || f.legal.any fun x => decide (x.1 ≤ v ∧ v ≤ x.2)

/-! Freeze tables (R227, R229). -/

/-- Entries with their row bitmaps; none where the table is malformed. -/
def State.readFreeze (s : State) (j : Job) : List (List Byte) → Nat → State × Except Nat (List (List Byte × List Byte))
  | [], _ => (s, .ok [])
  | e :: t, last =>
    let tid := fld e 0 3
    match j.tensor tid with
    | none => (s, .error rcBadArg)
    | some x =>
      if fldBits e 3 1 7 1 ≠ 0 ∨ fld e 4 4 ≠ 0 ∨ fldBits e 8 8 63 52 ≠ 0 ∨ tid ≤ last then (s, .error rcBadArg)
      else
        let rows := x.dims.dropLast.foldl (· * ·) 1
        match (if fldBits e 3 1 0 0 = 1 then s.readArg (fldBits e 8 8 51 0) (cdiv rows 8) else (s, .ok [])) with
        | (s, .error c) => (s, .error c)
        | (s, .ok m) =>
          match s.readFreeze j t tid with
          | (s, .error c) => (s, .error c)
          | (s, .ok r) => (s, .ok ((e, m) :: r))

/-- The table that FREEZE_SET names. -/
def State.freezeArg (s : State) (j : Job) (req : List Word) : State × Except Nat (List (List Byte × List Byte)) :=
  let n := argW req 3
  match s.readArg (argDpa req 1) (16 * n) with
  | (s, .error c) => (s, .error c)
  | (s, .ok b) => s.readFreeze j (chunks 16 n b) 0

/-! REPLAY_STEP (R390, R391). -/

/-- The replay's breakpoint (R391). -/
def State.armReplay (s : State) (req : List Word) (step : Nat) : State :=
  let oper := bits (req.getD 5 0) 11 0; let layer := bits (req.getD 4 0) 19 0
  let s := s.setReg 18 Reg.DBG_BP_ID (BitVec.ofNat 32 (oper * 2 ^ 20 + layer))
  let s := s.setReg 18 Reg.DBG_BP_CTL (BitVec.ofNat 32 (3 * 2 ^ 30 + bits (req.getD 5 0) 31 16))
  let s := s.setReg 18 Reg.DBG_BP_STEP (BitVec.ofNat 32 step)
  { s with edge := { s.edge with bpCopy := true } }

/-- The rerun begins at the step after the checkpoint's (R390): vectors and drop lists from the records. -/
def State.beginReplay (s : State) (j : Job) (req : List Word) (s0 tag : Nat) : State :=
  let step := argW req 1
  let n := j.graph.layers.length
  let s := (List.range (step - s0)).foldl (fun s i => s.readRecord (s0 + 1 + i)) s
  let vecs := ((List.range (step - s0)).filterMap fun i =>
    (s.recordBytes (s0 + 1 + i)).map fun b => (s0 + 1 + i, slice b 0x8000 n))
  let s := { s with gov := { s.gov with vectors := vecs.foldl (fun v (x : Nat × List Byte) => Store.set [] v x.1 x.2) s.gov.vectors } }
  let s := (s.setF 18 .JRN_STATUS_REPLAY 1).setReg 18 Reg.JRN_REPLAY_STEP (BitVec.ofNat 32 (s0 + 1))
  let stopEn := (req.getD 6 0).getLsbD 0
  let s := if stopEn then s.armReplay req step else s
  let drops := match s.recordBytes (s0 + 1) with | some b => recordDrops b | none => []
  let j := { j with drops := drops, lastDone := some s0 }
  let s := { s with edge := { s.edge with replay := some { tag := tag, step := step, stopped := false } } }
  (s.replayEpoch (s0 + 1)).beginAt j (s0 + 1)

end Sys2Proof.Machine
end

