-- ==== Sys2Proof/Machine/Job.lean ====
section
/-! DEFINITION. The MCI commands of jobs, Sage, checkpoints, DMA and replay, and the general ones (Table 12.7, R58, R141-R145,
R229, R274, R334, R360, R366, R388-R396). An error that shows in the request is answered in the mailbox; one that firmware finds in
memory that a long command names ends it with its completion event (log 42). -/

namespace Sys2Proof.Machine

/-! General commands. -/

/-- GET_INFO. -/
def State.runGetInfo (s : State) (_ : List Word) (_ : Nat) : State × Mci :=
  let mod : Word := match s.job with | some j => BitVec.ofNat 32 j.modIx | none => 0xFFFF#32
  let step : Word := match s.job with | some j => BitVec.ofNat 32 j.step | none => 0xFFFFFFFF#32
  (s, .done rcOk [s.glbId, s.edge.fw.version, s.edge.fw.placer, mod, s.reg 0 Reg.FNL_EPOCH, step, s.inv.serial.setWidth 32,
    (s.inv.serial >>> 32).setWidth 32])

def execGetInfo (l : KDie) (c : Chan) (s : State) : Out := .next (s.mci l c 0x01 State.runGetInfo)

/-- EVT_MASK: COMPLETION and READY are never suppressed. -/
def State.runEvtMask (l : Nat) (s : State) (req : List Word) (_ : Nat) : State × Mci :=
  let m := argW req 1 &&& 0x1F4
  ({ s with evMask := Store.set 0 s.evMask l m }, .done rcOk [BitVec.ofNat 32 m])

def execEvtMask (l : KDie) (c : Chan) (s : State) : Out := .next (s.mci l c 0x02 (State.runEvtMask l))

/-- A REPLAY_STEP that is abandoned: its work is cancelled, and the job is loaded and not started (R360, R390). -/
def State.abandonReplay (s : State) : State :=
  let s := ((s.cancelWork.setF 18 .JRN_STATUS_REPLAY 0).setF 18 .JRN_STATUS_STOPPED 0).setF 18 .JRN_STATUS_OPEN 0
  { s with job := s.job.map fun j => { j with running := false, started := false, atBoundary := false, phase := 3, drops := [], fetching := false },
           journal := none,
           edge := { s.edge with replay := none, boundary := none, tick0 := [], ahead := [], waits := [] } }

/-- The freeze table that the outstanding FREEZE_SET commands leave tentative: the last one's. -/
def State.rebuildFreeze (s : State) : State :=
  match (s.longs.filter fun c => c.opcode = 0x23 ∧ c.result.isNone).getLast?, s.job with
  | some c, some j =>
    match s.freezeArg j c.args with
    | (s, .ok f) => { s with gov := { s.gov with freezeTent := some f } }
    | (s, .error _) => { s with gov := { s.gov with freezeTent := none } }
  | _, _ => { s with gov := { s.gov with freezeTent := none } }

/-- What a cancelled command had started is abandoned (R141, R229, R360, R390, R393). -/
def State.abandon (s : State) (c : LongCmd) : State :=
  match c.opcode with
  | 0x20 | 0x21 | 0x22 => s.rebuildTent
  | 0x23 => s.rebuildFreeze
  | 0x30 =>
    { s with edge := { s.edge with ckpt := s.edge.ckpt.filter fun k => k.tag ≠ c.tag, xfers := s.edge.xfers.filter fun x => x.tag ≠ c.tag } }
  | 0x50 => { s with edge := { s.edge with xfers := s.edge.xfers.filter fun x => x.tag ≠ c.tag } }.abandonReplay
  | _ => s

/-- A change that has entered a reduction can no longer be withdrawn (R360). -/
def State.entered (s : State) (c : LongCmd) : Bool :=
  ([0x20, 0x21, 0x22].contains c.opcode && s.gov.tentIn) || (c.opcode == 0x23 && s.gov.freezeIn)

/-- CANCEL (R360). -/
def State.runCancel (s : State) (req : List Word) (_ : Nat) : State × Mci :=
  match s.longs.find? fun c => c.tag = bits (req.getD 1 0) 15 0 with
  | none => (s, .done rcOk [0])
  | some c =>
    let n := match cmdRow c.opcode with | some r => r.n | none => false
    if n then (s, .done rcDenied [])
    else if c.result.isSome || s.entered c then (s, .done rcOk [0])
    else ((s.finishLong c.tag rcCancelled []).abandon c, .done rcOk [1])

def execCancel (l : KDie) (c : Chan) (s : State) : Out := .next (s.mci l c 0x03 State.runCancel)

/-! Jobs. -/

/-- JOB_LOAD. STRM_OVR without debug authorization is DENIED before the graph is read (R58). Until the group holds Thyme lock the
load is outstanding (R318). -/
def State.runJobLoad (plan : LoadPlan) (s : State) (req : List Word) (tag : Nat) : State × Mci :=
  if (req.getD 12 0).getLsbD 16 && !s.flag 18 .DBG_AUTH_STATUS_HELD then (s, .done rcDenied [])
  else if !plan.groupLock then (s, .accept rcPending none)
  else
    let (s, r) := s.load req plan tag
    (s, .accept rcPending r)

/-- A load that waited for group lock goes on. -/
def State.resumeLoad (s : State) (l c : Nat) (plan : LoadPlan) : State :=
  match s.longs.find? fun x => x.opcode = 0x10 ∧ x.link = l ∧ x.chan = c ∧ x.result.isNone with
  | some x =>
    if plan.groupLock && s.job.isNone then
      match s.load x.args plan x.tag with
      | (s, some (code, ws)) => s.finishLong x.tag code ws
      | (s, none) => s
    else s
  | none => s

/-- A channel's request has not been answered: it is FULL or taken. -/
def State.unanswered (s : State) (l c op : Nat) : Bool :=
  bits ((s.chan l c).req.getD 0 0) 15 0 == op && (s.getF (linkDie l) (.MBX_STAT_STATE c) == 1 || (s.chan l c).taken)

def execJobLoad (l : KDie) (c : Chan) (plan : LoadPlan) (s : State) : Out :=
  .next (if s.unanswered l c 0x10 then s.mci l c 0x10 (State.runJobLoad plan) else s.resumeLoad l c plan)

/-- JOB_START. -/
def State.runJobStart (s : State) (req : List Word) (_ : Nat) : State × Mci :=
  match s.job with
  | none => (s, .done rcNoJob [])
  | some j =>
    let first := argW req 1
    if j.running then (s, .done rcBusy [])
    else match j.lastDone with
    | some x => if first ≠ x + 1 then (s, .done rcBadArg []) else (s.beginAt j first, .done rcOk [])
    | none => (s.beginAt { j with s0 := first } first, .done rcOk [])

def execJobStart (l : KDie) (c : Chan) (s : State) : Out := .next (s.mci l c 0x11 State.runJobStart)

/-- JOB_END. -/
def State.runJobEnd (s : State) (req : List Word) (_ : Nat) : State × Mci :=
  match s.job with
  | none => (s, .done rcNoJob [])
  | some j =>
    if bit (req.getD 1 0) 0 && j.running && s.edge.boundary ≠ some 0 then
      ({ s with job := some { j with endReq := .finish } }, .accept rcPending none)
    else
      let s := (s.finishOps [0x12] rcOk [j.lastWord]).cancelWork
      (s.endJob, .accept rcPending (some (rcOk, [j.lastWord])))

def execJobEnd (l : KDie) (c : Chan) (s : State) : Out := .next (s.mci l c 0x12 State.runJobEnd)

/-- JOB_STATUS. -/
def State.runJobStatus (s : State) (_ : List Word) (_ : Nat) : State × Mci :=
  match s.job with
  | none => (s, .done rcNoJob [])
  | some j =>
    (s, .done rcOk [BitVec.ofNat 32 j.step, BitVec.ofNat 32 j.phase, s.reg 0 Reg.FNL_EPOCH,
      crc32 (Store.get [] s.gov.vectors j.step), BitVec.ofNat 32 j.dropped, s.reg 0 Reg.GLB_SCHED_VAR])

def execJobStatus (l : KDie) (c : Chan) (s : State) : Out := .next (s.mci l c 0x13 State.runJobStatus)

/-- What a RESHARD names: the cut, and the fabric map where it names one. -/
def State.reshardArgs (s : State) (j : Job) (req : List Word) : State × Except Nat (List Byte × List Byte) :=
  match s.readArg (argDpa req 1) 64 with
  | (s, .error c) => (s, .error c)
  | (s, .ok cb) =>
    let cut := parseCut cb
    if !cutLegal cut j.graph.nblock then (s, .error rcBadArg)
    else match (if argDpa req 3 = 0 then (s, .ok []) else s.readArg (argDpa req 3) (16 + 80 * cut.group)) with
    | (s, .error c) => (s, .error c)
    | (s, .ok fb) => if !fabricLegal (if fb.isEmpty then j.fabric else fb) cut.group then (s, .error rcBadArg) else (s, .ok (cb, fb))

/-- RESHARD (R334): accepted with EPOCH_FENCE_WAIT while a reduction of the epoch is in flight. -/
def State.runReshard (s : State) (req : List Word) (tag : Nat) : State × Mci :=
  match s.job with
  | none => (s, .done rcNoJob [])
  | some j =>
    match s.reshardArgs j req with
    | (s, .error c) => (s, .accept rcPending (some (c, [])))
    | (s, .ok (cb, fb)) =>
      let s := { s with edge := { s.edge with reshard := some { tag := tag, cut := cb, fabric := fb } } }
      (s.showFence, .accept (if s.fenceClear then rcPending else rcFenceWait) none)

def execReshard (l : KDie) (c : Chan) (s : State) : Out := .next (s.mci l c 0x14 State.runReshard)

/-- DATA_APPEND (R274, R275). Where it covers the step that waits to start, the step-start barrier's timeout counts from now. -/
def State.runDataAppend (s : State) (req : List Word) (_ : Nat) : State × Mci :=
  match s.job with
  | none => (s, .done rcNoJob [])
  | some j =>
    let n := argW req 3
    if 1048576 < j.descs.length + n then (s, .done rcNoResource [0, BitVec.ofNat 32 (1048576 - j.descs.length)])
    else match s.readArg (argDpa req 1) (32 * n) with
    | (s, .error c) => (s, .done c [])
    | (s, .ok b) =>
      let es := chunks 32 n b
      let after := if j.covered = 0 ∧ j.descs.isEmpty ∧ j.lastDone.isNone then none else some j.covered
      if 0 < n ∧ fld (es.headD []) 0 4 ≠ argW req 4 then (s, .done rcBadArg [0, 0])
      else match addDescs j.descs (j.cut.dp * j.cut.mb) after es with
      | .error (c, ws) => (s, .done c ws)
      | .ok all =>
        let cov := lastCovered all j.covered
        let k := { j with descs := all, covered := cov }
        let late := s.edge.boundary = some 0 ∧ !j.stepCovered j.step ∧ k.stepCovered j.step
        let start (b : Barrier) : Barrier := if b.id = barStart ∧ late then { b with since := s.now } else b
        ({ s with job := some k, barriers := s.barriers.map start }, .done rcOk [BitVec.ofNat 32 cov])

def execDataAppend (l : KDie) (c : Chan) (s : State) : Out := .next (s.mci l c 0x15 State.runDataAppend)

/-! Sage (R141-R145) and the freeze table (R229). -/

/-- A change of the rule set becomes tentative; while a reduction carries the tentative set, a further change is BUSY (log 44). -/
def State.proposeRules (s : State) (req : List Word) : State × Mci :=
  if s.gov.tentIn then (s, .done rcBusy [])
  else ({ s with gov := { s.gov with tent := some (applyChange (s.gov.tent.getD s.gov.rules) req) } }, .accept rcPending none)

/-- SAGE_PIN (R144). -/
def State.runSagePin (s : State) (req : List Word) (_ : Nat) : State × Mci :=
  match s.job with
  | none => (s, .done rcNoJob [])
  | some j =>
    let w := req.getD 1 0
    match j.graph.layers.find? fun r => r.layer = bits w 19 0 with
    | none => (s, .done rcBadArg [])
    | some r =>
      if bits w 22 20 < r.floor ∨ r.ceil < bits w 22 20 then (s, .done rcBadArg [])
      else if 1024 < (applyChange (s.gov.tent.getD s.gov.rules) req).pins.length then (s, .done rcNoResource [])
      else s.proposeRules req

def execSagePin (l : KDie) (c : Chan) (s : State) : Out := .next (s.mci l c 0x20 State.runSagePin)

/-- SAGE_UNPIN (R145). -/
def State.runSageUnpin (s : State) (req : List Word) (_ : Nat) : State × Mci :=
  match s.job with
  | none => (s, .done rcNoJob [])
  | some j =>
    if !(j.graph.layers.any fun r => r.layer = bits (req.getD 1 0) 19 0) then (s, .done rcBadArg []) else s.proposeRules req

def execSageUnpin (l : KDie) (c : Chan) (s : State) : Out := .next (s.mci l c 0x21 State.runSageUnpin)

/-- SAGE_SET_RULES. -/
def State.runSageSetRules (s : State) (req : List Word) (_ : Nat) : State × Mci :=
  if !imagesLegal req then (s, .done rcBadArg []) else s.proposeRules req

def execSageSetRules (l : KDie) (c : Chan) (s : State) : Out := .next (s.mci l c 0x22 State.runSageSetRules)

/-- FREEZE_SET (R227, R229): the tentative table is the last one proposed. -/
def State.runFreezeSet (s : State) (req : List Word) (_ : Nat) : State × Mci :=
  match s.job with
  | none => (s, .done rcNoJob [])
  | some j =>
    if 64 < argW req 3 then (s, .done rcBadArg [])
    else if s.gov.freezeIn then (s, .done rcBusy [])
    else match s.freezeArg j req with
    | (s, .error c) => (s, .accept rcPending (some (c, [])))
    | (s, .ok f) => ({ s with gov := { s.gov with freezeTent := some f } }, .accept rcPending none)

def execFreezeSet (l : KDie) (c : Chan) (s : State) : Out := .next (s.mci l c 0x23 State.runFreezeSet)

/-! CKPT_SAVE (R393). -/

/-- The images of a DRAM checkpoint at offset O lie in the placer area of every die. -/
def State.ckptFits (s : State) (j : Job) (o step : Nat) : Bool :=
  decide (o + 0x1000 ≤ s.placerTop) && computeDies.all fun d =>
    let im := (s.image j d step).2
    decide (o + 0x1000 + im.1.length + im.2.length ≤ s.placerTop)

/-- A storage descriptor without a nonzero reserved bit (Table 13.12). -/
def storeLegal (b : List Byte) : Bool := fldBits b 16 1 7 2 == 0 && fld b 17 47 == 0

/-- CKPT_SAVE: written at the boundary after the step, once the state that it holds is known (R147); at once where a replay has left the
job there (log 101). -/
def State.runCkptSave (s : State) (req : List Word) (tag : Nat) : State × Mci :=
  match s.job with
  | none => (s, .done rcNoJob [])
  | some j =>
    let eth := bit (req.getD 1 0) 0
    let a := argDpa req 2
    let step := argW req 4
    let atEnd := match j.lastDone with | some x => x == step && (!j.running || s.edge.boundary == some 0) | none => false
    let past := step != 0xFFFFFFFF && match j.lastDone with | some x => decide (step < x) || (step == x && !atEnd) | none => false
    let bad := past || (if eth then !s.hostRange false a 64 || !storeLegal (s.bytes a 64)
      else dpaSpace a != 0 || !s.hostRange true a 256 || !s.ckptFits j (a % 2 ^ 44) step)
    if bad then (s, .done rcBadArg [])
    else
      let c : CkptReq := { tag := tag, eth := eth, dpa := a, step := step, written := false }
      let s := { s with edge := { s.edge with ckpt := some c } }
      if !atEnd || j.running then (s, .accept rcPending none)
      else if eth then ((s.writeCkpt c step).pumpXfers, .accept rcPending none)
      else (s.writeCkpt c step, .accept rcPending (some (rcOk, [BitVec.ofNat 32 (dpaLo a), BitVec.ofNat 32 (dpaHi a), BitVec.ofNat 32 step])))

def execCkptSave (l : KDie) (c : Chan) (s : State) : Out := .next (s.mci l c 0x30 State.runCkptSave)

/-! DMA (R366). -/

/-- A well-formed descriptor (Table 12.8) over a mapped range. -/
def State.dmaDescOk (s : State) (b : List Byte) : Bool :=
  let n := fld b 16 4
  fld b 0 8 % 4 == 0 && fldBits b 8 8 63 52 == 0 && decide (4 ≤ n ∧ n ≤ 2 ^ 30) && n % 4 == 0 && fldBits b 20 1 7 1 == 0 && fld b 21 11 == 0 &&
    s.dmaRange (fldBits b 20 1 0 0 == 1) (fldBits b 8 8 51 0) n

/-- One descriptor moves its data: the host's bytes to the device, or the device's to the host. Whether it succeeded. -/
def State.dmaMove (s : State) (b : List Byte) (host : List Byte) : State × Bool :=
  let n := fld b 16 4; let a := fldBits b 8 8 51 0
  if fldBits b 20 1 0 0 = 1 then s.dmaWrite a (slice host 0 n)
  else match s.dmaRead a n with
    | (s, true, bs) => ({ s with edge := { s.edge with hostMem := s.edge.hostMem ++ [(fld b 0 8, bs)] } }, true)
    | (s, false, _) => (s, false)

/-- The descriptors in list order, and which of them failed. -/
def State.dmaRun (s : State) : Nat → List (List Byte) → List (List Byte) → State × List Nat
  | _, [], _ => (s, [])
  | i, b :: t, hs =>
    let toDev := fldBits b 20 1 0 0 = 1
    let (s, ok) := s.dmaMove b (if toDev then hs.headD [] else [])
    let (s, bad) := s.dmaRun (i + 1) t (if toDev then hs.tail else hs)
    (s, if ok then bad else i :: bad)

/-- DMA: `descs` is the list as firmware reads it from the host, `hostData` the host's bytes of each descriptor towards the device. -/
def State.runDma (descs : List Byte) (hostData : List (List Byte)) (s : State) (req : List Word) (_ : Nat) : State × Mci :=
  let n := argW req 3
  if n = 0 ∨ 4096 < n then (s, .done rcBadArg [])
  else
    let ds := chunks 32 n descs
    match ds.findIdx? fun b => !s.dmaDescOk b with
    | some i => (s, .accept rcPending (some (rcDescBad, [0, BitVec.ofNat 32 i])))
    | none =>
      let (s, bad) := s.dmaRun 0 ds hostData
      (s, .accept rcPending (some (if bad.isEmpty then (rcOk, [BitVec.ofNat 32 n]) else (rcPartial, (partBitmap n bad).map (BitVec.ofNat 32)))))

def execDma (l : KDie) (c : Chan) (descs : List Byte) (hostData : List (List Byte)) (s : State) : Out :=
  .next (s.mci l c 0x40 (State.runDma descs hostData))

/-! REPLAY_STEP and JRN_READ (R388, R390, R391). -/

/-- REPLAY_STEP. -/
def State.runReplayStep (s : State) (req : List Word) (tag : Nat) : State × Mci :=
  match s.job with
  | none => (s, .done rcNoJob [])
  | some j =>
    let step := argW req 1
    if j.running ∨ (j.started ∧ !j.atBoundary) then (s, .done rcBusy [])
    else match s.readArg (argDpa req 2) 256 with
    | (s, .error c) => (s, .accept rcPending (some (c, [])))
    | (s, .ok ref) =>
      let s0 := fld ref 4 4
      if !refValid ref j.seed j.graph.crc ∨ step < s0 + 1 then (s, .accept rcPending (some (rcBadArg, [])))
      else if (List.range (step - s0)).any fun i => (s.journalRecord (s0 + 1 + i) j.graph.layers.length).isNone then
        (s, .accept rcPending (some (rcNoRecord, [])))
      else if fldBits ref 2 2 1 1 = 1 then
        ({ s with edge := { s.edge with xfers := s.edge.xfers ++ restoreXfers tag ref s.now } }.pumpXfers, .accept rcPending none)
      else
        let s := s.restoreDram j ref
        (s.beginReplay (s.job.getD j) req s0 tag, .accept rcPending none)

/-- A replay whose images have all arrived begins. -/
def State.resumeReplay (s : State) (l c : Nat) : State :=
  match s.longs.find? fun x => x.opcode = 0x50 ∧ x.link = l ∧ x.chan = c ∧ x.result.isNone with
  | some x =>
    if s.edge.replay.isSome || s.edge.xfers.any fun y => y.tag = x.tag then s
    else match s.job, s.readArg (argDpa x.args 2) 256 with
    | some j, (s, .ok ref) => s.beginReplay j x.args (fld ref 4 4) x.tag
    | _, _ => s.finishLong x.tag rcFault []
  | none => s

def execReplayStep (l : KDie) (c : Chan) (s : State) : Out :=
  .next (if s.unanswered l c 0x50 then s.mci l c 0x50 State.runReplayStep else s.resumeReplay l c)

/-- The record of a step that a reader without a job finds: format, VALID and step number hold. -/
def State.anyRecord (s : State) (step : Nat) : Option (List Byte) :=
  match s.job with
  | some j => s.journalRecord step j.graph.layers.length
  | none => (s.recordBytes step).filter fun b => fld b 0 2 == 1 && fldBits b 2 2 0 0 == 1 && fld b 4 4 == step

/-- JRN_READ. -/
def State.runJrnRead (s : State) (req : List Word) (_ : Nat) : State × Mci :=
  let a := argDpa req 2
  let s := s.readRecord (argW req 1)
  match s.anyRecord (argW req 1) with
  | none => (s, .done rcNoRecord [])
  | some b =>
    if !s.hostRange true a 0x10000 then (s, .done rcBadArg [])
    else match s.requestWrite a b with
    | (s, true) => (s, .done rcOk [0x10000#32])
    | (s, false) => (s, .done rcDenied [])

def execJrnRead (l : KDie) (c : Chan) (s : State) : Out := .next (s.mci l c 0x51 State.runJrnRead)

end Sys2Proof.Machine
end

