-- ==== Sys2Proof/Machine/PowerOps.lean ====
section
/-! DEFINITION. The power cap loop, the frequency slew, energy attribution, droop holds, and the pins that firmware drives
from the module's state (R413-R425, R448). -/

namespace Sys2Proof.Machine

def State.setPower (s : State) (f : Power → Power) : State := { s with edge := { s.edge with power := f s.edge.power } }

/-! The power cap loop (R419-R421). -/

/-- What an iteration of R420 decides: f in 10 MHz units and duty. -/
structure Loop where
  f : Nat
  duty : Nat
  deriving DecidableEq, Repr

/-- The iteration of R420, given the limit in force, the power, FMIN, FMAX, GAIN, HEADROOM and UPMAX. -/
def Loop.next (x : Loop) (lim p : Int) (fmin fmax gain headroom upmax : Nat) : Loop :=
  if lim < p then
    if fmin < x.f then { x with f := (max (fmin : Int) (x.f - (p - lim + gain - 1) / gain)).toNat }
    else { x with duty := max 1 (x.duty - 1) }
  else if p < lim - headroom then
    if x.duty < 16 then { x with duty := x.duty + 1 }
    else { x with f := min fmax (x.f + min upmax ((lim - headroom - p) / gain).toNat) }
  else x

/-- A die's TEMP is at or above its WARN. -/
def State.isWarm (s : State) (d : Nat) : Bool := s.getF d .PWR_THERM_WARN ≤ s.getF d .PWR_THERM_TEMP

/-- A die is at or above its WARN (R422). -/
def State.anyWarm (s : State) : Bool := allDies.any s.isWarm

/-! Status lands (R400, R447, R448). -/

/-- POR, MODRST or THERM holds the module, or MGT has not set since. -/
def State.landsHeld (s : State) : Bool := !s.flag 18 .GLB_FUNC_READY_MGT

/-- THERM_N is low. -/
def State.thermN (s : State) : Bool := s.edge.pins.therm || (!s.landsHeld && s.anyWarm)

/-- FAULT_N is low. -/
def State.faultN (s : State) : Bool :=
  if s.landsHeld then s.edge.pins.therm else s.edge.pins.fault || !s.lostDies.isEmpty

/-- READY is high. -/
def State.readyLand (s : State) : Bool :=
  let w := s.reg 18 Reg.GLB_FUNC_READY
  !s.landsHeld && [1, 4, 5, 6].all (fun i => w.getLsbD i) && (w.getLsbD 2 || w.getLsbD 3) &&
    (computeDies.all fun d => s.lostDies.contains d || w.getLsbD (16 + d)) &&
    (linkDies.all fun d => s.lostDies.contains d || w.getLsbD (d - 8))

/-- The first whole microsecond at or after a time. -/
def wholeUs (t : Nat) : Nat := cdiv t 1000 * 1000

/-- A new frequency is announced for a time at least 2 µs on, or 25 µs for an increase (R419). -/
def State.announce (s : State) (f : Nat) : State :=
  let old := s.getF 18 .PWR_STATUS_FREQ
  if f = old then s
  else
    let t := wholeUs (s.now + if old < f then 25000 else 2000)
    (s.setF 18 .PWR_STATUS_FREQ f).setPower fun x => { x with target := f, at_ := t }

/-- The duty in force, or that the next tick puts into force. -/
def State.dutyNow (s : State) : Nat := s.edge.power.duty.getD (s.getF 18 .PWR_STATUS_DUTY + 1)

/-- A duty applies at the start of the next tick (R420); without a running job there is none, and it applies at once. -/
def State.takeDuty (s : State) (v : Nat) : State :=
  if match s.job with | some j => j.running | none => false then s.setPower fun x => { x with duty := some v }
  else (s.setF 18 .PWR_STATUS_DUTY (v - 1)).setPower fun x => { x with duty := none }

/-- The module's input power in watts over the last 100 µs (R420). -/
def State.inputPower (s : State) : Nat := ((s.ctr 18 Reg.PWR_STACK_ENERGY_LO).toNat - s.edge.power.base) / 100

/-- One iteration of the loop, with its flags (PWR_STATUS). -/
def State.powerIteration (s : State) : State :=
  let p := s.inputPower
  let cap := s.getF 18 .PWR_CAP_WATTS
  let gain := s.getF 18 .PWR_LOOP_CFG_GAIN
  let lim : Int := if s.anyWarm then min (cap : Int) (p - gain) else cap
  let fmin := s.getF 18 .PWR_FREQ_FMIN; let fmax := s.getF 18 .PWR_FREQ_FMAX
  let x : Loop := { f := s.getF 18 .PWR_STATUS_FREQ, duty := s.dutyNow }
  let y := x.next lim p fmin fmax gain (s.getF 18 .PWR_LOOP_CFG_HEADROOM) (s.getF 18 .PWR_LOOP_CFG_UPMAX)
  let hot := s.anyWarm
  let s := s.setPower fun z => { z with base := (s.ctr 18 Reg.PWR_STACK_ENERGY_LO).toNat }
  let s := if y.duty = x.duty then s else s.takeDuty y.duty
  let s := ((s.announce y.f).setF 18 .PWR_STATUS_POWER (min p 65535)).setF 18 .PWR_STATUS_THERM hot.toNat
  let s := s.setF 18 .PWR_STATUS_CAPPED (decide (y.f < fmax ∧ y.f ≤ x.f)).toNat
  s.setF 18 .PWR_STATUS_FLOOR (decide (y.f ≤ fmin ∧ cap < p)).toNat

/-- From the announced time every compute die moves by one 10 MHz step every 200 ns (R419). -/
def State.slewStep (s : State) : State :=
  let x := s.edge.power
  if x.freq = x.target then s
  else
    let s := s.advanceTo x.at_
    let f := if x.freq < x.target then x.freq + 1 else x.freq - 1
    (s.setFs computeDies .CLK_STATUS_FREQ (f * 10)).setPower fun y => { y with freq := f, at_ := s.now + 200 }

/-! Energy (R423, R425). -/

/-- A sample's microjoules are counted. The control dies show one PWR_IN_ENERGY, which the active die's samples advance
(log 52). -/
def State.countEnergy (s : State) (d rail stack input : Nat) : State :=
  let s := s.count d Reg.PWR_ENERGY_LO rail
  if d < 16 then s.count d Reg.PWR_STACK_ENERGY_LO stack
  else if d = s.activeK then s.count d Reg.PWR_STACK_ENERGY_LO input
  else s

/-- A sample joins its die's window (R425): its energy, and the weighted activity of each layer (layer, kind, amount). -/
def EnergyLog.sample (e : EnergyLog) (d amount : Nat) (activity : List (Nat × Nat × Nat)) : EnergyLog :=
  let w := Store.get EWin.fresh e.wins d
  let shares := activity.foldl (fun m x => Store.set 0 m x.1 (Store.get 0 m x.1 + Config.energyWeight d x.2.1 * x.2.2)) w.shares
  let w : EWin := { n := w.n + 1, amount := w.amount + amount, shares := shares }
  let e := { e with wins := Store.set EWin.fresh e.wins d w }
  if 10 ≤ w.n then e.closeWin d else e

/-! Droop (R417, R418). -/

/-- A detector trips: with stretching enabled an episode starts, else the feeders hold at once (CLK_STRETCH_CFG.EN). -/
def State.tripDroop (s : State) (d : Nat) : State :=
  if s.flag d .CLK_STRETCH_CFG_EN then
    (if s.flag d .CLK_STATUS_STRETCH then s else (s.setF d .CLK_STATUS_STRETCH 1).count d (dieCtr 5) 1)
  else s.setF d .CLK_STATUS_FSTALL 1

end Sys2Proof.Machine
end

