-- ==== Sys2Proof/Machine/Power.lean ====
section
/-! DEFINITION. The rows of clocks, Thyme within the module, power, temperature and energy (R413-R425), the stacks' events
(R243, R368), and the failures of a host link and a link die (R344, R312). -/

namespace Sys2Proof.Machine

/-- POWER_CAP (Table 12.7): the cap takes effect at the next iteration (R421); the answer is PWR_CAP. -/
def State.setCap (s : State) (w : Nat) : State × Nat :=
  if w < 1500 ∨ 6000 < w then (s, rcBadArg) else (s.setF 18 .PWR_CAP_WATTS w, rcOk)

/-- POWER_CAP. -/
def State.runPowerCap (s : State) (req : List Word) (_ : Nat) : State × Mci :=
  let (s, code) := s.setCap (bits (req.getD 1 0) 12 0)
  (s, .done code (if code = rcOk then [s.reg 18 Reg.PWR_CAP] else []))

def execPowerCap (l : KDie) (c : Chan) (s : State) : Out := .next (s.mci l c 0x70 State.runPowerCap)

/-- POWER_CAP_ITERATION (R420). -/
def execPowerCapIteration (s : State) : Out := .next s.powerIteration

/-- FREQ_SLEW_STEP (R419). -/
def execFreqSlewStep (s : State) : Out := .next s.slewStep

/-- ENERGY_SAMPLE (R423, R425): a die's rails, its stack, the module's input, in microjoules; the die's activity is attributed. -/
def execEnergySample (d : Die) (rail stack input : Nat) (activity : List (Nat × Nat × Nat)) (s : State) : Out :=
  .next <|
    let s := s.countEnergy d rail stack input
    if d.val < 16 then s.setEdge fun e => { e with energy := e.energy.sample d (rail + stack) activity } else s

/-- REFCLK_SWITCH (R413): REFCLK0 is gone, and every reference PLL holds over; `finished`: they run from REFCLK1. -/
def execRefclkSwitch (finished : Bool) (s : State) : Out :=
  .next (if finished then (s.setFs allDies .TMB_STATUS_HOLDOVER 0).setFs allDies .TMB_STATUS_REFSEL 1
    else s.setFs allDies .TMB_STATUS_HOLDOVER 1)

/-- A present die's copy is not LOCKED. -/
def State.anyUnlocked (s : State) : Bool := allDies.any fun d => !s.dieGone d && !s.flag d .TMB_STATUS_LOCKED

/-- A copy that departs by more than 8 ns loses its lock, and relocks (R415). -/
def State.dropLock (s : State) (d : Nat) : State :=
  let s := (s.setF d .TMB_STATUS_LOCKED 0).setF d .TMB_NOW_HI_UNLOCKED 1
  (s.setEdge fun e => { e with dieSamples := Store.set 0 e.dieSamples d 0 }).setReadyBit 6 false

/-- A sync word reaches a die copy: `drift` ns from the master (R415). -/
def State.syncWord (s : State) (d : Nat) (drift : Int) : State :=
  let locked := s.flag d .TMB_STATUS_LOCKED
  if locked && decide (8 < drift.natAbs) then s.dropLock d
  else
    let n := if drift.natAbs ≤ 2 then Store.get 0 s.edge.dieSamples d + 1 else 0
    let s := s.setEdge fun e => { e with dieSamples := Store.set 0 e.dieSamples d (min n 64) }
    let s := s.setF d .TMB_STATUS_SLEW (lowBits 16 (slewOf (-(drift * 16)) s.now))
    if 64 ≤ n ∧ !locked then
      let s := (s.setF d .TMB_STATUS_LOCKED 1).setF d .TMB_NOW_HI_UNLOCKED 0
      let s := if d = s.activeK then s.setF d .TMB_STATUS_MASTER 1 else s
      if s.anyUnlocked then s else s.setReadyBit 6 true
    else s

/-- THYME_SYNC_WORD (R415): a die's copy against the master's time; the die of the master has none to follow. -/
def execThymeSyncWord (d : Die) (drift : Int) (s : State) : Out :=
  .next <|
    let early := match s.edge.release with | some r => decide (r.step < 5) | none => false
    if s.flag d .TMB_STATUS_MASTER || s.dieGone d || early then s else s.syncWord d drift

/-- DROOP_TRIP (R417, R418). -/
def execDroopTrip (d : CDie) (deep : Bool) (s : State) : Out := .next (let _ := deep; s.tripDroop d)

/-- STRETCH_EPISODE_END (R418): at most MAXCYC cycles on; a detector that is still tripped holds the feeders. -/
def execStretchEpisodeEnd (d : CDie) (stillTripped : Bool) (s : State) : Out :=
  .next <|
    if s.flag d .CLK_STATUS_STRETCH then
      let s := s.setF d .CLK_STATUS_STRETCH 0
      if stillTripped then s.setF d .CLK_STATUS_FSTALL 1 else s
    else s

/-- DROOP_CLEAR (R418). -/
def execDroopClear (d : CDie) (s : State) : Out := .next (s.setF d .CLK_STATUS_FSTALL 0)

/-- TEMPERATURE_WARN_CROSSING (R422): the hottest sensor of a die; THERM_N follows from TEMP and WARN. -/
def execTemperatureWarnCrossing (d : Die) (temp : Byte) (s : State) : Out := .next (s.setF d .PWR_THERM_TEMP temp.toNat)

/-- STACK_HOT (R243). -/
def execStackHot (d : CDie) (hot : Bool) (s : State) : Out := .next (s.setF d .MEM_STATUS_HOT hot.toNat)

/-- STACK_LOSS (R368): a probe of the stack's die is sent; the stack is out of service. -/
def execStackLoss (d : CDie) (s : State) : Out :=
  .next <|
    if s.dieGone d then s
    else
      let s := s.setF d .MEM_STATUS_READY 0
      let s := s.setReady (setBits (s.reg 18 Reg.GLB_FUNC_READY) (16 + d) (16 + d) 0) (setBits (s.reg 18 Reg.GLB_FUNC_READY_HI) d d 0)
      s.setEdge fun e => { e with probes := if e.probes.contains d.val then e.probes else e.probes ++ [d.val] }

/-- HOST_LINK_ERROR (R344): AER reports it, with vector 33 of the link. -/
def execHostLinkError (l : KDie) (s : State) : Out := .next (s.reportAer l 2)

/-- LINK_DIE_FAILURE (R312, Table 13.1): every port of the die hands over to its twin. -/
def execLinkDieFailure (l : LDie) (s : State) : Out :=
  .next <|
    let d := 16 + l.val
    if s.dieGone d then s
    else
      let s := (List.range 8).foldl (fun s k =>
        let pt := l.val * 8 + k
        if s.portUp pt then (s.handover pt).setPortState pt 4 else s) s
      let s := { s with lostDies := s.lostDies ++ [d] }.ownFault 0x0C d 0 0 0 0 2
      s.setReadyBit (d - 8) false

end Sys2Proof.Machine
end

