-- ==== Sys2Proof/Machine/LossOps.lean ====
section
/-! DEFINITION. What the loss of a die, of a bridge and of a control die does, and the abort of a step (R232, R368-R378,
R381-R383). -/

namespace Sys2Proof.Machine

/-! Bridges (R16, R19, R368, R369). -/

/-- The columns of the losses so far: lost compute dies and lost bridges, which `detours` lists as 32 + bridge. -/
def State.lossColumns (s : State) : List Nat :=
  ((s.lostDies.filter (· < 16)).map (· % 8)) ++ ((s.detours.filter (32 ≤ ·)).map fun b => bridgeEnd (b - 32) % 8)

/-- A second loss in one column loses the module (R369). -/
def State.checkColumn (s : State) (c : Nat) : State :=
  if 2 ≤ (s.lossColumns.filter (· = c)).length then s.loseModule s.modIx else s

/-- A compute die is unreachable by every route (R368). -/
def State.cutOff (s : State) (d : Nat) : Bool :=
  (allDies.filter fun a => a ≠ d ∧ !s.lostDies.contains a).all fun a => (s.route a d).isNone

def State.probe (s : State) (d : Nat) : State :=
  if s.edge.probes.contains d || s.lostDies.contains d then s else s.setEdge fun e => { e with probes := e.probes ++ [d] }

/-- A bridge is lost (Table 13.1, 0x09): routes detour (R369), a die that no route reaches is probed. -/
def State.loseBridge (s : State) (b : Nat) : State :=
  if s.detours.contains (32 + b) then s
  else
    let s := { s with detours := s.detours ++ [32 + b] }.ownFault 0x09 (bridgeEnd b) (bridgePort b * 64) 0 0 0 2
    let s := computeDies.foldl (fun s d => if s.cutOff d then s.probe d else s) s
    s.checkColumn (bridgeEnd b % 8)

/-- Spare wires carry up to four failed wires of a group; a fifth retires it (R19, Table 13.1, 0x08). -/
def State.failWire (s : State) (b : Nat) (dir : Bool) (g w : Nat) : State :=
  let k := b * 128 + dir.toNat * 64 + g
  let failed := Store.get [] s.wires k
  if s.retired.contains k || failed.contains w then s
  else
    let s := { s with wires := Store.set [] s.wires k (failed ++ [w]) }
    if failed.length < 4 then s.ownFault 0x08 (bridgeEnd b) (bridgePort b * 64 + g) 0 0 0 0
    else
      let s := { s with retired := s.retired ++ [k] }.ownFault 0x08 (bridgeEnd b) (bridgePort b * 64 + g) 0 0 0 2
      if (List.range 64).all fun g => s.retired.contains (b * 128 + dir.toNat * 64 + g) then s.loseBridge b else s

/-! The loss of a compute die (R232, R368, R376). -/

/-- A codeword of a lost die's unit as of its last commit: parity XOR the survivors' data and staged deltas; a parity unit is
formed from the current data (R232). -/
def State.lostCw (s : State) (f r o : Nat) : List Byte :=
  let pd := s.parityDie r
  let unit (d : Nat) : List Byte := s.view (dpa d 0 (s.parBase + r * 4096 + o)) 64
  let others := s.stripe.filter fun d => d ≠ pd ∧ d ≠ f
  if f = pd then others.foldl (fun a j => xorBytes a (unit j)) (List.replicate 64 0)
  else others.foldl (fun a j => xorBytes a (xorBytes (unit j) (s.view (s.stgAddr j r o) 64))) (unit pd)

/-- Whether it can be formed: the row is protected, or the unit is its parity, and every other codeword of the row gives data. -/
def State.lostReadable (s : State) (f r o : Nat) : Bool :=
  let pd := s.parityDie r
  (f == pd || !s.unprotected.contains r) && s.stripe.all fun j =>
    j == f || (s.readable (dpa j 0 (s.parBase + r * 4096 + o)) && !s.lostDies.contains j && (j == pd || s.readable (s.stgAddr j r o)))

/-- One codeword of a lost die is formed at its place in the placer area; one that cannot be is poison, and the double fault is shown
(R259). -/
def State.rebuildCw (s : State) (f r o at_ : Nat) : State :=
  let able := s.lostReadable f r o
  let s := s.snapshot f r o
  let s := s.poke (at_ + o) (s.lostCw f r o)
  if able then s.setDev (at_ + o) []
  else (s.setDev (at_ + o) codeDram.poison).setFs (s.stripe.filter fun j => !s.lostDies.contains j) .MEM_ERR_REBUILD_FAIL 1

/-- A lost die's protected rows are rebuilt into the survivors' placer areas, where they stay until the relayout; without room the module
is lost (R232, R261). A loss that touches an unprotected row sets MEM_ERR.REBUILD_FAIL, on every survivor (R259; log 110). -/
def State.rebuildDie (s : State) (f : Nat) : State :=
  if !s.stripe.contains f then s
  else
    let s := s.deltas.foldl (fun s x => s.deliver x) { s with deltas := [] }
    let alive := s.stripe.filter fun j => !s.lostDies.contains j
    let s := if s.unprotected.isEmpty then s else s.setFs alive .MEM_ERR_REBUILD_FAIL 1
    let rows := List.range (s.parBlocks * s.stripe.length)
    let room := rows.all fun r => (s.rescueAt f r).isSome
    let s := rows.foldl (fun s r =>
      match s.rescueAt f r with
      | some a => (List.range 64).foldl (fun s i => s.rebuildCw f r (64 * i) a) s
      | none => s) s
    let s := rows.foldl (fun s r =>
      let a := s.stgAddr f r 0
      { s with mem := Store.clear s.mem a (a + 4096), ecc := Store.clear s.ecc a (a + 4096) }) s
    let s := { s with parts := s.parts.filter fun x => x.1 / 16 ≠ f ∧ x.1 % 16 ≠ f }
    if room then s else s.loseModule s.modIx

/-- A compute die is lost (R368): its work is gone, its state is rebuilt, the module's units are skipped (R370), and its share of
the exchange buffers is lost before the update phase. -/
def State.loseDie (s : State) (d : Nat) : State :=
  if s.lostDies.contains d then s
  else
    let ds := s.phaseDrops 0x11 ++ match s.job with
      | some j => if s.replaying ∨ s.dropsClosed j ∨ s.edge.boundary = some 0 then [] else j.lossDrops s.modIx 0x11 s.faultIndex
      | none => []
    let leave (b : Barrier) : Barrier := { b with arrived := b.arrived.filter fun a => a.1 / 272 ≠ d }
    let s := { s with
      lostDies := s.lostDies ++ [d],
      sprigs := s.sprigs.filter fun x => x.1 / 272 ≠ d,
      engines := s.engines.filter fun x => x.1 / 8 ≠ d,
      acc := s.acc.filter fun x => x.1 / (272 * 4 * 8192) ≠ d,
      barriers := s.barriers.map leave }
    let s := (s.setWaits d []).setEdge fun e => { e with probes := e.probes.filter (· ≠ d) }
    let s := s.setReady (setBits (s.reg 18 Reg.GLB_FUNC_READY) (16 + d) (16 + d) 0)
      (setBits (s.reg 18 Reg.GLB_FUNC_READY_HI) d d 0)
    let s := (s.ownFault 0x11 d 0 ds.length 0 0 1).rebuildDie d
    (s.addDrops ds).checkColumn (d % 8)

/-! Control dies (R358, R378). -/

/-- A FULL request on a lost link is not executed (R358). -/
def State.dropRequests (s : State) (l : Nat) : State :=
  (List.range 24).foldl (fun s c =>
    if s.getF (linkDie l) (.MBX_STAT_STATE c) = 1 then
      (s.setChan l c { s.chan l c with req := [], taken := false }).setF (linkDie l) (.MBX_STAT_STATE c) 0
    else s) s

/-- A fault during a firmware activation stops its sequence, and the command completes with FAULT, or the
PLDM update ends (R379, R456). -/
def State.stopActivation (s : State) : State :=
  if s.edge.fw.stage = 0 then s
  else
    let s := if s.edge.fw.tag = 0 then s.setEdge fun e => { e with mgmt := { e.mgmt with update := 0, lastResult := 2 } }
      else s.finishLong s.edge.fw.tag rcFault []
    s.setEdge fun e => { e with fw := { e.fw with stage := 0, tag := 0 } }

/-- Completions that wait on the failed link's channel 24, the unacknowledged one first, go to that of the other link (R358). -/
def State.moveCompletions (s : State) (l : Nat) : State :=
  let ch := s.chan l 24
  let rest := (if ch.record.isEmpty then [] else [ch.record]) ++ ch.queue
  let s := s.setChan l 24 { ch with record := [], queue := [] }
  s.setChan (1 - l) 24 { s.chan (1 - l) 24 with queue := (s.chan (1 - l) 24).queue ++ rest }

/-- The twin takes over for a die that has failed (R378): its link is lost. Without a twin no takeover completes. -/
def State.takeOver (s : State) : State :=
  let s := s.stopActivation
  if s.flag 18 .GLB_FUNC_READY_TWIN then
    let l := s.activeK - 18
    let s := ((s.swapControl.dropRequests l).moveCompletions l).setReadyBit (2 + l) false
    let s := s.setEdge fun e => { e with ctl := { e.ctl with takeover := none, mirrorAt := s.now } }
    s.ownFault 0x18 (18 + l) 0 0 0 0 2
  else s.setEdge fun e => { e with ctl := { e.ctl with takeover := some s.now } }

/-! The abort of a step (R381-R383). -/

/-- What the abort of a step before its update phase clears: exchange buffers, the step's statistics, its drop list. -/
def State.restartStep (s : State) (j : Job) : State :=
  let drops := if s.flag 18 .JRN_STATUS_REPLAY then j.drops else []
  let s := (s.edge.fnl.reds.flatMap (·.bufs)).foldl (fun s b => s.writeRange b.1 (List.replicate b.2 0)) s
  let s := (s.setFnl fun f => { f with reds := [] }).clearBank j.step
  let s := { s with job := some { j with drops := drops, aborts := j.aborts + 1, phase := 3, fetching := false } }
  (s.setEdge fun e => { e with boundary := some 0, energy := { e.energy with aborted := true } }).reachStart

/-- An abort in the update phase: layers not committed go back, and the phase reruns (R382). -/
def State.rerunUpdate (s : State) (j : Job) : State :=
  let s := s.restoreUncommitted
  let s := { s with job := some { j with aborts := j.aborts + 1 } }
  let s := s.setEdge fun e => { e with rerun := true, energy := { e.energy with aborted := true } }
  if (s.findVariant (s.variantKey j j.step 3)).isSome then s.selectVariant j 3 false
  else
    let s : State := { s with job := s.job.map fun k => { k with phase := 2, fetching := false } }
    s.setEdge fun e => { e with boundary := some 3 }

/-- The journal record of the step counts the abort (R381). -/
def State.journalAbort (s : State) : State :=
  match s.journal with
  | some r => { s with journal := some { r with flags := r.flags ||| 2, aborts := r.aborts + 1 } }
  | none => s

/-- The abort at its target time; a third abort of one step loses the module at the head of the last hang chain, a repeated
DATA_CORRUPT the modules that differ from the root (R383). -/
def State.abortStep (s : State) (j : Job) (t : Nat) : State :=
  let s := (s.advanceTo t).setEdge fun e => { e with abortAt := none }
  let s := s.cancelWork.journalAbort.countK 5 1
  let j := s.job.getD j
  let s := if j.phase = 3 ∧ s.edge.boundary ≠ some 0 then s.rerunUpdate j else s.restartStep j
  let s := match s.edge.hangHead with | some m => if j.aborts = 2 then s.loseModule m else s | none => s
  (s.edge.suspects.foldl State.loseModule s).setEdge fun e => { e with suspects := [] }

end Sys2Proof.Machine
end

