-- ==== Sys2Proof/Machine/Recovery.lean ====
section
/-! DEFINITION. The rows of faults and recovery (R19, R358, R368-R385) and of the hitless firmware update (R379). -/

namespace Sys2Proof.Machine

/-- BRIDGE_WIRE_FAIL (R19). -/
def execBridgeWireFail (bridge : Fin 30) (dir : Bool) (group : Fin 64) (wire : Fin 128) (s : State) : Out :=
  .next (s.failWire bridge dir group wire)

/-- The requests of a sprig with a transaction to a die: the transfer of a DMA queue, a SEND of a command queue, or one that an engine
has taken: its command, its completion's SRC, and the state without it. -/
def State.lapsing (s : State) (d p q target : Nat) : Option (Nat × Nat × State) :=
  let x := s.spr d p
  let at_ (a : Nat) : Bool := dpaDie a == target
  match x.dma.find? fun r => r.q = 16 + q && (dmaSrcs r.entry.bytes ++ dmaDests r.entry.bytes).any fun y => at_ y.1 with
  | some r => some (r.entry.cmd, woEngine d 9, s.modSpr d p fun x => { x with dma := x.dma.filter fun y => y.q ≠ r.q })
  | none => match x.sends.find? fun y => y.q = q ∧ y.module = s.modIx ∧ y.qid / 2 ^ 14 = target with
  | some y => some (y.cmd, s.coreSrc d p y.q, s.modSpr d p fun x => { x with sends := x.sends.filter fun z => z.cmd ≠ y.cmd })
  | none => allEngines.findSome? fun e =>
      ((s.eng d e).accepted.find? fun r => r.p = p && r.dests.any fun y => at_ y.1).map fun r =>
        (r.cmd, r.producer d e, s.setEng d e { s.eng d e with accepted := (s.eng d e).accepted.erase r })

/-- DIE_TRANSACTION_TIMEOUT (Table 13.6): a request's transaction to a die lapses; it is retried once; a second lapse completes its
command with TIMEOUT and probes the die. -/
def execDieTransactionTimeout (d : CDie) (p : Phys) (q : Fin 16) (target : CDie) (s : State) : Out :=
  .next <|
    match s.lapsing d p q target with
    | none => s
    | some (cmd, src, gone) =>
      let key := ((d.val * 272 + p.val) * 16 + q.val, cmd)
      if s.edge.retried.contains key then
        let s := (gone.advanceTo (s.now + 100000)).setEdge fun e => { e with retried := e.retried.filter (· ≠ key) }
        (s.complete d p cmd rcTimeout src 0 []).probe target
      else (s.advanceTo (s.now + 100000)).setEdge fun e => { e with retried := e.retried ++ [key] }

/-- DIE_PROBE_TIMEOUT (R368): a probed die's supervisor has not answered for 1 ms. -/
def execDieProbeTimeout (d : CDie) (s : State) : Out :=
  .next (if s.edge.probes.contains d.val then (s.advanceTo (s.now + 1000000)).loseDie d else s)

/-- MODULE_LOST (R332, R377, R387): the module's loss; this module's units of its group go to the parity members, and the lost units and
LND-2400 shards that it can form are formed. -/
def execModuleLost (m : LostModule) (s : State) : Out :=
  .next <|
    let f := m.module.toNat
    if s.lostMods.contains f then s
    else match s.job with
    | none => s.loseModule f
    | some j =>
      let (s, mine) := if (j.groupOf j.modIx).any fun g => g.contains f then s.ownUnits j else (s, [])
      (((s.loseModule f).sendUnits unitRid (mine.filter fun x => x.1 ≠ f)).rebuildMember j f m.units).restoreShards j f m.shards

/-- MIRROR_HEARTBEAT (R378). -/
def execMirrorHeartbeat (s : State) : Out := .next (s.setEdge fun e => { e with ctl := { e.ctl with mirrorAt := s.now } })

/-- MIRROR_HEARTBEAT_TIMEOUT (R378): 100 µs without a mirror heartbeat. -/
def execMirrorHeartbeatTimeout (s : State) : Out := .next (s.advanceTo (s.edge.ctl.mirrorAt + 100000)).takeOver

/-- MAILBOX_ACCEPTED_TIMEOUT (R378): a channel has held a GO for 250 µs. -/
def execMailboxAcceptedTimeout (l : KDie) (c : Chan) (s : State) : Out :=
  .next (if c.val < 24 ∧ s.getF (linkDie l) (.MBX_STAT_STATE c) = 1 then (s.advanceTo ((s.chan l c).goAt + 250000)).takeOver else s)

/-- FAILOVER_TIMEOUT (Table 13.6): a takeover is not complete 200 µs after the failure: both control dies are silent, and the module is
lost (Table 13.1, 0x19). -/
def execFailoverTimeout (s : State) : Out :=
  .next <|
    match s.edge.ctl.takeover with
    | none => s
    | some t =>
      let s := (s.advanceTo (t + 100000)).setEdge fun e => { e with ctl := { e.ctl with takeover := none } }
      (s.ownFault 0x19 18 0 0 0 0 1).loseModule s.modIx

/-- STEP_TIMEOUT (Tables 13.1, 13.6): as a barrier timeout; GLB_STEP_TMO does not count a wait for coverage (R275). -/
def execStepTimeout (s : State) : Out :=
  .next <|
    match s.job with
    | none => s
    | some j => if s.frozen || !j.running || !j.started || (s.edge.boundary == some 0 && !j.stepCovered j.step) then s else ((s.ownFault 0x32 18 0 0 0 0 1).hangReport 0).requestAbort

/-- STEP_ABORT (R381-R383). -/
def execStepAbort (s : State) : Out :=
  .next <|
    match s.job, s.edge.abortAt with
    | some j, some t => if s.frozen || !j.running then s else s.abortStep j t
    | _, _ => s

/-! Firmware (R278, R379, R456). -/

/-- A PLDM update is in progress (R456). -/
def State.pldmBusy (s : State) : Bool := s.edge.mgmt.update ≠ 0

/-- An image that passes authentication and whose mirror-state format the running image reads. -/
def State.imageGood (s : State) (img : List Byte) : Bool :=
  Config.imageAuthentic img && Config.imageMirrorReadable s.edge.fw.version img

def State.setFw (s : State) (f : Firmware → Firmware) : State := s.setEdge fun e => { e with fw := f e.fw }

/-- FW_STAGE. -/
def State.runFwStage (s : State) (req : List Word) (_ : Nat) : State × Mci :=
  if s.pldmBusy then (s, .done rcBusy [])
  else match s.readArg (argDpa req 1) (argW req 3) with
  | (s, .error code) => if code = rcBadArg then (s, .done code []) else (s, .accept rcPending (some (code, [])))
  | (s, .ok img) =>
    if s.imageGood img then
      (s.setFw fun f => { f with staged := some img }, .accept rcPending (some (rcOk, [Config.imageVersion img])))
    else (s, .accept rcPending (some (rcImageBad, [])))

def execFwStage (l : KDie) (c : Chan) (s : State) : Out := .next (s.mci l c 0x80 State.runFwStage)

/-- An activation begins (Table 13.5): TWIN clears and the twin restarts on the new image. -/
def State.beginActivation (s : State) (tag : Nat) : State := (s.setFw fun f => { f with stage := 1, tag := tag }).setReadyBit 7 false

/-- FW_ACTIVATE. `fault`: a fault stops the sequence. -/
def State.runFwActivate (fault : Bool) (s : State) (_ : List Word) (tag : Nat) : State × Mci :=
  if s.pldmBusy then (s, .done rcBusy [])
  else if s.edge.fw.staged.isNone then (s, .done rcBadArg [])
  else if !s.flag 18 .GLB_FUNC_READY_TWIN then (s, .done rcNotReady [])
  else if fault then (s, .accept rcPending (some (rcFault, [])))
  else (s.beginActivation tag, .accept rcPending none)

def execFwActivate (l : KDie) (c : Chan) (fault : Bool) (s : State) : Out :=
  .next (s.mci l c 0x81 (State.runFwActivate fault))

/-- The new image runs on both dies: the command's completion, or the PLDM update's result. -/
def State.endActivation (s : State) : State :=
  match s.edge.fw.staged with
  | none => s.setFw fun f => { f with stage := 0 }
  | some img =>
    let v := Config.imageVersion img
    let tag := s.edge.fw.tag
    let s := s.setFw fun f => { f with version := v, image := img, staged := none, stage := 0, tag := 0 }
    if tag = 0 then s.setEdge fun e => { e with mgmt := { e.mgmt with update := 0, lastResult := 0 } }
    else s.finishLong tag rcOk [v]

/-- MIRROR_SYNC_COMPLETE (R378, Table 13.5): the twin has resynchronised, and TWIN sets; its link is back. During an update the
planned failover is then due, or the update is complete. -/
def execMirrorSyncComplete (s : State) : Out :=
  .next <|
    let twin := 37 - s.activeK
    if (s.getF twin .RST_STATUS_HOLD).testBit 5 ∨ !s.flag 18 .GLB_FUNC_READY_MBX then s
    else
      let s := s.setReadyBit 7 true
      let s := if s.edge.pins.perstLow.contains (twin - 18) then s else s.setReadyBit (2 + (twin - 18)) true
      if s.edge.fw.stage = 1 then
        let s := s.setFw fun f => { f with stage := 2 }
        if match s.job with | some j => j.running | none => false then s else s.plannedFailover
      else if s.edge.fw.stage = 3 then s.endActivation
      else s

end Sys2Proof.Machine
end

