-- ==== Sys2Proof/Machine/MgmtOps.lean ====
section
/-! DEFINITION. What the management block's answers share (R454-R457), and the TAP's instructions (R458, R459). -/

namespace Sys2Proof.Machine

def State.setMgmt (s : State) (f : Mgmt → Mgmt) : State := s.setEdge fun e => { e with mgmt := f e.mgmt }

/-- The endpoint answers once the management block is ready. -/
def State.reply (s : State) (bs : List Byte) : State :=
  if s.flag 18 .GLB_FUNC_READY_MGT then s.setMgmt fun m => { m with out := bs } else s

/-- A message with an effect has it and answers. -/
def State.act (s : State) (f : Mgmt → Mgmt) (bs : List Byte) : State :=
  if s.flag 18 .GLB_FUNC_READY_MGT then s.setMgmt fun m => { f m with out := bs } else s

/-- A completion code, and a body that the message's own specification lays out from what the module knows (log 13). -/
def bodyOf (code : Byte) (msg : Nat) (known : List Byte) : List Byte := code :: Config.mgmtBody msg known

/-! Completion codes of DSP0240 and DSP0267 (log 13). -/
def mcOk : Byte := 0x00
def mcInvalidData : Byte := 0x02
def mcUnsupported : Byte := 0x05
def mcInvalidEffecter : Byte := 0x80
def mcNotInUpdate : Byte := 0x80
def mcInUpdate : Byte := 0x81
def mcOutOfRange : Byte := 0x82
def mcInvalidState : Byte := 0x84

/-- What the sensors read (R455): TEMP and energy of every die, stack energy, input power and energy. -/
def State.sensors (s : State) : List Byte :=
  (allDies.flatMap fun d => natLe 1 (s.getF d .PWR_THERM_TEMP) ++ natLe 8 (s.ctr d Reg.PWR_ENERGY_LO).toNat) ++
    (computeDies.flatMap fun d => natLe 8 (s.ctr d Reg.PWR_STACK_ENERGY_LO).toNat) ++
    natLe 2 (s.getF 18 .PWR_STATUS_POWER) ++ natLe 8 (s.ctr 18 Reg.PWR_STACK_ENERGY_LO).toNat

/-- The inventory record as the FRU record carries it (R455). -/
def State.fru (s : State) : List Byte := natLe 4 s.glbId.toNat ++ natLe 8 s.inv.serial.toNat

/-- The digest of the running image (1), the option store (2) or the repair record (3) (R457). -/
def State.digest (s : State) (index : Nat) : List Byte :=
  Config.measurement index (if index = 1 then s.edge.fw.version :: s.edge.fw.image.map (·.setWidth 32)
    else if index = 3 then (List.range 256).map (Store.get 0 s.repair) else [])

/-- An FW_STAGE or FW_ACTIVATE is outstanding (R456). -/
def State.firmwareBusy (s : State) : Bool := s.longs.any fun c => c.opcode == 0x80 || c.opcode == 0x81

/-! PLDM firmware update (DSP0267): `update` 0 idle, 1 learning, 2 ready for transfer, 3 downloading, 4 ready to activate, 5
activating. -/

/-- A message that an update takes in one state. -/
def State.inUpdate (s : State) (ok : Nat → Bool) (f : Mgmt → Mgmt) : State :=
  if s.edge.mgmt.update = 0 then s.reply [mcNotInUpdate]
  else if ok s.edge.mgmt.update then s.act f [mcOk]
  else s.reply [mcInvalidState]

/-- A piece of the image arrives in order; a complete image is verified and staged as FW_STAGE stages one (R456). -/
def State.takePiece (s : State) (offset : Nat) (piece : List Byte) : State :=
  let m := s.edge.mgmt
  if m.update ≠ 3 ∨ offset ≠ m.image.length then s
  else
    let img := (m.image ++ piece).take m.size
    if img.length < m.size then s.setMgmt fun m => { m with image := img }
    else if s.imageGood img then
      ((s.setMgmt fun m => { m with image := [], update := 4, lastResult := 0 }).setFw fun f => { f with staged := some img })
    else s.setMgmt fun m => { m with image := [], update := 2, lastResult := 1 }

/-! TAP. -/

/-- IDCODE (Table 16.5). -/
def State.idcodeWord (s : State) : Word :=
  BitVec.ofNat 32 (s.inv.stepping % 16 * 2 ^ 28 + 0x4820 * 2 ^ 12 + 0x2B9 * 2 + 1)

/-- An instruction is loaded; the boundary instructions need MOD_RESET_N low and the regulators enabled (R459). -/
def State.loadTap (s : State) (i : TapInstr) : State :=
  let open_ := !s.edge.pins.modResetN && s.edge.pins.regulators
  let i := match i with
    | .bypass => TapInstr.bypass
    | .idcode => .idcode
    | x => if open_ then x else .bypass
  s.setEdge fun e => { e with tap := { e.tap with ir := i, reset := false, dr := if i = .idcode then s.idcodeWord else 0 } }

end Sys2Proof.Machine
end

