-- ==== Sys2Proof/Machine/Management.lean ====
section
/-! DEFINITION. The rows of the management bus (R454-R457, Table 16.4) and of the TAP (R458, R459). -/

namespace Sys2Proof.Machine

/-! MCTP. -/

/-- I3C_DYNAMIC_ADDRESS (R454): the endpoint changes to I3C until the next POR. -/
def execI3cDynamicAddress (addr : BitVec 7) (s : State) : Out := .next (s.setMgmt fun m => { m with i3c := some addr })

def execSetEndpointId (eid : Byte) (s : State) : Out := .next (s.act (fun m => { m with eid := eid }) [mcOk, 0, eid, 0])

def execGetEndpointId (s : State) : Out := .next (s.reply [mcOk, s.edge.mgmt.eid, 0, 0])

def execGetEndpointUuid (s : State) : Out := .next (s.reply (bodyOf mcOk 0x0003 s.fru))

def execGetMctpVersionSupport (msgType : Byte) (s : State) : Out := .next (s.reply (bodyOf mcOk 0x0004 [msgType]))

/-- GETMESSAGETYPESUPPORT: MCTP control, PLDM and SPDM (Table 16.4). -/
def execGetMessageTypeSupport (s : State) : Out := .next (s.reply [mcOk, 3, 0x00, 0x01, 0x05])

/-! PLDM base. -/

def execGetTid (s : State) : Out := .next (s.reply [mcOk, s.edge.mgmt.tid])

def execSetTid (tid : Byte) (s : State) : Out := .next (s.act (fun m => { m with tid := tid }) [mcOk])

def execGetPldmVersion (pldmType : Byte) (s : State) : Out := .next (s.reply (bodyOf mcOk 0x0103 [pldmType]))

/-- GETPLDMTYPES: base 0, monitoring 2, FRU 4, firmware update 5 (Table 16.4). -/
def execGetPldmTypes (s : State) : Out := .next (s.reply [mcOk, 0x35, 0, 0, 0, 0, 0, 0, 0])

def execGetPldmCommands (pldmType : Byte) (s : State) : Out := .next (s.reply (bodyOf mcOk 0x0105 [pldmType]))

/-! PLDM monitoring and control. -/

def execGetPdrRepositoryInfo (s : State) : Out := .next (s.reply (bodyOf mcOk 0x0250 []))

def execGetPdr (handle : Word) (s : State) : Out := .next (s.reply (bodyOf mcOk 0x0251 (natLe 4 handle.toNat)))

/-- GETSENSORREADING: the readings of the stacks' own and the coolant's sensors, which no row brings, are free (log 13). -/
def execGetSensorReading (sensor : BitVec 16) (s : State) : Out :=
  .next <|
    if !s.flag 18 .GLB_FUNC_READY_MGT then s
    else
      let (s, unread) := s.freeBytes 4
      s.reply (bodyOf mcOk 0x0211 (natLe 2 sensor.toNat ++ s.sensors ++ unread))

def execGetStateSensorReadings (sensor : BitVec 16) (s : State) : Out :=
  .next (s.reply (bodyOf mcOk 0x0221 (natLe 2 sensor.toNat)))

def execSetEventReceiver (eid : Byte) (s : State) : Out := .next (s.act (fun m => { m with receiver := eid }) [mcOk])

/-- SETNUMERICEFFECTERVALUE (R456): the power cap, as POWER_CAP writes it. -/
def execSetNumericEffecterValue (effecter : BitVec 16) (value : Word) (s : State) : Out :=
  .next <|
    if !s.flag 18 .GLB_FUNC_READY_MGT then s
    else if effecter ≠ Config.capEffecter then s.reply [mcInvalidEffecter]
    else
      let r := s.setCap value.toNat
      r.1.reply [if r.2 = rcOk then mcOk else mcInvalidData]

def execGetNumericEffecterValue (effecter : BitVec 16) (s : State) : Out :=
  .next (if effecter = Config.capEffecter then s.reply (bodyOf mcOk 0x0232 (natLe 4 (s.getF 18 .PWR_CAP_WATTS)))
    else s.reply [mcInvalidEffecter])

/-! PLDM FRU data. -/

def execGetFruRecordTableMetadata (s : State) : Out := .next (s.reply (bodyOf mcOk 0x0401 s.fru))

def execGetFruRecordTable (s : State) : Out := .next (s.reply (bodyOf mcOk 0x0402 s.fru))

/-! PLDM firmware update. -/

def execQueryDeviceIdentifiers (s : State) : Out := .next (s.reply (bodyOf mcOk 0x0501 s.fru))

def execGetFirmwareParameters (s : State) : Out :=
  .next (s.reply (bodyOf mcOk 0x0502 (natLe 4 s.edge.fw.version.toNat ++ match s.edge.fw.staged with
    | some img => natLe 4 (Config.imageVersion img).toNat
    | none => [])))

/-- REQUESTUPDATE (R456). -/
def execRequestUpdate (s : State) : Out :=
  .next (if s.firmwareBusy || s.pldmBusy then s.reply [mcInUpdate]
    else s.act (fun m => { m with update := 1, image := [], size := 0 }) [mcOk])

/-- PASSCOMPONENTTABLE. -/
def execPassComponentTable (req : List Byte) (s : State) : Out :=
  .next (let _ := req; s.inUpdate (· == 1) fun m => { m with update := 2 })

/-- UPDATECOMPONENT: the endpoint then asks for `size` bytes. -/
def execUpdateComponent (size : Nat) (s : State) : Out :=
  .next (s.inUpdate (fun u => u == 2 || u == 4) fun m => { m with update := 3, size := size, image := [] })

/-- A RequestFirmwareData of the endpoint is answered. -/
def execFirmwareDataResponse (offset : Nat) (piece : List Byte) (s : State) : Out :=
  .next (if s.flag 18 .GLB_FUNC_READY_MGT then s.takePiece offset piece else s)

/-- ACTIVATEFIRMWARE (R456): the sequence of FW_ACTIVATE; GetStatus tells its result. -/
def execActivateFirmware (fault : Bool) (s : State) : Out :=
  .next <|
    if !s.flag 18 .GLB_FUNC_READY_MGT then s
    else if s.edge.mgmt.update = 0 then s.reply [mcNotInUpdate]
    else if s.edge.mgmt.update ≠ 4 ∨ !s.flag 18 .GLB_FUNC_READY_TWIN then s.reply [mcInvalidState]
    else if fault then s.act (fun m => { m with update := 0, lastResult := 2 }) [mcOk]
    else (s.act (fun m => { m with update := 5 }) [mcOk]).beginActivation 0

def execGetStatus (s : State) : Out :=
  .next (s.reply (bodyOf mcOk 0x051B [BitVec.ofNat 8 s.edge.mgmt.update, BitVec.ofNat 8 s.edge.mgmt.lastResult]))

/-- CANCELUPDATECOMPONENT. -/
def execCancelUpdateComponent (s : State) : Out :=
  .next (s.inUpdate (fun u => u == 3 || u == 4) fun m => { m with update := 2, image := [] })

/-- CANCELUPDATE. -/
def execCancelUpdate (s : State) : Out := .next (s.inUpdate (· ≠ 5) fun m => { m with update := 0, image := [] })

/-! SPDM. -/

def execGetVersion (s : State) : Out := .next (s.reply (bodyOf mcOk 0x0684 []))

def execGetCapabilities (s : State) : Out := .next (s.reply (bodyOf mcOk 0x06E1 []))

def execNegotiateAlgorithms (req : List Byte) (s : State) : Out := .next (s.reply (bodyOf mcOk 0x06E3 req))

def execGetDigests (s : State) : Out := .next (s.reply (bodyOf mcOk 0x0681 []))

def execGetCertificate (slot : Byte) (offset length : BitVec 16) (s : State) : Out :=
  .next (s.reply (bodyOf mcOk 0x0682 (slot :: natLe 2 offset.toNat ++ natLe 2 length.toNat)))

def execChallenge (slot : Byte) (nonce : List Byte) (s : State) : Out :=
  .next (s.reply (bodyOf mcOk 0x0683 (slot :: nonce)))

/-- GETMEASUREMENTS (R457). -/
def execGetMeasurements (index : Byte) (s : State) : Out := .next (s.reply (mcOk :: s.digest index.toNat))

/-- UNSUPPORTED_MANAGEMENT_MESSAGE (R455). -/
def execUnsupportedManagementMessage (protocol : Byte) (code : Byte) (s : State) : Out :=
  .next (let _ := code; s.reply (if protocol = 0x05 then [0x7F, 0x07] else [mcUnsupported]))

/-! JTAG. -/

def execBypass (s : State) : Out := .next (s.loadTap .bypass)

def execIdcode (s : State) : Out := .next (s.loadTap .idcode)

def execSamplePreload (s : State) : Out := .next (s.loadTap .samplePreload)

def execExtest (s : State) : Out := .next (s.loadTap .extest)

def execClamp (s : State) : Out := .next (s.loadTap .clamp)

def execHighz (s : State) : Out := .next (s.loadTap .highz)

/-- TESTLOGICRESET: TRST_N is low, or TMS has been high for five TCK cycles. -/
def execTestLogicReset (s : State) : Out := .next (s.setEdge fun e => { e with tap := e.tap.toReset true })

end Sys2Proof.Machine
end

