-- ==== Sys2Proof/Machine/Norm.lean ====
section
/-! DEFINITION. The normalisation engine: RMS, LN and their backward operations (R194, R195). -/

namespace Sys2Proof.Machine

def nrmN (j : EJob) : Nat := fld j.desc 0 2 + 1
def nrmRows (j : EJob) : Nat := j.count + 1
def nrmIn (j : EJob) : Nat := fld j.desc 2 1
def nrmOut (j : EJob) : Nat := fld j.desc 3 1
def nrmG (j : EJob) : Nat := fld j.desc 4 1
def nrmEps (j : EJob) : Nat := fld j.desc 8 4
def nrmScale (j : EJob) (i : Nat) : Nat := fld j.desc (12 + 4 * i) 4
/-- Layer normalisation, not RMS. -/
def nrmLn (j : EJob) : Bool := j.op = 2 ∨ j.op = 4
def nrmBack (j : EJob) : Bool := j.op = 3 ∨ j.op = 4

def nrmLegal (j : EJob) : Bool :=
  decide (1 ≤ j.op ∧ j.op ≤ 4) && j.flags == 0 && decide (nrmIn j < 5) && decide (nrmOut j < 5) && decide (nrmG j < 5) &&
    zeroBytes j.desc 5 3 && zeroBytes j.desc 24 40 &&
      (List.range 3).all fun i => nrmScale j i % 16 == 0

/-- r of R194: 1 / sqrt(var), rounded to nearest even, with EPS added to an exact variance. -/
def nrmR (var : Rat) (eps : Nat) : Nat × FpFlags :=
  if b32.isNaN eps then (b32.quiet eps, if b32.isSNaN eps then fIV else 0)
  else if b32.isInf eps then (if b32.neg eps then (b32.qNaN, fIV) else (0, 0))
  else
    let v := var + b32.val eps
    if v < 0 then (b32.qNaN, fIV)
    else if v = 0 then (b32.infMag, fDZ)
    else b32.round .tiesToEven (sqrtBracket 24 (1 / v))

/-- t of R194: (x - mu) r, exact and then rounded to nearest even. -/
def nrmT (x : Rat) (r : Nat) : Nat × FpFlags :=
  if b32.isFinite r then b32.round .tiesToEven (x * b32.val r)
  else b32.mul .tiesToEven (toB32 x) r

/-- The mean and r of a row; none when the row holds POISON. -/
def nrmStats (j : EJob) (xs : List (Option Rat)) : Option (List Rat × Rat × Nat × FpFlags) :=
  if xs.any Option.isNone then none
  else
    let vs := xs.map fun x => x.getD 0
    let n : Rat := (vs.length : Nat)
    let mu : Rat := if nrmLn j then vs.sum / n else 0
    let r := nrmR ((vs.map fun v => v * v).sum / n - mu * mu) (nrmEps j)
    some (vs, mu, r.1, r.2)

def nrmRow (j : EJob) (b : List Byte) (r : Nat) : List (Option Rat) :=
  let w := fmtBytes (nrmIn j)
  (List.range (nrmN j)).map fun i => elemVal (nrmIn j) (nrmScale j 0) (fld b ((r * nrmN j + i) * w) w)

/-- gamma or beta (L16) as binary32. -/
def nrmGamma (b : List Byte) (i : Nat) : Nat := (l16ToB32 (fld b (2 * i) 2)).1

/-- The flags and the clips of the conversions of `n` values of gamma and beta (Table 2.6). -/
def nrmGammaFlags (b : List Byte) (n : Nat) : FpFlags × Nat :=
  (List.range n).foldl (fun a i => let r := l16ToB32 (fld b (2 * i) 2); (a.1 ||| r.2.1, a.2 + r.2.2.toNat)) (0, 0)

/-- RMS and LN forward (R194). -/
def runNormFwd (s : State) (j : EJob) : State × EAns :=
  let n := nrmN j; let rows := nrmRows j; let ib := fmtBytes (nrmIn j); let ob := fmtBytes (nrmOut j)
  s.engineRun j [(j.addr 0, rows * n * ib), (j.addr 3, n * 2 * (if nrmLn j then 2 else 1))] [(j.addr 2, rows * n * ob)]
    fun s bss =>
    let gb := bss.getD 1 []
    let one (acc : State × Report × Nat × FpFlags) (r : Nat) :=
      let (s, rep, pois, f) := acc
      let (outs, f', bad) : List Stored × FpFlags × Nat :=
        match nrmStats j (nrmRow j (bss.getD 0 []) r) with
        | none => (List.replicate n (Stored.poison (nrmOut j)), 0, 1)
        | some (vs, mu, rr, rf) =>
          let ys := vs.mapIdx fun i x =>
            let t := nrmT (x - mu) rr
            let y := b32.fma .tiesToEven t.1 (nrmGamma gb i) (if nrmLn j then nrmGamma gb (n + i) else 0)
            (storeB32 (nrmOut j) (nrmScale j 1) .rne y.1, t.2 ||| y.2)
          (ys.map (·.1), ys.foldl (fun f y => f ||| y.2 ||| y.1.fl) rf, 0)
      let s := s.writeRange (j.addr 2 + r * n * ob) (outs.flatMap fun o => natLe ob o.code)
      (s, rep.add (reportAll (nrmOut j) outs), pois + bad, f ||| f')
    let gf := nrmGammaFlags gb (if nrmLn j then 2 * n else n)
    let (s, rep, pois, f) := (List.range rows).foldl one (s, clipReport gf.2, 0, gf.1)
    (s.sage j.d j.tid (some j.mbid) rep, { EAns.code rcOk with fpx := f, detail := [rows, pois, 0], work := rows * n })

/-- What the backward pass forms of one row (R195): dx, and dy and dy x t for the partials. -/
structure NormBack where
  dx : List Nat
  dy : List Nat
  dyt : List Nat
  flags : FpFlags
  poison : Bool
  deriving DecidableEq, Repr

def or32 (x : Nat × FpFlags) (f : FpFlags) : Nat × FpFlags := (x.1, x.2 ||| f)

def nrmBackRow (j : EJob) (xs : List (Option Rat)) (dys : List (Nat × FpFlags)) (gb : List Byte) : NormBack :=
  let n := nrmN j
  let nB := toB32 (n : Rat)
  let df := dys.foldl (fun f y => f ||| y.2) 0
  match nrmStats j xs with
  | none =>
    let nan := List.replicate n b32.qNaN
    { dx := nan, dy := dys.map (·.1), dyt := nan, flags := df, poison := true }
  | some (vs, mu, r, rf) =>
    let ts := vs.map fun x => nrmT (x - mu) r
    let gs := dys.mapIdx fun i y => b32.mul .tiesToEven (nrmGamma gb i) y.1
    let a := if nrmLn j then canonSumF (gs.map (·.1)) else (0, 0)
    let gt := List.zipWith (fun g t => b32.mul .tiesToEven g.1 t.1) gs ts
    let b := canonSumF (gt.map (·.1))
    let an := b32.div .tiesToEven a.1 nB
    let dx := List.zipWith (fun g t =>
      let u := if nrmLn j then or32 (b32.sub .tiesToEven g.1 an.1) an.2 else (g.1, 0)
      let tb := b32.mul .tiesToEven t.1 b.1
      let tbn := b32.div .tiesToEven tb.1 nB
      let v := b32.sub .tiesToEven u.1 tbn.1
      or32 (b32.mul .tiesToEven r v.1) (u.2 ||| tb.2 ||| tbn.2 ||| v.2)) gs ts
    let dyt := List.zipWith (fun (y : Nat × FpFlags) (t : Nat × FpFlags) => b32.mul .tiesToEven y.1 t.1) dys ts
    let all (l : List (Nat × FpFlags)) (f : FpFlags) : FpFlags := l.foldl (fun f y => f ||| y.2) f
    { dx := dx.map (·.1), dy := dys.map (·.1), dyt := dyt.map (·.1),
      flags := all dx (all gt (all gs (all dyt (all ts (rf ||| a.2 ||| b.2 ||| df))))), poison := false }

/-- The sums over the 16 rows of a group, element by element, as chunk nodes of R59. -/
def groupSum (n : Nat) (rows : List (List Nat)) : List Nat × FpFlags :=
  let cols := (List.range n).map fun i => chunkSumF (rows.map fun r => r.getD i 0)
  (cols.map (·.1), cols.foldl (fun f c => f ||| c.2) 0)

/-- RMS and LN backward (R195); the partials of a group lie together, dγ before dβ (log 31). -/
def runNormBwd (s : State) (j : EJob) : State × EAns :=
  let n := nrmN j; let rows := nrmRows j; let ib := fmtBytes (nrmIn j); let ob := fmtBytes (nrmOut j); let gw := fmtBytes (nrmG j)
  if rows % 16 ≠ 0 then (s, EAns.code rcBadArg)
  else
    let pn := n * (if nrmLn j then 8 else 4)
    s.engineRun j [(j.addr 0, rows * n * ib), (j.addr 1, rows * n * gw), (j.addr 3, n * 2)]
      [(j.addr 2, rows * n * ob), (j.addr 4, rows / 16 * pn)] fun s bss =>
      let dyAt (r i : Nat) : Nat × FpFlags × Bool := elemB32 (nrmG j) (nrmScale j 2) (fld (bss.getD 1 []) ((r * n + i) * gw) gw)
      let dys (r : Nat) : List (Nat × FpFlags × Bool) := (List.range n).map (dyAt r)
      let dyClips := ((List.range rows).map fun r => ((dys r).filter fun y => y.2.2).length).sum
      let gf := nrmGammaFlags (bss.getD 2 []) n
      let res := (List.range rows).map fun r =>
        nrmBackRow j (nrmRow j (bss.getD 0 []) r) ((dys r).map fun y => (y.1, y.2.1)) (bss.getD 2 [])
      let one (acc : State × Report × FpFlags) (x : Nat × NormBack) : State × Report × FpFlags :=
        let outs := x.2.dx.map fun v =>
          if x.2.poison then Stored.poison (nrmOut j) else storeB32 (nrmOut j) (nrmScale j 1) .rne v
        (acc.1.writeRange (j.addr 2 + x.1 * n * ob) (outs.flatMap fun o => natLe ob o.code),
          acc.2.1.add (reportAll (nrmOut j) outs), acc.2.2 ||| flagsAll outs)
      let (s, rep, fo) := (res.mapIdx fun i x => (i, x)).foldl one (s, clipReport (gf.2 + dyClips), gf.1)
      let parts (acc : State × FpFlags) (g : Nat) : State × FpFlags :=
        let rs := (res.drop (16 * g)).take 16
        let a := groupSum n (rs.map (·.dyt))
        let b := if nrmLn j then groupSum n (rs.map (·.dy)) else ([], 0)
        (acc.1.writeRange (j.addr 4 + g * pn) ((a.1 ++ b.1).flatMap (natLe 4)), acc.2 ||| a.2 ||| b.2)
      let (s, f) := (List.range (rows / 16)).foldl parts (s, res.foldl (fun f x => f ||| x.flags) fo)
      (s.sage j.d j.tid (some j.mbid) rep,
        { EAns.code rcOk with fpx := f, detail := [rows, (res.filter (·.poison)).length, 0], work := rows * n })

/-- RMS (R194); the row also refuses a reserved OP. -/
def execRms (d : CDie) (s : State) : Out :=
  .next <| acceptRequest d .nrm true (fun o => o ≠ 2 ∧ o ≠ 3 ∧ o ≠ 4 ∧ o ≠ 0x10) (engBad .nrm) nrmLegal runNormFwd s
/-- LN (R194). -/
def execLn (d : CDie) (s : State) : Out := .next <| acceptRequest d .nrm true (fun o => o = 2) (engBad .nrm) nrmLegal runNormFwd s
/-- RMS_BWD (R195). -/
def execRmsBwd (d : CDie) (s : State) : Out :=
  .next <| acceptRequest d .nrm true (fun o => o = 3) (engBad .nrm) nrmLegal runNormBwd s
/-- LN_BWD (R195). -/
def execLnBwd (d : CDie) (s : State) : Out :=
  .next <| acceptRequest d .nrm true (fun o => o = 4) (engBad .nrm) nrmLegal runNormBwd s

end Sys2Proof.Machine
end

