-- ==== Sys2Proof/Machine/Transfer.lean ====
section
/-! DEFINITION. The rows of checkpoint transfers: WRITE_ACK, DATA, NACK, TRANSFER_TIMEOUT (R395). A frame is the MAC frame
without its FCS. -/

namespace Sys2Proof.Machine

def xfOp (f : List Byte) : Nat := fld f 14 2
def xfTag (f : List Byte) : Nat := fld f 18 4
def xfObj (f : List Byte) : Nat := fld f 22 8
def xfOff (f : List Byte) : Nat := fld f 30 8
def xfLen (f : List Byte) : Nat := fld f 38 4
def xfData (f : List Byte) : List Byte := (f.drop 46).take (xfLen f)
/-- The transfer header's CRC-32, over its bytes 0-27 and the data. -/
def xfGood (f : List Byte) : Bool := BitVec.ofNat 32 (fld f 42 4) == crc32 (slice f 14 28 ++ xfData f)

/-- Firmware takes a frame from its port's receive ring, where it lies there (R305). -/
def State.fromRing (s : State) (pt : Nat) (f : List Byte) : State :=
  let x := Store.get PortS.fresh s.edge.ports pt
  if x.rx.contains f then
    { s with edge := { s.edge with ports := Store.set PortS.fresh s.edge.ports pt { x with rx := x.rx.erase f } } }
  else s

/-- The transfer that a frame of an object belongs to. -/
def State.xferOf (s : State) (pt : Nat) (f : List Byte) (write : Bool) : Option Xfer :=
  s.edge.xfers.find? fun x => x.port = pt ∧ x.obj = xfObj f ∧ x.write = write

def State.putXfer (s : State) (y : Xfer) : State :=
  let put (z : Xfer) : Xfer := if z.tag = y.tag ∧ z.obj = y.obj then y else z
  { s with edge := { s.edge with xfers := s.edge.xfers.map put } }

/-- WRITE_ACK: the frame with its TAG, object and offset is written. -/
def execWriteAck (pt : Port) (frame : List Byte) (s : State) : Out :=
  .next <|
    let s := s.fromRing pt frame
    if !(s.ethUp pt && xfOp frame == 2 && xfGood frame) then s
    else match s.xferOf pt frame true with
    | none => s
    | some x =>
      if !(x.out.any fun f => f.tag = xfTag frame ∧ f.off = xfOff frame) then s
      else
        let y := { x with out := x.out.filter fun f => !(f.tag == xfTag frame && f.off == xfOff frame), at_ := s.now }
        let s := s.putXfer y
        if y.out.isEmpty ∧ y.len ≤ y.next then s.doneXfer y else s.pumpXfers

/-- DATA: a piece with a good CRC is kept; an object that is whole is taken; an image's header gives its length. -/
def execData (pt : Port) (frame : List Byte) (s : State) : Out :=
  .next <|
    let s := s.fromRing pt frame
    if !(s.ethUp pt && xfOp frame == 4 && xfGood frame) || decide (8192 < xfLen frame) then s
    else match s.xferOf pt frame false with
    | none => s
    | some x =>
      let x := { x with got := x.got ++ [(xfOff frame, xfData frame)], at_ := s.now }
      let x := if x.len = 64 ∧ 64 ≤ x.reached 0 then { x with len := max 64 (fld x.image 16 8) } else x
      let x := { x with out := x.out.filter fun f => decide (x.reached f.off < f.off + f.len) }
      let s := s.putXfer x
      if x.len ≤ x.reached 0 then s.doneXfer x else s.pumpXfers

/-- NACK: the transfer ends with FAULT. -/
def execNack (pt : Port) (frame : List Byte) (s : State) : Out :=
  .next <|
    let s := s.fromRing pt frame
    if !(s.ethUp pt && xfOp frame == 5 && xfGood frame) then s
    else match s.edge.xfers.find? fun x => x.port = pt.val ∧ x.obj = xfObj frame with
    | none => s
    | some x => s.failXfers x.tag

/-- TRANSFER_TIMEOUT: 1 ms without an answer; a frame is resent up to 8 times, then the transfer takes another port; a READ
asks again for what is missing. -/
def execTransferTimeout (s : State) : Out :=
  .next <|
    match s.edge.xfers.find? fun x => !x.out.isEmpty with
    | none => s
    | some x =>
      let s := s.advanceTo (x.at_ + 1000000)
      if x.out.any fun f => 8 ≤ f.tries then s.moveXfer x
      else
        let again (f : XFrame) : XFrame :=
          let off := if x.write then f.off else x.reached f.off
          { f with off := off, len := f.off + f.len - off, tries := f.tries + 1 }
        let y := { x with out := x.out.map again, at_ := s.now }
        y.out.foldl (fun s f => s.sendXfer y f) (s.putXfer y)

end Sys2Proof.Machine
end

