-- ==== Sys2Proof/Machine/Update.lean ====
section
/-! DEFINITION. The update engine: rules, programs, lazy rows, freeze masks, working copies, orthogonalised momentum, parity
deltas and commits (R206-R231). -/

namespace Sys2Proof.Machine

/-! The request (R207, Table 8.3). -/
def updRule (j : EJob) : Nat := fldBits j.desc 0 1 1 0
def updNesterov (j : EJob) : Bool := fldBits j.desc 0 1 2 2 = 1
def updLazy (j : EJob) : Bool := fldBits j.desc 0 1 3 3 = 1
def updGn (j : EJob) : Bool := fldBits j.desc 0 1 4 4 = 1
def updPhase (j : EJob) : Nat := fldBits j.desc 0 1 7 5
def updPre (j : EJob) : Nat := fldBits j.desc 1 1 4 0
def updPost (j : EJob) : Nat := fldBits j.desc 2 1 4 0
def updRows (j : EJob) : Nat := fld j.desc 4 4
def updWidth (j : EJob) : Nat := fld j.desc 8 4
def updRow0 (j : EJob) : Nat := fld j.desc 12 4
def updConst (j : EJob) (i : Nat) : Nat := fld j.desc (16 + 4 * i) 4
def updBeta1 (j : EJob) : Nat := updConst j 1
def updBeta2 (j : EJob) : Nat := updConst j 2
def updEps (j : EJob) : Nat := updConst j 3
def updS0 (j : EJob) : Nat := fld j.desc 36 4
def updTidW (j : EJob) : Nat := fld j.desc 40 3
def updTidM (j : EJob) : Nat := fld j.desc 43 3
def updTidV (j : EJob) : Nat := fld j.desc 46 3
def updWfmt (j : EJob) : Nat := fld j.desc 49 1
def updWscale (j : EJob) : Nat := fld j.desc 50 4
def updMeasure (j : EJob) : Bool := j.flags.testBit 0
def updN (j : EJob) : Nat := updRows j * updWidth j
def updW (j : EJob) : Nat := j.addr 0
def updG (j : EJob) : Nat := j.addr 1
def updM (j : EJob) : Nat := j.addr 2
def updV (j : EJob) : Nat := updM j + 2 * updN j
def updPblk (j : EJob) : Nat := j.addr 3
def updAux (j : EJob) : Nat := j.addr 4
/-- The touched bitmap of a LAZY table: at the next 64-byte boundary after the row counters. -/
def updBitmap (j : EJob) : Nat := (updAux j + 4 * updRows j + 63) / 64 * 64
def updAdam (j : EJob) : Bool := j.op = 1 ∧ updRule j = 1

def updLegal (j : EJob) : Bool :=
  decide (1 ≤ j.op ∧ j.op ≤ 5) && decide (j.flags < 2) && j.count == 0 &&
    (j.op == 5 || (zeroBytes j.desc 54 10 && decide (1 ≤ updWidth j ∧ updWidth j ≤ 2 ^ 24))) &&
    (!(j.op == 1 || j.op == 4) || (fldBits j.desc 1 1 7 5 == 0 && fldBits j.desc 2 1 7 5 == 0 && decide (updPre j ≤ 16) &&
      decide (updPost j ≤ 16) && srkLegal (fldBits j.desc 3 1 4 0))) &&
    (j.op != 2 || (updWfmt j == 0 || updWfmt j == 1 || updWfmt j == 2 || updWfmt j == 3 || updWfmt j == 5)) &&
    (j.op != 2 || updWscale j % 16 == 0) && (j.op != 4 || decide (updPhase j ≤ 4))

/-! binary32 with flags. -/

abbrev F32 := Nat × FpFlags

def fOp (f : Nat → Nat → Nat × FpFlags) (a b : F32) : F32 := let r := f a.1 b.1; (r.1, a.2 ||| b.2 ||| r.2)
def fAdd : F32 → F32 → F32 := fOp (b32.add .tiesToEven)
def fSub : F32 → F32 → F32 := fOp (b32.sub .tiesToEven)
def fMul : F32 → F32 → F32 := fOp (b32.mul .tiesToEven)
def fDiv : F32 → F32 → F32 := fOp (b32.div .tiesToEven)
def fFma (a b c : F32) : F32 := let r := b32.fma .tiesToEven a.1 b.1 c.1; (r.1, a.2 ||| b.2 ||| c.2 ||| r.2)
def fSqrt (a : F32) : F32 := let r := b32.sqrt .tiesToEven a.1; (r.1, a.2 ||| r.2)
def fOne : F32 := (0x3F800000, 0)
def fPure (x : Nat) : F32 := (x, 0)

/-- pow_b32 (R226): squarings and products from the most significant set bit down. -/
def powB32 (x : F32) (n : Nat) : F32 :=
  if n = 0 then fOne
  else
    let k := Nat.log2 n + 1
    (List.range k).foldl (fun r i =>
      let r := fMul r r
      if n.testBit (k - 1 - i) then fMul r x else r) fOne

/-- An L16 element as binary32 (Table 2.6); none for POISON. -/
def l16In (v : Nat) : Option F32 := if v = l16Poison then none else let r := l16ToB32 v; some (r.1, r.2.1)

/-- Whether the conversion of an L16 element to binary32 clips (Table 2.6). -/
def l16Clip (v : Nat) : Nat := (l16ToB32 v).2.2.toNat

/-! Programs (R222, R223). -/

/-- The operands of an element, by the numbers of Table 8.7, and every flag that its operations have raised (R48). -/
structure UEnv where
  t : List F32
  g : F32
  w : F32
  m : F32
  v : F32
  u : F32
  eta : F32
  gn : F32
  cnt : F32
  c : List Nat
  fl : FpFlags
  deriving DecidableEq, Repr

def UEnv.get (e : UEnv) (i : Nat) : F32 :=
  if i < 8 then e.t.getD i (0, 0)
  else match i with
    | 8 => e.g | 9 => e.w | 10 => e.m | 11 => e.v | 12 => e.u | 13 => e.eta | 14 => e.gn | 15 => e.cnt
    | _ => fPure (e.c.getD (i - 16) 0)

def UEnv.put (e : UEnv) (i : Nat) (x : F32) : UEnv :=
  if i < 8 then { e with t := e.t.set i x } else if i = 8 then { e with g := x } else if i = 12 then { e with u := x } else e

def uOp (w : Word) : Nat := bits w 31 26
def uD (w : Word) : Nat := bits w 25 21
def uA (w : Word) : Nat := bits w 20 16
def uB (w : Word) : Nat := bits w 15 11
def uC (w : Word) : Nat := bits w 10 6

/-- The operands that a word reads. -/
def uReads (w : Word) : List Nat :=
  let o := uOp w
  if o = 0x06 ∨ o = 0x0D then [uA w, uB w, uC w]
  else if o = 0x01 ∨ o = 0x07 ∨ (0x0A ≤ o ∧ o ≤ 0x0C) then [uA w] else [uA w, uB w]

/-- The words of a program that are executed: up to its length or an END. -/
def uWords (b : List Byte) (at_ len : Nat) : List Word :=
  ((List.range len).map fun i => BitVec.ofNat 32 (fld b (at_ + 4 * i) 4)).takeWhile fun w => uOp w ≠ 0

/-- R223: a reserved OP or bit, a write outside Table 8.7, a read of U in PRE or of GN while CTL.GN is 0. -/
def uIllegal (post gn : Bool) (w : Word) : Bool :=
  decide (0x0D < uOp w) || bits w 5 0 != 0 ||
    !(decide (uD w < 8) || (!post && uD w == 8) || (post && uD w == 12)) ||
    (uReads w).any fun r => (!post && r == 12) || (!gn && r == 14)

/-- −1, 0 or +1 (Table 8.6 SIGN; R219); a NaN stays one, quieted, and a signalling NaN raises invalid (R47). -/
def fSign (a : F32) : F32 :=
  match b32.nanRule [a.1] with
  | some r => (r.1, a.2 ||| r.2)
  | none => (if b32.isZero a.1 then 0 else if b32.neg a.1 then 0xBF800000 else 0x3F800000, a.2)

def uStep (e : UEnv) (w : Word) : UEnv :=
  let a := e.get (uA w); let b := e.get (uB w); let c := e.get (uC w)
  let r : F32 := match uOp w with
    | 0x01 => a
    | 0x02 => fAdd a b
    | 0x03 => fSub a b
    | 0x04 => fMul a b
    | 0x05 => fDiv a b
    | 0x06 => fFma a b c
    | 0x07 => fSqrt a
    | 0x08 => fOp (b32.minMax false) a b
    | 0x09 => fOp (b32.minMax true) a b
    | 0x0A => (b32.mag a.1, a.2)
    | 0x0B => (b32.negate a.1, a.2)
    | 0x0C => fSign a
    | _ => if b32.geZero a.1 then b else c
  { e.put (uD w) r with fl := e.fl ||| r.2 }

/-! The rules (R217-R219). -/

/-- What a request forms once: eta, eta_wd, the complements of the betas, and the step count. -/
structure UReq where
  eta : F32
  etaWd : F32
  b1 : F32
  b2 : F32
  oneB1 : F32
  oneB2 : F32
  eps : F32
  t : Nat
  gn : F32
  c : List Nat
  pre : List Word
  post : List Word
  deriving DecidableEq, Repr

def updReq (s : State) (j : EJob) (pb : List Byte) : UReq :=
  let eta := fMul (fPure (s.reg j.d Reg.UPD_LR).toNat) (fPure (updConst j 0))
  let b1 := fPure (updBeta1 j); let b2 := fPure (updBeta2 j)
  { eta := eta, etaWd := fMul eta (fPure (updConst j 4)), b1 := b1, b2 := b2, oneB1 := fSub fOne b1, oneB2 := fSub fOne b2,
    eps := fPure (updEps j), t := j.step.toNat - updS0 j + 1, gn := fPure (fld pb 192 4),
    c := (List.range 16).map fun i => fld pb (4 * i) 4, pre := uWords pb 64 (updPre j), post := uWords pb 128 (updPost j) }

/-- The update and the new moments of an element under rule 0, 1 or 2. -/
def updApply (j : EJob) (q : UReq) (e : UEnv) : UEnv :=
  let done (m v d : F32) : UEnv :=
    let u := fFma q.etaWd e.w (fMul q.eta d)
    { e with m := m, v := v, u := u, fl := e.fl ||| m.2 ||| v.2 ||| u.2 }
  match updRule j with
  | 0 =>
    let m := fFma q.b1 e.m e.g
    done m e.v (if updNesterov j then fFma q.b1 m e.g else m)
  | 1 =>
    let c1 := fSub fOne (powB32 q.b1 q.t)
    let c2 := fSub fOne (powB32 q.b2 q.t)
    let m := fFma q.b1 e.m (fMul q.oneB1 e.g)
    let v := fFma q.b2 e.v (fMul q.oneB2 (fMul e.g e.g))
    done m v (fDiv (fDiv m c1) (fAdd (fSqrt (fDiv v c2)) q.eps))
  | _ =>
    let c := fFma q.b1 e.m (fMul q.oneB1 e.g)
    done (fFma q.b2 e.m (fMul q.oneB2 e.g)) e.v (fSign c)

/-- The element's operands before the PRE program. -/
def updEnv (q : UReq) (g w m v : F32) : UEnv :=
  { t := List.replicate 8 (0, 0), g := g, w := w, m := m, v := v, u := (0, 0), eta := q.eta, gn := q.gn,
    cnt := if q.t = 0 then fPure 0 else b32.round .tiesToEven (q.t : Rat), c := q.c, fl := g.2 ||| w.2 ||| m.2 ||| v.2 }

/-! Freeze masks (R227, R228). -/

/-- Whether a row of a tensor is frozen by the committed table. -/
def State.rowFrozen (s : State) (d tid row : Nat) : Bool :=
  let base := dpa d 1 (s.getF d .UPD_FRZ_BASE_BASE * 1024)
  (List.range (s.getF d .UPD_FRZ_COUNT_COUNT)).any fun i =>
    let e := s.view (base + 16 * i) 16
    fld e 0 3 == tid &&
      (fldBits e 0 4 24 24 == 0 || (fld (s.view (fldBits e 8 8 51 0 + row / 8) 1) 0 1).testBit (row % 8))

/-- What an update reads of the committed freeze table (R228): the table, and the bitmaps of its tensor over its rows. -/
def State.freezeRanges (s : State) (j : EJob) : List (Nat × Nat) :=
  let base := dpa j.d 1 (s.getF j.d .UPD_FRZ_BASE_BASE * 1024)
  let n := s.getF j.d .UPD_FRZ_COUNT_COUNT
  let map (i : Nat) : Option (Nat × Nat) :=
    let e := s.view (base + 16 * i) 16
    if fld e 0 3 = updTidW j ∧ fldBits e 0 4 24 24 = 1 then
      some (fldBits e 8 8 51 0 + updRow0 j / 8, (updRow0 j + updRows j - 1) / 8 + 1 - updRow0 j / 8)
    else none
  (base, 16 * n) :: (List.range n).filterMap map

/-! Parity deltas (R230). -/

/-- A stored value of an UPDATE: written, with its delta. -/
def State.putState (s : State) (j : EJob) (a n old new : Nat) : State :=
  if old = new then s
  else (s.writeRange a (natLe n new)).sendDelta a (natLe n old) (natLe n new) (hdrLayer j.bytes) j.step.toNat

/-! UPDATE (R212-R216, R225, R228). -/

/-- What an UPDATE counts and measures. -/
structure UTally where
  flags : FpFlags
  back : Nat
  frozen : Nat
  bad : Nat
  elems : Nat
  lost : Nat
  clips : Nat
  zeros : Nat
  amax : Nat
  mrep : Report
  vrep : Report
  usq : List Nat
  wsq : List Nat
  deriving DecidableEq, Repr

def UTally.zero : UTally :=
  { flags := 0, back := 0, frozen := 0, bad := 0, elems := 0, lost := 0, clips := 0, zeros := 0, amax := 0, mrep := Report.none, vrep := Report.none,
    usq := [], wsq := [] }

/-- The clips of the conversions of an element's stored values, each under its own tensor, the gradient's with the master weight
(Table 2.6; log 82). -/
def UTally.took (t : UTally) (g : Nat) (old : Nat × Nat × Nat) : UTally :=
  { t with clips := t.clips + l16Clip g + l16Clip old.1, mrep := t.mrep.add (clipReport (l16Clip old.2.1)),
           vrep := t.vrep.add (clipReport (l16Clip old.2.2)) }

/-- The flags of converting an element's stored values. -/
def tookFlags (g : Nat) (old : Nat × Nat × Nat) : FpFlags :=
  (l16ToB32 g).2.1 ||| (l16ToB32 old.1).2.1 ||| (l16ToB32 old.2.1).2.1 ||| (l16ToB32 old.2.2).2.1

/-- An element's terms of USQ and WSQ: the squares of its update and of the weight that it holds afterwards, with the flags of forming
them and the clip of the weight's conversion (Table 5.2, R48, R49). -/
def UTally.norms (t : UTally) (u w : Nat) : UTally :=
  let x := l16ToB32 w
  let us := b32.mul .tiesToEven u u; let ws := b32.mul .tiesToEven x.1 x.1
  { t with usq := t.usq ++ [us.1], wsq := t.wsq ++ [ws.1], clips := t.clips + x.2.2.toNat, flags := t.flags ||| us.2 ||| x.2.1 ||| ws.2 }

/-- An element that keeps its stored values: it enters WSQ, and USQ with nothing. -/
def UTally.keep (t : UTally) (w : Nat) : UTally := t.norms 0 w

/-- A master weight is written back: `x` is the exact value before its rounding, `nw` what it is stored as (Table 5.2, R36). -/
def UTally.wrote (t : UTally) (u : Nat) (x : Rat) (old : Nat) (nw : Nat × Bool) : UTally :=
  let moved := !b32.isZero u
  { t.norms u nw.1 with
    back := t.back + 1, elems := t.elems + moved.toNat, lost := t.lost + (moved && nw.1 == old).toNat,
    clips := (t.norms u nw.1).clips + nw.2.toNat, zeros := t.zeros + (nw.1 == 0).toNat, amax := l16Max t.amax (amaxL16 x) }

/-- A row's missed steps (R225): the factors of w, m and v. -/
def missed (j : EJob) (q : UReq) (n : Nat) : F32 × F32 × F32 :=
  (powB32 (fSub fOne q.etaWd) n, powB32 (if updRule j = 2 then q.b2 else q.b1) n, powB32 q.b2 n)

/-- The write-back of an element whose update is finite (R213, R215). -/
def State.writeBack (s : State) (j : EJob) (i : Nat) (e : UEnv) (old : Nat × Nat × Nat) (t : UTally) : State × UTally :=
  let lane := fldBits j.desc 3 1 7 5; let srk := fldBits j.desc 3 1 4 0
  let ix := (updRow0 j * updWidth j + i) % 2 ^ 40
  let rnd (tid : Nat) : Rnd := (j.key tid lane 1 srk).rnd ix
  let x := b32.val e.w.1 - b32.val e.u.1
  let nw := toL16 (rnd (updTidW j)) x
  let nm := toL16 (rnd (updTidM j)) (b32.val e.m.1)
  let nv := toL16 (rnd (updTidV j)) (b32.val e.v.1)
  let s := s.putState j (updW j + 2 * i) 2 old.1 nw.1
  let s := s.putState j (updM j + 2 * i) 2 old.2.1 nm.1
  let s := if updAdam j then s.putState j (updV j + 2 * i) 2 old.2.2 nv.1 else s
  (s, { t.wrote e.u.1 x old.1 nw with
    mrep := t.mrep.add (outReport 2 (some (b32.val e.m.1)) nm.1 nm.2),
    vrep := t.vrep.add (outReport 2 (some (b32.val e.v.1)) nv.1 nv.2) })

/-- One element of an UPDATE. `dec`: the factors of its row's missed steps. -/
def State.updElem (s : State) (j : EJob) (q : UReq) (i : Nat) (old : Nat × Nat × Nat) (g : Nat) (dec : Option (F32 × F32 × F32))
    (t : UTally) : State × UTally × Bool :=
  let bad (t : UTally) : State × UTally × Bool := (s, { t.keep old.1 with bad := t.bad + 1 }, false)
  let t := { t.took g old with flags := t.flags ||| tookFlags g old }
  match l16In g, l16In old.1, l16In old.2.1, l16In old.2.2 with
  | some g, some w, some m, some v =>
    let (w, m, v) := match dec with
      | some f => (fMul w f.1, fMul m f.2.1, if updAdam j then fMul v f.2.2 else v)
      | none => (w, m, v)
    let e := q.pre.foldl uStep (updEnv q g w m v)
    let e := q.post.foldl uStep (updApply j q e)
    if b32.isFinite e.u.1 ∧ b32.isFinite e.m.1 ∧ b32.isFinite e.w.1 ∧ (!updAdam j ∨ b32.isFinite e.v.1) then
      let (s, t) := s.writeBack j i e old t
      (s, { t with flags := t.flags ||| e.fl }, true)
    else bad { t with flags := t.flags ||| e.fl }
  | _, _, _, _ => bad t

/-- One row of an UPDATE: frozen, untouched, or updated element by element, with its counter (R225, R228). -/
def State.updRow (s : State) (j : EJob) (q : UReq) (bss : List (List Byte)) (r : Nat) (t : UTally) : State × UTally :=
  let wd := updWidth j
  let el (i k : Nat) : Nat := fld (bss.getD i []) (2 * k) 2
  let olds (k : Nat) : Nat × Nat × Nat := (el 0 k, el 2 k, if updAdam j then el 4 k else 0)
  let all := (List.range wd).map fun c => r * wd + c
  let cnt := fld (bss.getD (if updAdam j then 5 else 4) []) (4 * r) 4
  let touched := fldBits (bss.getD (if updAdam j then 6 else 5) []) (r / 8) 1 (r % 8) (r % 8) = 1
  if s.rowFrozen j.d (updTidW j) (updRow0 j + r) then (s, { all.foldl (fun t k => t.keep (el 0 k)) t with frozen := t.frozen + wd })
  else if updLazy j ∧ !touched then (s, all.foldl (fun t k => t.keep (el 0 k)) t)
  else
    let dec := if updLazy j ∧ cnt ≠ 0xFFFFFFFF then some (missed j q (j.step.toNat - cnt - 1)) else none
    let (s, t, any) := all.foldl (fun (acc : State × UTally × Bool) k =>
      let (s, t, ok) := acc.1.updElem j q k (olds k) (el 1 k) dec acc.2.1
      (s, t, acc.2.2 || ok)) (s, t, false)
    (if updLazy j ∧ any then s.putState j (updAux j + 4 * r) 4 cnt j.step.toNat else s, t)

/-- What an update reports for its master weights (R215, R36). -/
def UTally.master (t : UTally) : Report :=
  { Report.none with elems := t.elems, lost := t.lost, amax := t.amax, poison := t.bad, clips := t.clips, zeros := t.zeros }

/-- The R59 chunk nodes of squares over a shard's elements, whose first has logical index `i0` (R467). -/
def chunkNodes (tid : Nat) (wsq : Bool) (i0 : Nat) (xs : List Nat) : List (Nat × Bool × Nat × Nat × Word) :=
  (chunks16 xs).mapIdx fun k ch => (tid, wsq, 0, i0 / 16 + k, BitVec.ofNat 32 (chunkSumF ch).1)

/-- The flags of the sums of a tally's chunks (R48). -/
def UTally.sumFlags (t : UTally) : FpFlags :=
  ((chunks16 t.usq).map chunkSumF ++ (chunks16 t.wsq).map chunkSumF).foldl (fun f x => f ||| x.2) 0

/-- The chunk nodes of an update's USQ and WSQ. -/
def UTally.nodes (t : UTally) (j : EJob) : List (Nat × Bool × Nat × Nat × Word) :=
  let i0 := updRow0 j * updWidth j
  chunkNodes (updTidW j) false i0 t.usq ++ chunkNodes (updTidW j) true i0 t.wsq

/-- UPDATE. -/
def runUpdate (s : State) (j : EJob) : State × EAns :=
  if j.step.toNat < updS0 j then (s, EAns.code rcBadArg)
  else if s.reg j.d Reg.UPD_LR_STEP ≠ j.step then (s.setF j.d .UPD_ERR_LRSTEP 1, EAns.code rcFault)
  else if updRule j = 3 then (s.setF j.d .UPD_ERR_BADREQ 1, EAns.code rcBadArg)
  else
    let n := 2 * updN j
    let v := if updAdam j then [(updV j, n)] else []
    let cnt := if updLazy j then [(updAux j, 4 * updRows j)] else []
    let bm := if updLazy j then [(updBitmap j, cdiv (updRows j) 8)] else []
    s.engineRun j ([(updW j, n), (updG j, n), (updM j, n), (updPblk j, 256)] ++ v ++ cnt ++ bm ++ s.freezeRanges j)
      ([(updW j, n), (updM j, n)] ++ v ++ cnt) (tracked := true) (run := fun s bss =>
      let q := updReq s j (bss.getD 3 [])
      if (q.pre.any (uIllegal false (updGn j))) ∨ (q.post.any (uIllegal true (updGn j))) then
        (s.setF j.d .UPD_ERR_BADREQ 1, EAns.code rcBadArg)
      else
        let (s, t) := (List.range (updRows j)).foldl (fun (acc : State × UTally) r => acc.1.updRow j q bss r acc.2)
          (s, { UTally.zero with flags := q.etaWd.2 ||| q.oneB1.2 ||| q.oneB2.2 })
        let s := s.sage j.d (updTidW j) none t.master
        let s := if j.tid = updTidW j then s else s.sage j.d j.tid none { Report.none with amax := t.amax }
        let s := s.sage j.d (updTidM j) none t.mrep
        let s := if updAdam j then s.sage j.d (updTidV j) none t.vrep else s
        let s := s.sageNodes j.d (t.nodes j)
        let s := if t.bad = 0 then s else s.setF j.d .UPD_ERR_NONFINITE 1
        let s := s.countF j.d (dieCtr 31) t.bad j.bytes
        let s := s.countF j.d (dieCtr 32) t.frozen j.bytes
        let s := s.countF j.d (dieCtr 33) t.lost j.bytes
        (s, { EAns.code rcOk with fpx := t.flags ||| t.sumFlags, detail := [t.back, t.frozen, t.bad], work := t.back }))

/-! WCOPY and GNORM (R209, R210). -/

/-- WCOPY: the working copy at AUX. -/
def runWcopy (s : State) (j : EJob) : State × EAns :=
  let n := updN j; let f := updWfmt j
  let len := if f = 5 then cdiv n 2 else n * fmtBytes f
  s.engineRun j [(updW j, 2 * n)] [(updAux j, len)] fun s bss =>
    let conv (i : Nat) : Nat × FpFlags × Report :=
      let v := fld (bss.getD 0 []) (2 * i) 2
      let x := l16Val v
      if f = 2 then (v, 0, outReport 2 x v false)
      else if f = 3 then let r := l16ToB16 v; (r.1, r.2.1, outReport 3 x r.1 r.2.2)
      else match x with
        | none => (0, 0, outReport 0 none 0 false)
        | some y =>
          let sc := scaleOf (updWscale j)
          let w := if f = 5 then 4 else if f = 0 then 8 else 16
          if sc.zero then (0, 0, outReport 0 x 0 (decide (y ≠ 0)))
          else let q := satQ w (roundInt .rne (y / sc.val)); (lowBits w q.1, 0, outReport 0 x (lowBits w q.1) q.2)
    let cs := (List.range n).map conv
    let bytes := if f = 5 then (List.range (cdiv n 2)).map fun i =>
        BitVec.ofNat 8 ((cs.getD (2 * i) (0, 0, Report.none)).1 + 16 * (cs.getD (2 * i + 1) (0, 0, Report.none)).1)
      else cs.flatMap fun c => natLe (fmtBytes f) c.1
    let s := s.writeRange (updAux j) bytes
    let rep := cs.foldl (fun a c => a.add c.2.2) Report.none
    (s.sage j.d j.tid none { rep with amax := 0 },
      { EAns.code rcOk with fpx := cs.foldl (fun f c => f ||| c.2.1) 0, detail := [n, 0, 0], work := n })

/-- GNORM: the chunk nodes of the sum of squares of the gradient, to AUX. -/
def runGnorm (s : State) (j : EJob) : State × EAns :=
  let n := updN j
  s.engineRun j [(updG j, 2 * n)] [(updAux j, 4 * cdiv n 16)] fun s bss =>
    let sq := (List.range n).map fun i =>
      let g := l16ToB32 (fld (bss.getD 0 []) (2 * i) 2)
      let r := b32.mul .tiesToEven g.1 g.1
      (r.1, g.2.1 ||| r.2)
    let nodes := (chunks16 (sq.map (·.1))).map chunkSumF
    let clips := ((List.range n).map fun i => l16Clip (fld (bss.getD 0 []) (2 * i) 2)).sum
    let s := if clips = 0 then s else s.sage j.d j.tid none (clipReport clips)
    (s.writeRange (updAux j) (nodes.flatMap fun x => natLe 4 x.1),
      { EAns.code rcOk with fpx := nodes.foldl (fun f x => f ||| x.2) (sq.foldl (fun f x => f ||| x.2) 0), detail := [0, 0, 0] })

/-! Orthogonalised momentum (R220, R221). Operands of its passes: log 33. -/

/-- The whole tensor's rows over its columns, at least 1 (R220). -/
def State.orthoGam (s : State) (j : EJob) : F32 :=
  let rows := match s.job with
    | some x => match x.tensor (updTidW j) with | some t => t.dims.getD 0 (updRows j) | none => updRows j
    | none => updRows j
  let r := fDiv (fPure (toB32 (rows : Rat))) (fPure (toB32 (updWidth j : Rat)))
  fSqrt (fOp (b32.minMax true) fOne r)

/-! What PHASE 0 keeps of an element for the later phases (R220, R222): t0-t7 and G as the PRE program left them; G is a NaN for an
element that PHASE 0 skipped. -/

def orthoKey (j : EJob) (i : Nat) : Nat :=
  (j.d * 2 ^ 24 + updTidW j) * 2 ^ 40 + (updRow0 j * updWidth j + i) % 2 ^ 40

def State.orthoKeep (s : State) (j : EJob) (i : Nat) (ts : List F32) (g : Nat) : State :=
  { s with ortho := Store.set [] s.ortho (orthoKey j i) ((ts.map (·.1) ++ [g]).map (BitVec.ofNat 32)) }

def State.orthoDrop (s : State) (j : EJob) (i : Nat) : State := { s with ortho := Store.set [] s.ortho (orthoKey j i) [] }

/-- The kept temporaries and G of an element; none when no PHASE 0 kept any. -/
def State.orthoKept (s : State) (j : EJob) (i : Nat) : Option (List F32 × Nat) :=
  match Store.get [] s.ortho (orthoKey j i) with
  | [] => none
  | ws => some ((ws.take 8).map (fun w => (w.toNat, 0)), (ws.getD 8 0).toNat)

/-- x of an element from its stored moment (R220): that moment, or with NESTEROV fma(beta1, m', G); a frozen element's gradient is
discarded (R228), and a skipped element has none. -/
def State.orthoX (s : State) (j : EJob) (q : UReq) (i m g : Nat) : Option F32 :=
  match l16In m with
  | none => none
  | some m =>
    if s.rowFrozen j.d (updTidW j) (updRow0 j + i / updWidth j) then some m
    else match s.orthoKept j i with
    | some k => if !b32.isFinite k.2 then none else some (if updNesterov j then fFma q.b1 m (fPure k.2) else m)
    | none => if updNesterov j then (l16In g).map fun g => fFma q.b1 m g else some m

/-- The measuring or converting pass over exact values (R221): MEASURE writes the amax partial, otherwise the Q16 codes
under make_scale(AMX), with what they report. -/
def orthoQ16 (j : EJob) (amx : Nat) (xs : List (Option Rat)) : List Byte × Report :=
  if updMeasure j then (natLe 2 ((xs.map fun x => amaxL16 (x.getD 0)).foldl l16Max 0), Report.none)
  else
    let sc := makeScale ((l16Val amx).getD 0) 0x1000 32767 false
    let cs := xs.map fun x => match x with
      | some x => storeVal 1 sc .rne x
      | none => Stored.poison 1
    (cs.flatMap fun c => natLe 2 c.code, reportAll 1 cs)

/-- The exact value of a finite binary32 result; a NaN or an infinity has none. -/
def f32Val (x : F32) : Option Rat := if b32.isFinite x.1 then some (b32.val x.1) else none

/-- A Q16 element's value rounded once to binary32. -/
def q16B32 (sc : Nat) (v : Nat) : F32 := b32.round .tiesToEven ((sx 16 v : Rat) * (scaleOf sc).val)

/-- The values of a pass of PHASE 1, 2 or 3; none is POISON. PHASE 2 takes the scale words of the product's two matrices from c0
and c1 and the power of two that divides it from c2; PHASE 3 takes those of A and B from c0 and c1 (log 33). -/
def orthoVals (s : State) (j : EJob) (q : UReq) (pb : List Byte) (bss : List (List Byte)) : List (Option Rat) × FpFlags :=
  let n := updN j
  let el (b i : Nat) : Nat := fld (bss.getD b []) (2 * i) 2
  let con (i : Nat) : Nat := q.c.getD i 0
  match updPhase j with
  | 1 =>
    let fn := fAdd (fPure (fld pb 196 4)) q.eps
    let xs := (List.range n).map fun i => (s.orthoX j q i (el 2 i) (el 1 i)).map fun x => fDiv x fn
    (xs.map fun x => x.bind f32Val, xs.foldl (fun f x => f ||| (x.map (·.2)).getD 0) 0)
  | 2 =>
    let unit : Rat := (scaleOf (con 0)).val * (scaleOf (con 1)).val * pow2 (-((con 2 % 64 : Nat) : Int))
    ((List.range n).map fun i =>
      let v := fld (bss.getD 1 []) (16 * i) 16
      if v.testBit 127 then none else some ((sx 127 v : Rat) * unit), 0)
  | _ =>
    let xs := (List.range n).map fun i =>
      let a := q16B32 (con 0) (el 1 i)
      let b := q16B32 (con 1) (el 2 i)
      let diag := decide (updRow0 j + i / updWidth j = i % updWidth j)
      fFma (fPure 0x40400000) b (fFma (fPure 0xC1200000) a (fPure (if diag then 0x41700000 else 0)))
    (xs.map f32Val, xs.foldl (fun f x => f ||| x.2) 0)

/-- ORTHO PHASE 0: the momentum, stored with SR, and the nodes of the sum of x squared, to which a skipped element adds nothing. -/
def orthoMomentum (s : State) (j : EJob) (q : UReq) (bss : List (List Byte)) : State × EAns :=
  let n := updN j
  let key := j.key (updTidM j) (fldBits j.desc 3 1 7 5) 1 (fldBits j.desc 3 1 4 0)
  let one (acc : State × List Nat × UTally) (i : Nat) : State × List Nat × UTally :=
    let (s, xs, t) := acc
    let g := fld (bss.getD 1 []) (2 * i) 2; let om := fld (bss.getD 2 []) (2 * i) 2; let ow := fld (bss.getD 0 []) (2 * i) 2
    let square (s : State) (m : Nat) (t : UTally) : State × List Nat × UTally :=
      match s.orthoX j q i m g with
      | some x => let y := fMul x x; (s, xs ++ [y.1], { t with flags := t.flags ||| y.2, mrep := t.mrep.add (clipReport (l16Clip m)) })
      | none => (s, xs ++ [0], t)
    if s.rowFrozen j.d (updTidW j) (updRow0 j + i / updWidth j) then square (s.orthoDrop j i) om { t with frozen := t.frozen + 1 }
    else
      let t := { t.took g (ow, om, 0) with flags := t.flags ||| tookFlags g (ow, om, 0) }
      let skip (t : UTally) : State × List Nat × UTally :=
        (s.orthoKeep j i (List.replicate 8 (0, 0)) b32.qNaN, xs ++ [0], { t with bad := t.bad + 1 })
      match l16In g, l16In om, l16In ow with
      | some g, some m, some w =>
        let e := q.pre.foldl uStep (updEnv q g w m (0, 0))
        let m := fFma q.b1 m e.g
        let t := { t with flags := t.flags ||| e.fl ||| m.2 }
        if b32.isFinite m.1 ∧ b32.isFinite e.g.1 then
          let nm := toL16 (key.rnd ((updRow0 j * updWidth j + i) % 2 ^ 40)) (b32.val m.1)
          let s := (s.orthoKeep j i e.t e.g.1).putState j (updM j + 2 * i) 2 om nm.1
          square s nm.1 { t with back := t.back + 1, mrep := t.mrep.add (outReport 2 (some (b32.val m.1)) nm.1 nm.2) }
        else skip t
      | _, _, _ => skip t
  let (s, xs, t) := (List.range n).foldl one (s, [], UTally.zero)
  let nodes := (chunks16 xs).map chunkSumF
  let s := s.writeRange (updAux j) (nodes.flatMap fun x => natLe 4 x.1)
  let s := if t.bad = 0 then s else s.setF j.d .UPD_ERR_NONFINITE 1
  let s := s.sage j.d (updTidM j) none t.mrep
  let s := if t.clips = 0 then s else s.sage j.d (updTidW j) none (clipReport t.clips)
  (s, { EAns.code rcOk with fpx := nodes.foldl (fun f x => f ||| x.2) t.flags, detail := [t.back, t.frozen, t.bad], work := t.back })

/-- ORTHO PHASE 4: the update of every element from X, whose scale is make_scale(AMX), with the POST program over what PRE left, and
the write-back. An element that PHASE 0 skipped is skipped. -/
def orthoApply (s : State) (j : EJob) (q : UReq) (amx : Nat) (bss : List (List Byte)) : State × EAns :=
  let gam := s.orthoGam j
  let sc := makeScale ((l16Val amx).getD 0) 0x1000 32767 false
  let one (acc : State × UTally) (i : Nat) : State × UTally :=
    let (s, t) := acc
    let ow := fld (bss.getD 0 []) (2 * i) 2; let om := fld (bss.getD 2 []) (2 * i) 2
    let kept := (s.orthoKept j i).getD (List.replicate 8 (0, 0), 0)
    let s := s.orthoDrop j i
    if s.rowFrozen j.d (updTidW j) (updRow0 j + i / updWidth j) then (s, { t.keep ow with frozen := t.frozen + 1 })
    else
      let t := { t.took 0 (ow, om, 0) with flags := t.flags ||| tookFlags 0 (ow, om, 0) }
      match l16In ow, l16In om with
      | some w, some m =>
        let o := q16B32 sc (fld (bss.getD 1 []) (2 * i) 2)
        let u := fFma q.etaWd w (fMul q.eta (fMul gam o))
        let e := { updEnv q (fPure kept.2) w m (0, 0) with t := kept.1, u := u, fl := u.2 }
        let e := q.post.foldl uStep e
        let t := { t with flags := t.flags ||| e.fl }
        if b32.isFinite e.u.1 ∧ b32.isFinite kept.2 then
          let ix := (updRow0 j * updWidth j + i) % 2 ^ 40
          let x := b32.val w.1 - b32.val e.u.1
          let nw := toL16 ((j.key (updTidW j) (fldBits j.desc 3 1 7 5) 1 (fldBits j.desc 3 1 4 0)).rnd ix) x
          (s.putState j (updW j + 2 * i) 2 ow nw.1, t.wrote e.u.1 x ow nw)
        else (s, { t.keep ow with bad := t.bad + 1 })
      | _, _ => (s, { t.keep ow with bad := t.bad + 1 })
  let (s, t) := (List.range (updN j)).foldl one (s, UTally.zero)
  let s := s.sage j.d (updTidW j) none t.master
  let s := if j.tid = updTidW j then s else s.sage j.d j.tid none { Report.none with amax := t.amax }
  let s := if t.mrep.clips = 0 then s else s.sage j.d (updTidM j) none (clipReport t.mrep.clips)
  let s := s.sageNodes j.d (t.nodes j)
  let s := if t.bad = 0 then s else s.setF j.d .UPD_ERR_NONFINITE 1
  let s := s.countF j.d (dieCtr 31) t.bad j.bytes
  let s := s.countF j.d (dieCtr 32) t.frozen j.bytes
  let s := s.countF j.d (dieCtr 33) t.lost j.bytes
  (s, { EAns.code rcOk with fpx := t.flags ||| t.sumFlags, detail := [t.back, t.frozen, t.bad], work := t.back })

/-- ORTHO: one pass of the orthogonalised-momentum rule. -/
def runOrtho (s : State) (j : EJob) : State × EAns :=
  let n := updN j; let ph := updPhase j
  if j.step.toNat < updS0 j then (s, EAns.code rcBadArg)
  else if s.reg j.d Reg.UPD_LR_STEP ≠ j.step then (s.setF j.d .UPD_ERR_LRSTEP 1, EAns.code rcFault)
  else
    let gb := if ph = 2 then 16 * n else 2 * n
    let rdW := if ph = 0 ∨ ph = 4 then (updW j, 2 * n) else (updPblk j, 0)
    let rdM := if ph = 2 then (updPblk j, 0) else (updM j, 2 * n)
    let wr := if ph = 0 then [(updM j, 2 * n), (updAux j, 4 * cdiv n 16)]
      else if ph = 4 then [(updW j, 2 * n)] else [(updAux j, if updMeasure j then 2 else 2 * n)]
    s.engineRun j ([rdW, (updG j, gb), rdM, (updPblk j, 256)] ++ (if ph = 0 ∨ ph = 1 ∨ ph = 4 then s.freezeRanges j else [])) wr (tracked := true) (run := fun s bss =>
      let pb := bss.getD 3 []
      let q := updReq s j pb
      if (ph = 0 ∧ q.pre.any (uIllegal false (updGn j))) ∨ (ph = 4 ∧ q.post.any (uIllegal true (updGn j))) then
        (s.setF j.d .UPD_ERR_BADREQ 1, EAns.code rcBadArg)
      else if ph = 0 then orthoMomentum s j q bss
      else if ph = 4 then orthoApply s j q (fld pb 200 2) bss
      else
        let (xs, f) := orthoVals s j q pb bss
        let o := orthoQ16 j (fld pb 200 2) xs
        let s := if updMeasure j then s else s.sage j.d j.tid none o.2
        let cm := if ph = 1 then ((List.range n).map fun i => l16Clip (fld (bss.getD 2 []) (2 * i) 2)).sum else 0
        let s := if cm = 0 then s else s.sage j.d (updTidM j) none (clipReport cm)
        (s.writeRange (updAux j) o.1, { EAns.code rcOk with fpx := f, detail := [0, 0, 0] }))

/-! PCOMMIT and the staging deltas (R230, R231, R257). -/

/-- A staged unit enters its parity unit, atomically, and is cleared. -/
def State.commitUnit (s : State) (h src r : Nat) : State :=
  let a := s.stgAddr src r 0
  let pu := dpa h 0 (s.parBase + r * 4096)
  let (s, ok, st) := s.readRange a 4096
  if ok then
    let (s, _, old) := s.readRange pu 4096
    let s := s.writeRange pu (xorBytes old st)
    { s with mem := Store.clear s.mem a (a + 4096) }
  else s

/-- A parity die applies a source's PCOMMIT and records it; answers whether the partition held no delta of another layer or
step. -/
def State.commitAt (s : State) (h src layer step : Nat) : State × Bool :=
  let p := s.part h src
  if (p.tag.isSome ∧ p.tag ≠ some (layer, step)) ∨ p.mixed then (s, false)
  else
    let s := p.touched.foldl (fun s r => s.commitUnit h src r) s
    let s := s.setPart h src StgPart.clear
    let s := (s.setReg h Reg.UPD_COMMIT_STEP (BitVec.ofNat 32 step)).setReg h Reg.UPD_COMMIT_LAYER (BitVec.ofNat 32 layer)
    (s.count h (dieCtr 34) 1, true)

/-- The dies that hold parity for a layer's units of a source (R231): those to which the layout gives the parity of a unit of the layer's
tensors, and those that stage the layer's deltas or mixed ones. -/
def State.layerHolders (s : State) (src layer : Nat) : List Nat :=
  let laid (h : Nat) : Bool := match s.job with
    | none => false
    | some b => (Config.persistRanges b.groupPlan s.stripe src).any fun r =>
        ((b.tensor r.1).map (·.layer)).getD 0 == layer &&
          (unitPieces r.2.2.2 (r.2.2.1 * b.storedBytes r.1)).any fun u => (s.parMap src u.1).2 == h
  s.stripe.filter fun h => h != src && (let p := s.part h src; p.mixed || p.tag.map (·.1) == some layer || laid h)

/-- PCOMMIT: after the source's last delta, every die that holds the layer's parity commits. -/
def runPcommit (s : State) (j : EJob) : State × EAns :=
  let mine := s.deltas.filter fun x => x.src = j.d
  let s := mine.foldl State.deliver { s with deltas := s.deltas.filter fun x => x.src ≠ j.d }
  let (s, ok) := (s.layerHolders j.d (hdrLayer j.bytes)).foldl (fun (acc : State × Bool) h =>
    let (s, ok) := acc.1.commitAt h j.d (hdrLayer j.bytes) j.step.toNat
    (s, acc.2 && ok)) (s, true)
  let done := { s with edge := { s.edge with committed := s.edge.committed ++ [(j.d, hdrLayer j.bytes)] } }
  if ok then (done, EAns.code rcOk) else (s.setF j.d .UPD_ERR_PARITY 1, EAns.code rcFault)

/-- An update that reruns after an abort does not touch a layer that its die has committed (R382), and none runs for a layer
to which no micro-batch contributes (R216, R372). -/
def rerunSafe (run : State → EJob → State × EAns) (s : State) (j : EJob) : State × EAns :=
  let empty := match s.job with | some b => b.noneContribute (hdrLayer j.bytes) | none => false
  if (s.edge.rerun && s.edge.committed.contains (j.d, hdrLayer j.bytes)) || empty then (s, EAns.code rcOk) else run s j

/-- UPDATE (R212); the row also refuses a reserved OP. -/
def execUpdate (d : CDie) (s : State) : Out :=
  .next <| acceptRequest d .upd true (fun o => o < 2 ∨ 5 < o) .UPD_ERR_BADREQ updLegal (rerunSafe runUpdate) s
/-- WCOPY (R210). -/
def execWcopy (d : CDie) (s : State) : Out :=
  .next <| acceptRequest d .upd true (fun o => o = 2) .UPD_ERR_BADREQ updLegal runWcopy s
/-- GNORM (Table 8.2). -/
def execGnorm (d : CDie) (s : State) : Out :=
  .next <| acceptRequest d .upd true (fun o => o = 3) .UPD_ERR_BADREQ updLegal runGnorm s
/-- ORTHO (R220). -/
def execOrtho (d : CDie) (s : State) : Out :=
  .next <| acceptRequest d .upd true (fun o => o = 4) .UPD_ERR_BADREQ updLegal (rerunSafe runOrtho) s
/-- PCOMMIT (R231). -/
def execPcommit (d : CDie) (s : State) : Out :=
  .next <| acceptRequest d .upd true (fun o => o = 5) .UPD_ERR_BADREQ updLegal (rerunSafe runPcommit) s

/-- STAGING_DELTA (R257): the oldest delta of a source on its way to a holder reaches the staging area. -/
def execStagingDelta (src holder : CDie) (s : State) : Out :=
  .next <|
    if s.frozen || !s.reaches src [holder.val] then s
    else match s.deltas.find? fun x => x.src = src.val ∧ x.holder = holder.val with
    | some x => { s with deltas := s.deltas.erase x }.deliver x
    | none => s

end Sys2Proof.Machine
end

