-- ==== Sys2Proof/Machine/Dispatch.lean ====
section
/-! DEFINITION. The meaning of every command: one arm for each row of spec/opcode_table.json. -/

namespace Sys2Proof.Machine

/-- The effect of a command on everything but the queue. -/
def exec (i : Instr) (s : State) : Host.Outcome State Fault Refusal :=
  match i with
  | .registerWrite ag d off val hwSet hwClr => Sys2Proof.Machine.execRegisterWrite ag d off val hwSet hwClr s
  | .counterLowerRead ag d off => Sys2Proof.Machine.execCounterLowerRead ag d off s
  | .counterUpperRead ag d off => Sys2Proof.Machine.execCounterUpperRead ag d off s
  | .bridgeWireFail bridge dir group wire => Sys2Proof.Machine.execBridgeWireFail bridge dir group wire s
  | .issueUnitPlace d p a => Sys2Proof.Machine.execIssueUnitPlace d p a s
  | .arrLds d p a => Sys2Proof.Machine.execArrLds d p a s
  | .arrMm d p a => Sys2Proof.Machine.execArrMm d p a s
  | .arrDrain d p a => Sys2Proof.Machine.execArrDrain d p a s
  | .arrRamp d p a => Sys2Proof.Machine.execArrRamp d p a s
  | .arrWait d p a => Sys2Proof.Machine.execArrWait d p a s
  | .arrSwap d p a => Sys2Proof.Machine.execArrSwap d p a s
  | .accLoad d p a => Sys2Proof.Machine.execAccLoad d p a s
  | .accStore d p a => Sys2Proof.Machine.execAccStore d p a s
  | .slotAccessStart d p a => Sys2Proof.Machine.execSlotAccessStart d p a s
  | .stationaryColumnWrite d p a => Sys2Proof.Machine.execStationaryColumnWrite d p a s
  | .streamedRowIssue d p a => Sys2Proof.Machine.execStreamedRowIssue d p a s
  | .passTokenFlip d p a col => Sys2Proof.Machine.execPassTokenFlip d p a col s
  | .passResultWrite d p a col => Sys2Proof.Machine.execPassResultWrite d p a col s
  | .drainComplete d p a => Sys2Proof.Machine.execDrainComplete d p a s
  | .rampStep d p a => Sys2Proof.Machine.execRampStep d p a s
  | .idleHoldExpiry d p a => Sys2Proof.Machine.execIdleHoldExpiry d p a s
  | .operandWatchdog d p a => Sys2Proof.Machine.execOperandWatchdog d p a s
  | .outlierSideAdd d p a rec entry row slot wsrc rstride q4 k nm1 => Sys2Proof.Machine.execOutlierSideAdd d p a rec entry row slot wsrc rstride q4 k nm1 s
  | .arrCommand d p => Sys2Proof.Machine.execArrCommand d p s
  | .dmaCommand d p => Sys2Proof.Machine.execDmaCommand d p s
  | .dmaTransferStart d p => Sys2Proof.Machine.execDmaTransferStart d p s
  | .dmaTransferComplete d p q => Sys2Proof.Machine.execDmaTransferComplete d p q s
  | .engCommand d p => Sys2Proof.Machine.execEngCommand d p s
  | .queSend d p => Sys2Proof.Machine.execQueSend d p s
  | .sendReceive d p cq remoteAccepts => Sys2Proof.Machine.execSendReceive d p cq remoteAccepts s
  | .syncBarrier d p => Sys2Proof.Machine.execSyncBarrier d p s
  | .syncWaitq d p => Sys2Proof.Machine.execSyncWaitq d p s
  | .scl d p => Sys2Proof.Machine.execScl d p s
  | .movi d p rd imm => Sys2Proof.Machine.execMovi d p rd imm s
  | .add d p rd ra rb => Sys2Proof.Machine.execAdd d p rd ra rb s
  | .sub d p rd ra rb => Sys2Proof.Machine.execSub d p rd ra rb s
  | .and d p rd ra rb => Sys2Proof.Machine.execAnd d p rd ra rb s
  | .or d p rd ra rb => Sys2Proof.Machine.execOr d p rd ra rb s
  | .shl d p rd ra rb => Sys2Proof.Machine.execShl d p rd ra rb s
  | .shr d p rd ra rb => Sys2Proof.Machine.execShr d p rd ra rb s
  | .fadd d p rd ra rb f16 rm => Sys2Proof.Machine.execFadd d p rd ra rb f16 rm s
  | .fmul d p rd ra rb f16 rm => Sys2Proof.Machine.execFmul d p rd ra rb f16 rm s
  | .ffma d p rd ra rb rc f16 rm => Sys2Proof.Machine.execFfma d p rd ra rb rc f16 rm s
  | .fcvt d p rd ra f16 rm => Sys2Proof.Machine.execFcvt d p rd ra f16 rm s
  | .ld32 d p rd ra off => Sys2Proof.Machine.execLd32 d p rd ra off s
  | .st32 d p rd ra off => Sys2Proof.Machine.execSt32 d p rd ra off s
  | .ldtag d p rd ra off => Sys2Proof.Machine.execLdtag d p rd ra off s
  | .ctxStep d p => Sys2Proof.Machine.execCtxStep d p s
  | .scheduleFetch d p => Sys2Proof.Machine.execScheduleFetch d p s
  | .sprigFault d p => Sys2Proof.Machine.execSprigFault d p s
  | .sprigDisable d p => Sys2Proof.Machine.execSprigDisable d p s
  | .queueDisable d p q => Sys2Proof.Machine.execQueueDisable d p q s
  | .drainTimeout t => Sys2Proof.Machine.execDrainTimeout t s
  | .drainEnd t => Sys2Proof.Machine.execDrainEnd t s
  | .sprigEnable d p => Sys2Proof.Machine.execSprigEnable d p s
  | .queueEnable d p q => Sys2Proof.Machine.execQueueEnable d p q s
  | .cancelledCompletionWrite d p => Sys2Proof.Machine.execCancelledCompletionWrite d p s
  | .eventQueueFullService d p ev => Sys2Proof.Machine.execEventQueueFullService d p ev s
  | .engineDisable d e => Sys2Proof.Machine.execEngineDisable d e s
  | .engineEnable d e => Sys2Proof.Machine.execEngineEnable d e s
  | .engineCompletion d e => Sys2Proof.Machine.execEngineCompletion d e s
  | .chervilRequest d => Sys2Proof.Machine.execChervilRequest d s
  | .fwd d => Sys2Proof.Machine.execFwd d s
  | .delta d => Sys2Proof.Machine.execDelta d s
  | .bwd d => Sys2Proof.Machine.execBwd d s
  | .emuMm d e => Sys2Proof.Machine.execEmuMm d e s
  | .rms d => Sys2Proof.Machine.execRms d s
  | .ln d => Sys2Proof.Machine.execLn d s
  | .rmsBwd d => Sys2Proof.Machine.execRmsBwd d s
  | .lnBwd d => Sys2Proof.Machine.execLnBwd d s
  | .gather d => Sys2Proof.Machine.execGather d s
  | .scatter d => Sys2Proof.Machine.execScatter d s
  | .fin d => Sys2Proof.Machine.execFin d s
  | .move d => Sys2Proof.Machine.execMove d s
  | .update d => Sys2Proof.Machine.execUpdate d s
  | .wcopy d => Sys2Proof.Machine.execWcopy d s
  | .gnorm d => Sys2Proof.Machine.execGnorm d s
  | .ortho d => Sys2Proof.Machine.execOrtho d s
  | .pcommit d => Sys2Proof.Machine.execPcommit d s
  | .stagingDelta src holder => Sys2Proof.Machine.execStagingDelta src holder s
  | .contrib d => Sys2Proof.Machine.execContrib d s
  | .xreduce d peers failed => Sys2Proof.Machine.execXreduce d peers failed s
  | .recred d peers failed => Sys2Proof.Machine.execRecred d peers failed s
  | .ring d failed => Sys2Proof.Machine.execRing d failed s
  | .permute d failed => Sys2Proof.Machine.execPermute d failed s
  | .gpdelta d => Sys2Proof.Machine.execGpdelta d s
  | .bcast d failed => Sys2Proof.Machine.execBcast d failed s
  | .ridHoldExpiry l => Sys2Proof.Machine.execRidHoldExpiry l s
  | .fenceTimeout rid missing => Sys2Proof.Machine.execFenceTimeout rid missing s
  | .governorDecide => Sys2Proof.Machine.execGovernorDecide s
  | .tick d => Sys2Proof.Machine.execTick d s
  | .barrierRelease id mx mn => Sys2Proof.Machine.execBarrierRelease id mx mn s
  | .barrierTimeout id => Sys2Proof.Machine.execBarrierTimeout id s
  | .phaseSwitch ends => Sys2Proof.Machine.execPhaseSwitch ends s
  | .variantBuild key parts => Sys2Proof.Machine.execVariantBuild key parts s
  | .memoryRead d sp off upset => Sys2Proof.Machine.execMemoryRead d sp off upset s
  | .partialWrite d sp off data upset => Sys2Proof.Machine.execPartialWrite d sp off data upset s
  | .scrubBurst d upsets => Sys2Proof.Machine.execScrubBurst d upsets s
  | .sramScrubBurst d upsets => Sys2Proof.Machine.execSramScrubBurst d upsets s
  | .parityRegeneration first last => Sys2Proof.Machine.execParityRegeneration first last s
  | .requestUrgent arb req => Sys2Proof.Machine.execRequestUrgent arb req s
  | .bar4Access l off wr len => Sys2Proof.Machine.execBar4Access l off wr len s
  | .bar0Access l off wr len allBytes => Sys2Proof.Machine.execBar0Access l off wr len allBytes s
  | .configRequest l req => Sys2Proof.Machine.execConfigRequest l req s
  | .frameSend pt slot => Sys2Proof.Machine.execFrameSend pt slot s
  | .idleFrame pt frame fecOk => Sys2Proof.Machine.execIdleFrame pt frame fecOk s
  | .dataFrame pt frame fecOk time => Sys2Proof.Machine.execDataFrame pt frame fecOk time s
  | .thymeSyncFrame pt frame fecOk times => Sys2Proof.Machine.execThymeSyncFrame pt frame fecOk times s
  | .thymeSyncSend pt => Sys2Proof.Machine.execThymeSyncSend pt s
  | .barrierFrame pt frame fecOk msg => Sys2Proof.Machine.execBarrierFrame pt frame fecOk msg s
  | .stopFrame pt frame fecOk stopId target => Sys2Proof.Machine.execStopFrame pt frame fecOk stopId target s
  | .laneRepairFrame pt frame fecOk lane codeword => Sys2Proof.Machine.execLaneRepairFrame pt frame fecOk lane codeword s
  | .laneWeak pt lane => Sys2Proof.Machine.execLaneWeak pt lane s
  | .laneFail pt lane => Sys2Proof.Machine.execLaneFail pt lane s
  | .ackTimeout pt => Sys2Proof.Machine.execAckTimeout pt s
  | .retrain pt => Sys2Proof.Machine.execRetrain pt s
  | .portUp pt peerMod peerPort => Sys2Proof.Machine.execPortUp pt peerMod peerPort s
  | .retrainTimeout pt => Sys2Proof.Machine.execRetrainTimeout pt s
  | .portRetry pt => Sys2Proof.Machine.execPortRetry pt s
  | .ethernetFrame pt frame fcsOk => Sys2Proof.Machine.execEthernetFrame pt frame fcsOk s
  | .injectionEnable pt val => Sys2Proof.Machine.execInjectionEnable pt val s
  | .go l c seq => Sys2Proof.Machine.execGo l c seq s
  | .ack l c val => Sys2Proof.Machine.execAck l c val s
  | .clr l c => Sys2Proof.Machine.execClr l c s
  | .poisonedTlp l c => Sys2Proof.Machine.execPoisonedTlp l c s
  | .requestTake l c => Sys2Proof.Machine.execRequestTake l c s
  | .eventPost l c => Sys2Proof.Machine.execEventPost l c s
  | .completionEvent tag => Sys2Proof.Machine.execCompletionEvent tag s
  | .heartbeat => Sys2Proof.Machine.execHeartbeat s
  | .getInfo l c => Sys2Proof.Machine.execGetInfo l c s
  | .evtMask l c => Sys2Proof.Machine.execEvtMask l c s
  | .cancel l c => Sys2Proof.Machine.execCancel l c s
  | .jobLoad l c plan => Sys2Proof.Machine.execJobLoad l c plan s
  | .jobStart l c => Sys2Proof.Machine.execJobStart l c s
  | .jobEnd l c => Sys2Proof.Machine.execJobEnd l c s
  | .jobStatus l c => Sys2Proof.Machine.execJobStatus l c s
  | .reshard l c => Sys2Proof.Machine.execReshard l c s
  | .dataAppend l c => Sys2Proof.Machine.execDataAppend l c s
  | .sagePin l c => Sys2Proof.Machine.execSagePin l c s
  | .sageUnpin l c => Sys2Proof.Machine.execSageUnpin l c s
  | .sageSetRules l c => Sys2Proof.Machine.execSageSetRules l c s
  | .freezeSet l c => Sys2Proof.Machine.execFreezeSet l c s
  | .ckptSave l c => Sys2Proof.Machine.execCkptSave l c s
  | .dma l c descs hostData => Sys2Proof.Machine.execDma l c descs hostData s
  | .replayStep l c => Sys2Proof.Machine.execReplayStep l c s
  | .jrnRead l c => Sys2Proof.Machine.execJrnRead l c s
  | .gstop l c => Sys2Proof.Machine.execGstop l c s
  | .gresume l c => Sys2Proof.Machine.execGresume l c s
  | .scanout l c failed => Sys2Proof.Machine.execScanout l c failed s
  | .authChallenge l c => Sys2Proof.Machine.execAuthChallenge l c s
  | .authResponse l c => Sys2Proof.Machine.execAuthResponse l c s
  | .authEnd l c => Sys2Proof.Machine.execAuthEnd l c s
  | .powerCap l c => Sys2Proof.Machine.execPowerCap l c s
  | .warmReset l c => Sys2Proof.Machine.execWarmReset l c s
  | .fwStage l c => Sys2Proof.Machine.execFwStage l c s
  | .fwActivate l c fault => Sys2Proof.Machine.execFwActivate l c fault s
  | .dieTransactionTimeout d p q target => Sys2Proof.Machine.execDieTransactionTimeout d p q target s
  | .dieProbeTimeout d => Sys2Proof.Machine.execDieProbeTimeout d s
  | .moduleLost m => Sys2Proof.Machine.execModuleLost m s
  | .mirrorHeartbeat => Sys2Proof.Machine.execMirrorHeartbeat s
  | .mirrorHeartbeatTimeout => Sys2Proof.Machine.execMirrorHeartbeatTimeout s
  | .mailboxAcceptedTimeout l c => Sys2Proof.Machine.execMailboxAcceptedTimeout l c s
  | .failoverTimeout => Sys2Proof.Machine.execFailoverTimeout s
  | .stepTimeout => Sys2Proof.Machine.execStepTimeout s
  | .stepAbort => Sys2Proof.Machine.execStepAbort s
  | .writeAck pt frame => Sys2Proof.Machine.execWriteAck pt frame s
  | .data pt frame => Sys2Proof.Machine.execData pt frame s
  | .nack pt frame => Sys2Proof.Machine.execNack pt frame s
  | .transferTimeout => Sys2Proof.Machine.execTransferTimeout s
  | .por inRange => Sys2Proof.Machine.execPor inRange s
  | .modrst low => Sys2Proof.Machine.execModrst low s
  | .therm assert => Sys2Proof.Machine.execTherm assert s
  | .warm k => Sys2Proof.Machine.execWarm k s
  | .modwdog => Sys2Proof.Machine.execModwdog s
  | .ctlwdog k release => Sys2Proof.Machine.execCtlwdog k release s
  | .dswdog d release => Sys2Proof.Machine.execDswdog d release s
  | .perst l => Sys2Proof.Machine.execPerst l s
  | .softwareReset d bits => Sys2Proof.Machine.execSoftwareReset d bits s
  | .releaseStep trained => Sys2Proof.Machine.execReleaseStep trained s
  | .stackTrainTimeout d => Sys2Proof.Machine.execStackTrainTimeout d s
  | .refclkSwitch finished => Sys2Proof.Machine.execRefclkSwitch finished s
  | .thymeSyncWord d drift => Sys2Proof.Machine.execThymeSyncWord d drift s
  | .droopTrip d deep => Sys2Proof.Machine.execDroopTrip d deep s
  | .stretchEpisodeEnd d stillTripped => Sys2Proof.Machine.execStretchEpisodeEnd d stillTripped s
  | .droopClear d => Sys2Proof.Machine.execDroopClear d s
  | .powerCapIteration => Sys2Proof.Machine.execPowerCapIteration s
  | .freqSlewStep => Sys2Proof.Machine.execFreqSlewStep s
  | .energySample d rail stack input activity => Sys2Proof.Machine.execEnergySample d rail stack input activity s
  | .clear => Sys2Proof.Machine.execClear s
  | .filterWrite k off val => Sys2Proof.Machine.execFilterWrite k off val s
  | .breakpointArm k val => Sys2Proof.Machine.execBreakpointArm k val s
  | .stop k val => Sys2Proof.Machine.execStop k val s
  | .resume k val => Sys2Proof.Machine.execResume k val s
  | .dbgStopN => Sys2Proof.Machine.execDbgStopN s
  | .stopFreeze => Sys2Proof.Machine.execStopFreeze s
  | .resumeTime => Sys2Proof.Machine.execResumeTime s
  | .authExpiry => Sys2Proof.Machine.execAuthExpiry s
  | .challengeExpiry => Sys2Proof.Machine.execChallengeExpiry s
  | .lockoutExpiry => Sys2Proof.Machine.execLockoutExpiry s
  | .i3cDynamicAddress addr => Sys2Proof.Machine.execI3cDynamicAddress addr s
  | .setEndpointId eid => Sys2Proof.Machine.execSetEndpointId eid s
  | .getEndpointId => Sys2Proof.Machine.execGetEndpointId s
  | .getEndpointUuid => Sys2Proof.Machine.execGetEndpointUuid s
  | .getMctpVersionSupport msgType => Sys2Proof.Machine.execGetMctpVersionSupport msgType s
  | .getMessageTypeSupport => Sys2Proof.Machine.execGetMessageTypeSupport s
  | .getTid => Sys2Proof.Machine.execGetTid s
  | .setTid tid => Sys2Proof.Machine.execSetTid tid s
  | .getPldmVersion pldmType => Sys2Proof.Machine.execGetPldmVersion pldmType s
  | .getPldmTypes => Sys2Proof.Machine.execGetPldmTypes s
  | .getPldmCommands pldmType => Sys2Proof.Machine.execGetPldmCommands pldmType s
  | .getPdrRepositoryInfo => Sys2Proof.Machine.execGetPdrRepositoryInfo s
  | .getPdr handle => Sys2Proof.Machine.execGetPdr handle s
  | .getSensorReading sensor => Sys2Proof.Machine.execGetSensorReading sensor s
  | .getStateSensorReadings sensor => Sys2Proof.Machine.execGetStateSensorReadings sensor s
  | .setEventReceiver eid => Sys2Proof.Machine.execSetEventReceiver eid s
  | .setNumericEffecterValue effecter value => Sys2Proof.Machine.execSetNumericEffecterValue effecter value s
  | .getNumericEffecterValue effecter => Sys2Proof.Machine.execGetNumericEffecterValue effecter s
  | .getFruRecordTableMetadata => Sys2Proof.Machine.execGetFruRecordTableMetadata s
  | .getFruRecordTable => Sys2Proof.Machine.execGetFruRecordTable s
  | .queryDeviceIdentifiers => Sys2Proof.Machine.execQueryDeviceIdentifiers s
  | .getFirmwareParameters => Sys2Proof.Machine.execGetFirmwareParameters s
  | .requestUpdate => Sys2Proof.Machine.execRequestUpdate s
  | .passComponentTable req => Sys2Proof.Machine.execPassComponentTable req s
  | .updateComponent size => Sys2Proof.Machine.execUpdateComponent size s
  | .activateFirmware fault => Sys2Proof.Machine.execActivateFirmware fault s
  | .getStatus => Sys2Proof.Machine.execGetStatus s
  | .cancelUpdateComponent => Sys2Proof.Machine.execCancelUpdateComponent s
  | .cancelUpdate => Sys2Proof.Machine.execCancelUpdate s
  | .getVersion => Sys2Proof.Machine.execGetVersion s
  | .getCapabilities => Sys2Proof.Machine.execGetCapabilities s
  | .negotiateAlgorithms req => Sys2Proof.Machine.execNegotiateAlgorithms req s
  | .getDigests => Sys2Proof.Machine.execGetDigests s
  | .getCertificate slot offset length => Sys2Proof.Machine.execGetCertificate slot offset length s
  | .challenge slot nonce => Sys2Proof.Machine.execChallenge slot nonce s
  | .getMeasurements index => Sys2Proof.Machine.execGetMeasurements index s
  | .bypass => Sys2Proof.Machine.execBypass s
  | .idcode => Sys2Proof.Machine.execIdcode s
  | .samplePreload => Sys2Proof.Machine.execSamplePreload s
  | .extest => Sys2Proof.Machine.execExtest s
  | .clamp => Sys2Proof.Machine.execClamp s
  | .highz => Sys2Proof.Machine.execHighz s
  | .testLogicReset => Sys2Proof.Machine.execTestLogicReset s
  | .perstRelease l => Sys2Proof.Machine.execPerstRelease l s
  | .mirrorSyncComplete => Sys2Proof.Machine.execMirrorSyncComplete s
  | .portEnable pt val => Sys2Proof.Machine.execPortEnable pt val s
  | .temperatureWarnCrossing d temp => Sys2Proof.Machine.execTemperatureWarnCrossing d temp s
  | .stackHot d hot => Sys2Proof.Machine.execStackHot d hot s
  | .hostLinkError l => Sys2Proof.Machine.execHostLinkError l s
  | .stackLoss d => Sys2Proof.Machine.execStackLoss d s
  | .linkDieFailure l => Sys2Proof.Machine.execLinkDieFailure l s
  | .unsupportedManagementMessage protocol code => Sys2Proof.Machine.execUnsupportedManagementMessage protocol code s
  | .firmwareDataResponse offset piece => Sys2Proof.Machine.execFirmwareDataResponse offset piece s

end Sys2Proof.Machine
end

