-- ==== Sys2Proof/Machine/Idle.lean ====
section
/-! DEFINITION. What a nanosecond without a command does (R262, R414, R415, R426; log 2). -/

namespace Sys2Proof.Machine

/-- Every arbiter with urgent requests grants the oldest of them, whose age restarts (R262; log 109). -/
def grantOldest (now : Nat) (ws : List ArbWait) : List ArbWait :=
  match ((ws.filter (·.urgent)).map (·.since)).min? with
  | none => ws
  | some t =>
    match ws.find? fun x => x.urgent && decide (x.since = t) with
    | none => ws
    | some x => (ws.erase x) ++ [{ x with since := now, urgent := false }]

/-- Thyme advances by one nanosecond: 16 units of 1/16 ns of the count that the dies hold copies of (R414). -/
def State.idle (s : State) : State :=
  let s := { s with now := s.now + 1 }
  if s.frozen ∨ s.edge.arbs.isEmpty then s
  else { s with edge := { s.edge with arbs := s.edge.arbs.map fun x => (x.1, grantOldest s.now x.2) } }

end Sys2Proof.Machine
end

