-- ==== Sys2Proof/Safety.lean ====
section
/-! DEFINITION. What claims are stated in terms of: the canonical form of a state's stores, and what it means that a command
completes. -/

namespace Sys2Proof.Machine

/-- Memory in canonical form: addresses strictly rising, no entry equal to what an unlisted address reads as (log 4). -/
def Memory.wf (m : Store Byte) : Bool := Store.wf 0 m

/-- The stores of an array in canonical order; accepted instructions are numbered below the next number, and a load has a
column left to write. -/
def Arr.canonical (x : Arr) : Bool :=
  Store.sorted x.cells && Store.sorted x.modes && Store.sorted x.tokens && Store.sorted x.tags &&
    x.accepted.all fun j => decide (j.seq < x.seq) && (j.opc != opLds || decide (j.pos < 32))

/-- The stores of a sprig, and of its arrays, in canonical order; commands in flight are numbered below the next number. -/
def Sprig.canonical (x : Sprig) : Bool :=
  Store.sorted x.gprs && Store.sorted x.queues && Store.sorted x.arrs && (x.arrs.all fun y => y.2.canonical) &&
    x.cmds.all fun c => decide (c.id < x.nextCmd)

/-- The stores of firmware, Fennel and the resets in canonical order. -/
def State.edgeCanonical (s : State) : Bool :=
  Store.sorted s.edge.fnl.waits && Store.sorted s.banks && Store.sorted s.cache && Store.sorted s.gov.vectors &&
    Store.sorted s.gov.scales && Store.sorted s.gov.amax && Store.sorted s.gov.reduced && Store.sorted s.gov.quiet &&
    Store.sorted s.edge.trainTries && Store.sorted s.edge.sramPos && Store.sorted s.edge.tickLens && Store.sorted s.embPois &&
    Store.sorted s.ortho && Store.sorted s.edge.aer && Store.sorted s.edge.msixTab

/-- The canonical form of a state's stores: keys strictly rising everywhere, and in memory, the counters and the repair
record no entry that equals what an unlisted key reads as. A run never leaves it; a read after a write gives what was
written only in it. -/
def State.canonical (s : State) : Bool :=
  Memory.wf s.mem && Store.wf 0 s.counters && Store.wf 0 s.repair && Store.sorted s.regs && Store.sorted s.acc &&
    Store.sorted s.ecc && Store.sorted s.sprigs && (s.sprigs.all fun y => y.2.canonical) && Store.sorted s.engines &&
    Store.sorted s.chans && Store.sorted s.evMask && Store.sorted s.msix && Store.sorted s.supIrq && Store.sorted s.parts &&
    Store.sorted s.wires && Store.sorted s.edge.ports && Store.sorted s.edge.dieSamples &&
    s.edgeCanonical

/-- A command completes: it answers a next state, of which `P` holds. -/
def Completes (i : Instr) (s : State) (P : State → Prop) : Prop := ∃ t, exec i s = .next t ∧ P t

/-! Register writes (R8-R11). -/

/-- A register whose write has no effect but on its own fields: no reset bit, no enable, doorbell, stop or capture, and
no internal channel of a die supervisor. -/
def plainAt (d off : Nat) : Bool :=
  !(decide (off = Reg.RST_BLK_SRST) || decide (0xE0000 ≤ off ∧ off < 0xE8000) || decide (off = Reg.ECC_LOG0) ||
      decide (0x2000000 ≤ off ∧ off % 0x10000 / 0x400 = 1 ∧ off % 0x100 = 0x10)) &&
    (if d < 16 then
      if 0x2000000 ≤ off then
        decide (off < 0x2000000 + 272 * 0x10000) && decide (off % 0x10000 ≠ 0) &&
          !(decide (off % 0x10000 / 0x1000 = 2) && (decide (off % 0x40 = 0) || decide (off % 0x40 = 8)))
      else (engineAt off).isNone
    else if d < 18 then
      !(decide (0xB0000 ≤ off ∧ off < 0xB2000) && (decide (off % 0x400 = 0) || decide (off % 0x400 = 0x20)))
    else
      (mbxOf d off).isNone && !([Reg.RST_WARM, Reg.CNT_CTL, Reg.CNT_FLT_LAYER, Reg.CNT_FLT_OPER, Reg.CNT_FLT_MBID,
        Reg.DBG_STOP_CTL, Reg.DBG_BP_ID, Reg.DBG_BP_CTL, Reg.DBG_BP_STEP].contains off))

/-- One bit after a write, by its field's access code (Table 0.4, R10, R11): `old` what it held, `v` what is written,
`hs` and `hc` whether hardware sets or clears it in the same cycle; `legal`: the written encoding is not reserved. -/
def writtenBit (acc : Acc) (onControl legal old v hs hc : Bool) : Bool :=
  match acc with
  | .rw => if legal then v else old
  | .rwK => if onControl && legal then v else old
  | .w1c => (old && !v) || hs
  | .w1s => (old && !hc) || v
  | .ro | .wo | .rsvd => old

/-- The encoding that a write gives to a field is not reserved (R11). -/
def State.legalWrite (s : State) (d off : Nat) (v : Word) (f : RegField) : Bool :=
  s.legalTogether d off v f && (f.legal.isEmpty || f.legal.any fun r => decide (r.1 ≤ bits v f.hi f.lo ∧ bits v f.hi f.lo ≤ r.2))

/-! Counter reads (R12). -/

/-- A read of one word of a counter by another agent than `ag`. -/
def readByOther (ag : Agent) : Instr → Bool
  | .counterLowerRead b _ _ => decide (b ≠ ag)
  | .counterUpperRead b _ _ => decide (b ≠ ag)
  | _ => false

/-- What a list of commands leaves, each run on what the one before it left. -/
def State.after (s : State) : List Instr → State
  | [] => s
  | c :: l => match exec c s with
    | .next t => t.after l
    | _ => s

/-! Memory (R248, R251). -/

/-- Every codeword that a range touches is stored as it was encoded. -/
def State.clean (s : State) (a n : Nat) : Bool := (cwsOf a n).all fun c => decide (s.dev c = [])

/-- Memory, accumulators and their codewords are as before; those of a queue's places (space 4) follow its entries. -/
def SameStores (s t : State) : Prop :=
  t.mem = s.mem ∧ t.acc = s.acc ∧ ∀ c, dpaSpace c < 4 → Store.get [] t.ecc c = Store.get [] s.ecc c

/-- An accumulator word lies in a codeword stored as it was encoded. -/
def State.accClean (s : State) (d p a slot e : Nat) : Bool := decide (s.dev (accDpa d p a (slot * 256 + e)) = [])

/-! Accumulators (R99, R100, R103-R107). -/

/-- The element that a load leaves in a slot that held `old`: the loaded element, or with ADD their sum. -/
def loadedElem (m : Nat) (add : Bool) (old x : Elem) : Elem :=
  if !add then x
  else if modeFloat m then (mergeElem 96 old x).elem
  else { old with w := old.w + x.w, poison := old.poison || x.poison }

/-- The byte of sprig SRAM at which a load's or store's element `i`, of row `r` and column `col`, lies. -/
def loadAt (d p : Nat) (w : AWord) (i r col : Nat) : Nat :=
  sramDpa d p (if accKind w = 0 then 32 * (ldSrc w + r * ldRstride w) + col * fmtBytes (accFmt w) else 32 * ldSrc w + 16 * i)

/-- The element that a load reads there. -/
def State.loadSource (s : State) (d p : Nat) (w : AWord) (i r col : Nat) : Elem :=
  if accKind w = 0 then loadElem (awMode w) (accFmt w) (leNat (s.bytes (loadAt d p w i r col) (fmtBytes (accFmt w))))
  else spillOf (modeFloat (awMode w)) (leNat (s.bytes (loadAt d p w i r col) 16))

def storeAt (d p : Nat) (w : AWord) (i r col : Nat) : Nat :=
  sramDpa d p (if accKind w = 0 then 32 * (stDst w + r * stRstride w) + col * fmtBytes (accFmt w) else 32 * stDst w + 16 * i)

/-- The spill entry that a store adds to element `i`. -/
def spillAt (d p : Nat) (w : AWord) (i : Nat) : Nat :=
  sramDpa d p ((if accKind w = 0 then 32 * stSpsrc w else 32 * stDst w) + 16 * i)

/-- What a store writes for element `i`: the converted code, or the spill entry. -/
def State.storedBytes (s : State) (d p a : Nat) (w : AWord) (c : Conv) (i r col slot e : Nat) : List Byte :=
  let fl := modeFloat (awMode w)
  let x := s.elem d p a slot e
  let g := if (accKind w = 0 ∧ stSpadd w) ∨ accKind w = 2 then
      (spillAdd fl (spillOf fl (leNat (s.bytes (spillAt d p w i) 16))) x).elem
    else x
  if accKind w = 0 then natLe (fmtBytes (accFmt w)) (c.store (awMode w) (accFmt w) (stIbase w + r * c.irow + col) g).1
  else natLe 16 (g.spill fl)

/-! Queues and completions (R155-R162). -/

/-- An event queue of a sprig takes an entry at once. -/
def State.eventRoom (s : State) (d p q : Nat) : Bool :=
  !s.offline d p && !(s.que d p q).full && (s.que d p q).accepts && !((s.spr d p).stalled.any fun x => x.q = q)

/-- The codewords of a queue's head entry are stored as they were encoded. -/
def State.headClean (s : State) (d p q : Nat) : Bool :=
  let a := queDpa d p q (s.que d p q).head
  decide (s.dev a = [] ∧ s.dev (a + 32) = [])

/-- The entry that a queue holds after a producer wrote these bytes. -/
def written (bytes : List Byte) : QEntry := { bytes := bytes, tick := 0, cmd := 0 }

/-- A command in flight after its dispatch from queue `q`. -/
def State.flight (s : State) (d p q : Nat) (b : List Byte) (left : Nat) : Cmd :=
  { id := (s.spr d p).nextCmd, q := q, bytes := b, step := (s.reg d (Reg.SPRG_STEP p)).toNat, left := left, fail := none }

/-! Frames (R307, R309). -/

/-- A frame whose CRC, TYPE, VER and LEN are good. -/
def goodFrame (f : List Byte) : Bool :=
  BitVec.ofNat 32 (fld f 504 4) == crc32 (slice f 0 504) && decide (frType f ≤ 5) && (frVer f == 4 || frVer f == 3) &&
    decide (frLen f ≤ 488)

/-- The frames of a retry buffer that an ACK leaves there. -/
def stillUnacked (ack : Nat) (retry : List (Nat × List Byte)) : List (Nat × List Byte) :=
  retry.filter fun r => decide (0 < seqAfter r.1 ack ∧ seqAfter r.1 ack ≤ 4096)

/-! Engine requests (R177-R181). -/

/-- A row that serves requests: the die, the engine, whether a request carries the common frame, the OPs that the row takes,
the field that a malformed request sets, what is well formed, and what runs. -/
structure Service where
  d : CDie
  e : EngineId
  framed : Bool
  mine : Nat → Bool
  bad : Fld
  legal : EJob → Bool
  run : State → EJob → State × EAns

/-- The rows of the engines of chapters 7 and 8. A reserved OP is served, and refused, by its engine's first row. -/
def service : Instr → Option Service
  | .chervilRequest d => some ⟨d, .chv, false, fun _ => true, .CHV_ERR_BADREQ, chvLegal, runChervil⟩
  | .fwd d => some ⟨d, .ats, true, fun o => !([2, 3, 0x10].contains o), .ENG_ERR_BADREQ 0, atsLegal, runFwd⟩
  | .delta d => some ⟨d, .ats, true, fun o => o = 2, .ENG_ERR_BADREQ 0, atsLegal, runDelta⟩
  | .bwd d => some ⟨d, .ats, true, fun o => o = 3, .ENG_ERR_BADREQ 0, atsLegal, runBwd⟩
  | .rms d => some ⟨d, .nrm, true, fun o => !([2, 3, 4, 0x10].contains o), .ENG_ERR_BADREQ 1, nrmLegal, runNormFwd⟩
  | .ln d => some ⟨d, .nrm, true, fun o => o = 2, .ENG_ERR_BADREQ 1, nrmLegal, runNormFwd⟩
  | .rmsBwd d => some ⟨d, .nrm, true, fun o => o = 3, .ENG_ERR_BADREQ 1, nrmLegal, runNormBwd⟩
  | .lnBwd d => some ⟨d, .nrm, true, fun o => o = 4, .ENG_ERR_BADREQ 1, nrmLegal, runNormBwd⟩
  | .gather d => some ⟨d, .emb, true, fun o => !([2, 3, 0x10].contains o), .ENG_ERR_BADREQ 2, embLegal, runGather⟩
  | .scatter d => some ⟨d, .emb, true, fun o => o = 2, .ENG_ERR_BADREQ 2, embLegal, runScatter⟩
  | .fin d => some ⟨d, .emb, true, fun o => o = 3, .ENG_ERR_BADREQ 2, embLegal, runFin⟩
  | .move d => some ⟨d, .lay, true, fun o => o ≠ 0x10, .ENG_ERR_BADREQ 3, layLegal, runMove⟩
  | .update d => some ⟨d, .upd, true, fun o => !([2, 3, 4, 5].contains o), .UPD_ERR_BADREQ, updLegal, rerunSafe runUpdate⟩
  | .wcopy d => some ⟨d, .upd, true, fun o => o = 2, .UPD_ERR_BADREQ, updLegal, runWcopy⟩
  | .gnorm d => some ⟨d, .upd, true, fun o => o = 3, .UPD_ERR_BADREQ, updLegal, runGnorm⟩
  | .ortho d => some ⟨d, .upd, true, fun o => o = 4, .UPD_ERR_BADREQ, updLegal, rerunSafe runOrtho⟩
  | .pcommit d => some ⟨d, .upd, true, fun o => o = 5, .UPD_ERR_BADREQ, updLegal, rerunSafe runPcommit⟩
  | .emuMm d .ats => some ⟨d, .ats, true, fun o => o = 0x10, .ENG_ERR_BADREQ 0, emuLegal, runEmu⟩
  | .emuMm d .nrm => some ⟨d, .nrm, true, fun o => o = 0x10, .ENG_ERR_BADREQ 1, emuLegal, runEmu⟩
  | .emuMm d .emb => some ⟨d, .emb, true, fun o => o = 0x10, .ENG_ERR_BADREQ 2, emuLegal, runEmu⟩
  | .emuMm d .lay => some ⟨d, .lay, true, fun o => o = 0x10, .ENG_ERR_BADREQ 3, emuLegal, runEmu⟩
  | _ => none

/-- An engine has taken the request at the head of its queue of physical sprig `p`, which runs logical sprig `l`. -/
def State.engineTakes (s : State) (d p l : Nat) (e : EngineId) : State :=
  let s := s.popQ d p (48 + engIx e)
  s.setEng d e { s.eng d e with last := some l }

/-- The request that an engine takes: with SPRG_STEP as its command sampled it, and the sprig's seed (R178). -/
def State.requestOf (s : State) (d p : Nat) (q : QEntry) (desc : List Byte) : EJob :=
  { d := d, p := p, id := q.cmd, bytes := q.bytes, opr := slice q.bytes 16 48, desc := desc,
    step := match s.cmd d p q.cmd with | some c => BitVec.ofNat 32 c.step | none => s.reg d (Reg.SPRG_STEP p),
    seed := s.reg d (Reg.SPRG_SEED_HI p) ++ s.reg d (Reg.SPRG_SEED_LO p) }

/-- The rows of Fennel: the die, the OPs a row takes, and what runs. -/
structure FennelService where
  d : CDie
  mine : Nat → Bool
  run : State → EJob → State × FRes

def fennelService : Instr → Option FennelService
  | .contrib d => some ⟨d, fun o => !([2, 3, 4, 5, 6, 7].contains o), runContrib⟩
  | .xreduce d peers failed => some ⟨d, fun o => o = 2, runXreduce peers failed⟩
  | .recred d peers failed => some ⟨d, fun o => o = 3, runRecred peers failed⟩
  | .ring d failed => some ⟨d, fun o => o = 4, runRing failed⟩
  | .permute d failed => some ⟨d, fun o => o = 5, runPermute failed⟩
  | .gpdelta d => some ⟨d, fun o => o = 6, runGpdelta⟩
  | .bcast d failed => some ⟨d, fun o => o = 7, runBcast failed⟩
  | _ => none

/-! MCI commands (R346-R352, Table 12.7). -/

/-- A row of an MCI command: link, channel, opcode, and what the command does once its request is taken. -/
structure MciService where
  l : KDie
  c : Chan
  op : Nat
  run : State → List Word → Nat → State × Mci

def mciService : Instr → Option MciService
  | .getInfo l c => some ⟨l, c, 0x01, State.runGetInfo⟩
  | .evtMask l c => some ⟨l, c, 0x02, State.runEvtMask l⟩
  | .cancel l c => some ⟨l, c, 0x03, State.runCancel⟩
  | .jobLoad l c plan => some ⟨l, c, 0x10, State.runJobLoad plan⟩
  | .jobStart l c => some ⟨l, c, 0x11, State.runJobStart⟩
  | .jobEnd l c => some ⟨l, c, 0x12, State.runJobEnd⟩
  | .jobStatus l c => some ⟨l, c, 0x13, State.runJobStatus⟩
  | .reshard l c => some ⟨l, c, 0x14, State.runReshard⟩
  | .dataAppend l c => some ⟨l, c, 0x15, State.runDataAppend⟩
  | .sagePin l c => some ⟨l, c, 0x20, State.runSagePin⟩
  | .sageUnpin l c => some ⟨l, c, 0x21, State.runSageUnpin⟩
  | .sageSetRules l c => some ⟨l, c, 0x22, State.runSageSetRules⟩
  | .freezeSet l c => some ⟨l, c, 0x23, State.runFreezeSet⟩
  | .ckptSave l c => some ⟨l, c, 0x30, State.runCkptSave⟩
  | .dma l c descs host => some ⟨l, c, 0x40, State.runDma descs host⟩
  | .replayStep l c => some ⟨l, c, 0x50, State.runReplayStep⟩
  | .jrnRead l c => some ⟨l, c, 0x51, State.runJrnRead⟩
  | .gstop l c => some ⟨l, c, 0x60, State.runGstop⟩
  | .gresume l c => some ⟨l, c, 0x61, State.runGresume⟩
  | .scanout l c failed => some ⟨l, c, 0x62, State.runScanout failed⟩
  | .authChallenge l c => some ⟨l, c, 0x63, State.runAuthChallenge⟩
  | .authResponse l c => some ⟨l, c, 0x64, State.runAuthResponse⟩
  | .authEnd l c => some ⟨l, c, 0x65, State.runAuthEnd⟩
  | .powerCap l c => some ⟨l, c, 0x70, State.runPowerCap⟩
  | .fwStage l c => some ⟨l, c, 0x80, State.runFwStage⟩
  | .fwActivate l c fault => some ⟨l, c, 0x81, State.runFwActivate fault⟩
  | _ => none

/-- What MBX_ACK shows of an answer: DONE and ACCEPTED, the code, the echoed SEQ (R349). -/
def ackWord (code seq : Nat) : Word := BitVec.ofNat 32 (3 * 2 ^ 30 + code % 256 * 65536 + seq % 65536)

/-! Frames. -/

/-- Rows of the host links, channels, clocks, observation, management and TAP that reach nothing of the sprigs, the engines, the
memory or the job. -/
def apart : Instr → Bool
  | .configRequest .. | .counterLowerRead .. | .counterUpperRead .. | .thymeSyncSend _ | .injectionEnable .. | .requestUrgent .. => true
  | .go .. | .ack .. | .clr .. | .poisonedTlp .. | .requestTake .. | .eventPost .. | .completionEvent _ | .heartbeat => true
  | .mirrorHeartbeat | .mirrorHeartbeatTimeout | .mailboxAcceptedTimeout .. | .perstRelease _ => true
  | .refclkSwitch _ | .thymeSyncWord .. | .droopTrip .. | .stretchEpisodeEnd .. | .droopClear _ | .powerCapIteration => true
  | .freqSlewStep | .energySample .. | .temperatureWarnCrossing .. | .stackHot .. | .hostLinkError _ => true
  | .filterWrite .. | .breakpointArm .. | .stop .. | .resume .. | .dbgStopN | .stopFreeze => true
  | .authExpiry | .challengeExpiry | .lockoutExpiry | .i3cDynamicAddress _ | .setEndpointId _ | .getEndpointId => true
  | .getEndpointUuid | .getMctpVersionSupport _ | .getMessageTypeSupport | .getTid | .setTid _ | .getPldmVersion _ => true
  | .getPldmTypes | .getPldmCommands _ | .getPdrRepositoryInfo | .getPdr _ | .getSensorReading _ => true
  | .getStateSensorReadings _ | .setEventReceiver _ | .setNumericEffecterValue .. | .getNumericEffecterValue _ => true
  | .getFruRecordTableMetadata | .getFruRecordTable | .queryDeviceIdentifiers | .getFirmwareParameters | .requestUpdate => true
  | .passComponentTable _ | .updateComponent _ | .activateFirmware _ | .getStatus | .cancelUpdateComponent => true
  | .cancelUpdate | .getVersion | .getCapabilities | .negotiateAlgorithms _ | .getDigests | .getCertificate .. => true
  | .challenge .. | .getMeasurements _ | .unsupportedManagementMessage .. | .firmwareDataResponse .. => true
  | .bypass | .idcode | .samplePreload | .extest | .clamp | .highz | .testLogicReset => true
  | _ => false

end Sys2Proof.Machine
end

