-- ==== Sys2Proof/Certificates/Slice0/Obligations.lean ====
section
/-! DEFINITION. The statements for the provers, about the model's commands, in terms of Sys2Proof.Safety. -/

open Sys2Proof Sys2Proof.Machine

/-- A step takes the command at the front of the queue and runs it with the rest of the queue. -/
def Obligations.StepRunsFrontCommand : Prop :=
  ∀ (c : Instr) (rest : List Instr) (s : State), s.pending = c :: rest → step s = exec c { s with pending := rest }

/-- With nothing waiting, a step lets Thyme advance by one nanosecond and, while the module is not stopped, lets each arbiter
with urgent requests grant the oldest of them (the model's choices, logs 2 and 109); nothing else changes. -/
def Obligations.EmptyQueueLetsThymeAdvance : Prop :=
  ∀ s : State, s.pending = [] →
    (s.frozen = true ∨ s.edge.arbs = [] → step s = .next { s with now := s.now + 1 }) ∧
    (s.frozen = false → step s = .next { s with
      now := s.now + 1, edge := { s.edge with arbs := s.edge.arbs.map fun x => (x.1, grantOldest (s.now + 1) x.2) } })

/-- Every command completes, and leaves the queue of commands and the inventory record alone. -/
def Obligations.EveryCommandCompletesAndKeepsTheQueue : Prop :=
  ∀ (c : Instr) (s : State), Completes c s fun t => t.pending = s.pending ∧ t.inv = s.inv

/-- The stores of the reset state are in canonical form. -/
def Obligations.CanonicalAtReset : Prop :=
 State.reset.canonical = true

/-- Every step keeps the canonical form of the stores: memory, counters and the repair record list no entry that reads as an
unlisted key does, and every store's keys rise strictly. -/
def Obligations.StepKeepsCanonical : Prop :=
  ∀ s t : State, s.canonical = true → step s = .next t → t.canonical = true

/-- After reset every register holds its Reset column: on each die, at each offset that has a register other than GLB_ROLE of K1
and RST_CAUSE, the value of the register's description (R7); and RST_CAUSE holds POR alone. The control dies show one value of
every register that they share, GLB_ registers but GLB_ROLE among them. -/
def Obligations.RegistersAtResetAndOnBothControlDies : Prop :=
  (∀ (d : Die) (off : RegOff) (r : RegRow), regRow d off.toNat = some r →
    (off.toNat ≠ Reg.GLB_ROLE → off.toNat ≠ Reg.RST_CAUSE → twinShared off.toNat = false →
      State.reset.reg d off.toNat = BitVec.ofNat 32 r.reset) ∧
    (off.toNat = Reg.RST_CAUSE → State.reset.reg d off.toNat = 1) ∧
    State.reset.ctr d off.toNat = 0) ∧
  (∀ (s : State) (off : Nat), off < 0x10000 → off ≠ Reg.GLB_ROLE → s.reg 19 off = s.reg 18 off)

/-- A write to a register that starts nothing acts on each field as its access code says, on that register alone. A capture
whose VALID a write clears records the event that it meets in the same cycle, and with none loses VALID and MORE (R90, R264).
Completes, each with the effect its clause gives: REGISTER_WRITE. -/
def Obligations.RegisterWriteActsByAccessCode : Prop :=
  (∀ (ag : Agent) (d : Die) (off : RegOff) (v hs hc : Word) (cap : Option (Word × Word × Word)) (s : State) (r : RegRow)
    (f : RegField) (i : Nat),
    s.canonical = true → off.toNat % 4 = 0 → plainAt d off.toNat = true → regRow d off.toNat = some r → f ∈ r.fields →
    f.lo ≤ i → i ≤ f.hi →
    Completes (.registerWrite ag d off v ⟨hs, cap⟩ hc) s fun t =>
      (t.reg d off.toNat).getLsbD i =
        writtenBit f.acc (decide (18 ≤ d.val)) (s.legalWrite d off.toNat v f) ((s.reg d off.toNat).getLsbD i) (v.getLsbD i)
          (hs.getLsbD i) (hc.getLsbD i) ∧
      t = s.setReg d off.toNat (t.reg d off.toNat)) ∧
  ∀ (ag : Agent) (d : Die) (off : RegOff) (v hs w0 w1 w2 : Word) (s : State), s.canonical = true → d.val < 16 →
    (off.toNat = Reg.ECC_LOG0 ∨ ∃ (p : Phys) (a : ArrIx), off.toNat = Reg.ARR_FXC0 p a) →
    bit v 31 = true → bit (s.reg d off.toNat) 31 = true →
    Completes (.registerWrite ag d off v ⟨hs, none⟩ 0) s (fun t =>
      bit (t.reg d off.toNat) 31 = false ∧ bit (t.reg d off.toNat) 30 = false) ∧
    Completes (.registerWrite ag d off v ⟨hs, some (w0, w1, w2)⟩ 0) s fun t =>
      t.reg d off.toNat = setBits w0 31 30 2 ∧ t.reg d (off.toNat + 4) = w1 ∧ t.reg d (off.toNat + 8) = w2

/-- A read of a counter's lower word answers the live lower word and latches the upper word for the reader alone (R12). A read
of a counter's upper word answers the reader's latch of that counter and empties it, and otherwise the live upper word; nothing
else changes (R12). A lower read and the upper read of the same counter by the same agent answer the two words of one value,
whatever counters the other agents read in between; each of those reads completes too, and the pair leaves the reader's holding
register empty (R12). Completes, each with the effect its clause gives: COUNTER_LOWER_READ, COUNTER_UPPER_READ. -/
def Obligations.CounterReadsLatchTheUpperWord : Prop :=
  (∀ (ag : Agent) (d : Die) (off : RegOff) (s : State), counterPair d off.toNat = some off.toNat →
    Completes (.counterLowerRead ag d off) s fun t =>
      t.edge.answer = .data (natLe 4 ((s.pairValue d off.toNat).toNat % 2 ^ 32)) ∧
      t.holds.filter (fun h => h.1 = ag) = [(ag, regKey d off.toNat, (s.pairValue d off.toNat >>> 32).setWidth 32)] ∧
      (∀ b, b ≠ ag → t.holds.filter (fun h => h.1 = b) = s.holds.filter fun h => h.1 = b) ∧
      t = { s with holds := t.holds, edge := { s.edge with answer := t.edge.answer } }) ∧
  (∀ (ag : Agent) (d : Die) (off : RegOff) (low : Nat) (s : State), counterPair d off.toNat = some low → low + 4 = off.toNat →
    (∀ v : Word, s.holds.filter (fun h => h.1 = ag) = [(ag, regKey d low, v)] →
      Completes (.counterUpperRead ag d off) s fun t =>
        t.edge.answer = .data (natLe 4 v.toNat) ∧ t.holds = s.holds.filter fun h => h.1 ≠ ag) ∧
    ((∀ h ∈ s.holds, h.1 = ag → h.2.1 ≠ regKey d low) →
      Completes (.counterUpperRead ag d off) s fun t =>
        t.edge.answer = .data (natLe 4 ((s.pairValue d low).toNat / 2 ^ 32)) ∧
        t = { s with edge := { s.edge with answer := t.edge.answer } })) ∧
  (∀ (ag : Agent) (d : Die) (low high : RegOff) (between : List Instr) (s : State),
    counterPair d low.toNat = some low.toNat → counterPair d high.toNat = some low.toNat → high.toNat = low.toNat + 4 →
    (∀ i ∈ between, readByOther ag i = true) →
    Completes (.counterLowerRead ag d low) s fun t =>
      t.edge.answer = .data (natLe 4 ((s.pairValue d low.toNat).toNat % 2 ^ 32)) ∧
      (∀ i ∈ between, ∀ u : State, Completes i u fun v => v = { u with holds := v.holds, edge := { u.edge with answer := v.edge.answer } }) ∧
      Completes (.counterUpperRead ag d high) (t.after between) fun u =>
        u.edge.answer = .data (natLe 4 ((s.pairValue d low.toNat).toNat / 2 ^ 32)) ∧
        (∀ h ∈ u.holds, h.1 ≠ ag) ∧
        u = { s with holds := u.holds, edge := { s.edge with answer := u.edge.answer } })

/-- A one-word access of BAR0 reaches the register of the link's own control die below 16 MiB, and through the window the
register of GLB_BAR0_WIN's die and base. A write through the window to a compute or link die without debug authorization is
discarded and sets GLB_ERR.DENIED. A read changes no register (R342, R343). A BAR0 access that is not whole aligned words with
every byte enabled is unmapped: nothing is read or written, MEM_ERR.UNMAPPED sets on the link's control die, a read is an
Unsupported Request (R468, R235). Completes, each with the effect its clause gives: BAR0_ACCESS. -/
def Obligations.Bar0ReachesRegistersOrIsUnmapped : Prop :=
  (∀ (l : KDie) (off : BitVec 26) (bs : List Byte) (n : Nat) (s : State), s.linkUp l.val = true → s.d3.contains l.val = false →
    off.toNat % 4 = 0 → off.toNat < 0x2000000 → bs.length = 4 →
    let own := off.toNat < 0x1000000
    let die := if own then 18 + l.val else s.getF 18 .GLB_BAR0_WIN_DIE
    let reg := if own then off.toNat else s.getF 18 .GLB_BAR0_WIN_BASE * 2 ^ 24 + (off.toNat - 0x1000000)
    (own ∨ 18 ≤ die ∨ s.authHeld = true →
      Completes (.bar0Access l off (some bs) n true) s fun t =>
        t = (s.regWrite (.host l) die reg (BitVec.ofNat 32 (leNat bs)) 0 0).answered .none) ∧
    (¬ own → die < 18 → s.authHeld = false → s.canonical = true →
      Completes (.bar0Access l off (some bs) n true) s fun t =>
        t.getF 18 .GLB_ERR_DENIED = 1 ∧ t = (s.setF 18 .GLB_ERR_DENIED 1).answered .none) ∧
    Completes (.bar0Access l off none 4 true) s fun t =>
      t.edge.answer = .data (natLe 4 (s.regRead (.host l) die reg).2.toNat) ∧
      t = { s with holds := t.holds, edge := { s.edge with answer := t.edge.answer } }) ∧
  (∀ (l : KDie) (off : BitVec 26) (wr : Option (List Byte)) (len : Nat) (allBytes : Bool) (s : State), s.canonical = true →
    s.linkUp l.val = true → s.d3.contains l.val = false →
    (allBytes = false ∨ off.toNat % 4 ≠ 0 ∨ (match wr with | some bs => bs.length | none => len) % 4 ≠ 0) →
    Completes (.bar0Access l off wr len allBytes) s fun t =>
      t.getF (18 + l.val) .MEM_ERR_UNMAPPED = 1 ∧
      t.edge.answer = (if wr.isSome then .none else .unsupported) ∧
      t = (s.setReg (18 + l.val) Reg.MEM_ERR (t.reg (18 + l.val) Reg.MEM_ERR)).answered t.edge.answer)

/-- A BAR4 access goes to (BASE << 34) + x[33:0] of the slot x[37:34] when the slot is enabled: a write of a mapped range whose
codewords are whole stores exactly its bytes, a read answers the bytes and changes none (R240). A BAR4 access through a disabled
slot, a write through a read-only slot and an access to an unmapped address move no data and set MEM_ERR.UNMAPPED; a read is an
Unsupported Request (R235, R240). Completes, each with the effect its clause gives: BAR4_ACCESS. -/
def Obligations.Bar4ReachesMemoryOrIsUnmapped : Prop :=
  (∀ (l : KDie) (off : BitVec 38) (bs : List Byte) (len : Nat) (s : State), s.canonical = true →
    s.linkUp l.val = true → s.d3.contains l.val = false →
    let n := off.toNat / 2 ^ 34
    let a := s.getF (18 + l.val) (.MEM_AP_SLOT_BASE n) * 2 ^ 34 + off.toNat % 2 ^ 34
    s.flag (18 + l.val) (.MEM_AP_SLOT_EN n) = true →
    (s.flag (18 + l.val) (.MEM_AP_SLOT_RDONLY n) = false → 0 < bs.length → s.hostRange true a bs.length = true →
      s.touchesParity a bs.length = false → s.clean a bs.length = true →
      Completes (.bar4Access l off (some bs) len) s fun t =>
        (∀ i, i < bs.length → t.byte (a + i) = bs.getD i 0) ∧ (∀ x, x < a ∨ a + bs.length ≤ x → t.byte x = s.byte x) ∧
        t.regs = s.regs ∧ t.ecc = s.ecc) ∧
    (0 < len → s.hostRange false a len = true → s.clean a len = true →
      Completes (.bar4Access l off none len) s fun t =>
        t.edge.answer = .data (s.bytes a len) ∧ t.mem = s.mem ∧ t.regs = s.regs)) ∧
  (∀ (l : KDie) (off : BitVec 38) (wr : Option (List Byte)) (len : Nat) (s : State), s.canonical = true →
    s.linkUp l.val = true → s.d3.contains l.val = false →
    let n := off.toNat / 2 ^ 34
    let a := s.getF (18 + l.val) (.MEM_AP_SLOT_BASE n) * 2 ^ 34 + off.toNat % 2 ^ 34
    (s.flag (18 + l.val) (.MEM_AP_SLOT_EN n) = false ∨
      (wr.isSome = true ∧ s.flag (18 + l.val) (.MEM_AP_SLOT_RDONLY n) = true) ∨
      s.hostRange wr.isSome a (match wr with | some bs => bs.length | none => len) = false) →
    Completes (.bar4Access l off wr len) s fun t =>
      t.getF (18 + l.val) .MEM_ERR_UNMAPPED = 1 ∧ t.mem = s.mem ∧ t.ecc = s.ecc ∧
      t.edge.answer = if wr.isSome then .none else .unsupported)

/-- A configuration request answers Request Retry Status until the link's HL bit sets; then the Device ID, the class code and
the serial number of the inventory record, the largest payload and read request, the MSI-X table's size and places, the eight
extended capabilities, and the errors that AER holds until they are cleared; and GLB_ROLE.LINK tells the links apart; D3hot is
entered and left by the power state (R340, R341). Completes, each with the effect its clause gives: CONFIG_REQUEST. -/
def Obligations.ConfigRequestsAnswer : Prop :=
  ∀ (l : KDie) (req : CfgReq) (s : State),
    (s.linkUp l.val = false → Completes (.configRequest l req) s fun t =>
      t = { s with edge := { s.edge with answer := .retry } }) ∧
    (s.linkUp l.val = true →
      (Completes (.configRequest l .deviceId) s fun t => t.edge.answer = .data (natLe 2 0x4820) ∧ t.regs = s.regs) ∧
      (Completes (.configRequest l .classCode) s fun t => t.edge.answer = .data (natLe 3 0x120000) ∧ t.regs = s.regs) ∧
      (Completes (.configRequest l .serial) s fun t => t.edge.answer = .data (natLe 8 s.inv.serial.toNat) ∧ t.regs = s.regs) ∧
      (Completes (.configRequest l (.setPowerState true)) s fun t => t.d3.contains l.val = true) ∧
      (Completes (.configRequest l (.setPowerState false)) s fun t => t.d3.contains l.val = false) ∧
      (Completes (.configRequest l .payload) s fun t => t.edge.answer = .data (natLe 2 512 ++ natLe 2 4096) ∧ t.regs = s.regs) ∧
      (Completes (.configRequest l .msix) s fun t => t.edge.answer = .data (natLe 2 64 ++ natLe 4 0x8000 ++ natLe 4 0xC000) ∧ t.regs = s.regs) ∧
      (Completes (.configRequest l .extCaps) s fun t => ∃ bs : List Byte, bs.length = 16 ∧ t.edge.answer = .data bs ∧ t.regs = s.regs) ∧
      (Completes (.configRequest l .aer) s fun t => t.edge.answer = .data (natLe 1 (Store.get 0 s.edge.aer l).toNat) ∧ t.regs = s.regs) ∧
      (∀ m, s.canonical = true → Completes (.configRequest l (.clearAer m)) s fun t =>
        Store.get 0 t.edge.aer l = Store.get 0 s.edge.aer l &&& ~~~m)) ∧
    State.reset.getF (18 + l.val) .GLB_ROLE_LINK = l.val

/-- The issue unit places the next word of its command in the instruction queue while that holds fewer than eight and no earlier
word of the command waits at another array (R158), and is free after the last one. A legal head of the instruction queue is
accepted: a load joins the stationary feeder's work; a pass that finds the streaming feeder free opens its slots with its mode,
row width and scale tag, an array that is OFF begins to ramp up, and a reversal of UP is withdrawn (the ARR_RAMP that asked for
it retires); a drain closes its slots and marks them draining. No accumulator word, no byte of memory and no register changes.
Completes, each with the effect its clause gives: ISSUE_UNIT_PLACE, ARR_LDS, ARR_MM, ARR_DRAIN. -/
def Obligations.IssueUnitsFeedArraysThatAccept : Prop :=
  (∀ (d : CDie) (p : Phys) (a : ArrIx) (s : State) (j : IssueJob) (i : AInst), s.canonical = true → s.live d p = true →
    (s.arr d p a).iq.length < 8 → (s.arr d p a).job = some j → j.word = some i →
    (s.wordNext d p a i = false → exec (.issueUnitPlace d p a) s = .next s) ∧
    (s.wordNext d p a i = true → Completes (.issueUnitPlace d p a) s fun t =>
      t.arr d p a = { s.arr d p a with iq := (s.arr d p a).iq ++ [i], job := j.advance } ∧
      t = s.setArr d p a (t.arr d p a))) ∧
  (∀ (d : CDie) (p : Phys) (a : ArrIx) (s : State) (i : AInst) (rest : List AInst), s.canonical = true → s.arrLive d p a = true →
    (s.arr d p a).iq = i :: rest → wordIllegal i.w false = false →
    let x := s.arr d p a
    (awOpc i.w = opLds → Completes (.arrLds d p a) s fun t =>
      t.arr d p a = Arr.accept { x with iq := rest } i true [] ∧ t = s.setArr d p a (t.arr d p a)) ∧
    (awOpc i.w = opMm → x.feederFree = true → (x.modeAhead = 0 ∨ x.modeAhead = awMode i.w + 1) →
      tagsAccept x (slotsOf i.w) (awMode i.w) (mmWide i.w) (mmStag i.w) (mmInit i.w) = true →
      Completes (.arrMm d p a) s fun t =>
        let y := t.arr d p a
        y.iq = rest ∧
        ((∀ k ∈ x.accepted, k.opc ≠ opRamp) → y.accepted = x.accepted ++
          [{ ins := i, seq := x.seq, started := !x.waits i.w x.seq, pos := 0, bad := false, exc := false, stag := [] }] ∧
          t = { s.setArr d p a y with counters := t.counters }) ∧
        (∀ n, y.tag n = if n ∈ slotsOf i.w then
            { isOpen := true, mode := awMode i.w, wide := mmWide i.w, stag := mmStag i.w, draining := (x.tag n).draining }
          else x.tag n) ∧
        y.ramp = (if x.ramp = 0 then 1 else x.ramp) ∧ (x.ramp = 1 → y.reverse = false) ∧ (x.ramp = 3 → y.reverse = true) ∧ SameStores s t) ∧
    (awOpc i.w = opDrain → Completes (.arrDrain d p a) s fun t =>
        let y := t.arr d p a
        y.iq = rest ∧
        y.accepted = x.accepted ++
          [{ ins := i, seq := x.seq, started := !x.waits i.w x.seq, pos := 0, bad := false, exc := false, stag := [] }] ∧
        (∀ n, y.tag n = if n ∈ slotsOf i.w then { x.tag n with isOpen := false, draining := true } else x.tag n) ∧
        t = s.setArr d p a y))

/-- ARR_SWAP sends a pass token with no row: a column whose staged tile is complete, or that no earlier load is still to write,
flips at once; another defers the flip. ARR_WAIT leaves when every earlier instruction has retired. ARR_RAMP starts a ramp up
from OFF, and a ramp down from ON; DIR 1 in DOWN and DIR 0 in UP ask for the reversal and stay unretired until the next step
boundary (R87). Each leaves the instruction queue, and touches no accumulator or memory. A ramp turns four columns on or off at
a time: UP ends in ON at 32 columns, DOWN in OFF at none; a reversal turns around from where it stands (at its first boundary it
ends in OFF or ON at once, the model's choice, log 97). An array idle in ON begins to ramp down, and each entry into UP or DOWN
counts. Completes, each with the effect its clause gives: ARR_SWAP, ARR_WAIT, ARR_RAMP, RAMP_STEP, IDLE_HOLD_EXPIRY. -/
def Obligations.ArraySwapsWaitsAndRamps : Prop :=
  (∀ (d : CDie) (p : Phys) (a : ArrIx) (s : State) (i : AInst) (rest : List AInst), s.canonical = true → s.arrLive d p a = true →
    (s.arr d p a).iq = i :: rest → wordIllegal i.w false = false →
    let x := s.arr d p a
    (awOpc i.w = opSwap → x.feederFree = true → Completes (.arrSwap d p a) s fun t =>
      let y := t.arr d p a
      y.iq = rest ∧ SameStores s t ∧
      ∀ c, c < 32 →
        let defer := x.deferred c ≠ [] ∨ (x.staged.getLsbD c = false ∧ x.loadBefore x.seq c = true)
        (defer → y.activeSlot c = x.activeSlot c ∧ y.staged.getLsbD c = x.staged.getLsbD c ∧
          y.deferred c = x.deferred c ++ [x.seq]) ∧
        (¬ defer → y.activeSlot c = 1 - x.activeSlot c ∧ y.staged.getLsbD c = false ∧ y.deferred c = x.deferred c)) ∧
    (awOpc i.w = opWait →
      (x.accepted = [] → Completes (.arrWait d p a) s fun t =>
        t.arr d p a = { x with iq := rest } ∧ SameStores s t) ∧
      (x.accepted ≠ [] → exec (.arrWait d p a) s = .next s)) ∧
    (awOpc i.w = opRamp →
      (bit i.w 114 = true → Completes (.arrRamp d p a) s fun t =>
        (t.arr d p a).iq = rest ∧ (t.arr d p a).ramp = (if x.ramp = 0 then 1 else x.ramp) ∧ SameStores s t ∧
        (x.ramp = 3 → (t.arr d p a).reverse = true ∧ (t.arr d p a).accepted = (x.accept i true []).accepted)) ∧
      (bit i.w 114 = false → x.onlyLoads = true → Completes (.arrRamp d p a) s fun t =>
        (t.arr d p a).iq = rest ∧ (t.arr d p a).ramp = (if x.ramp = 2 then 3 else x.ramp) ∧ SameStores s t ∧
        (x.ramp = 1 → (t.arr d p a).reverse = true ∧ (t.arr d p a).accepted = (x.accept i true []).accepted)))) ∧
  (∀ (d : CDie) (p : Phys) (a : ArrIx) (s : State), s.canonical = true → s.frozen = false →
    let x := s.arr d p a
    (x.ramp = 1 → x.reverse = false → Completes (.rampStep d p a) s fun t =>
      t = s.setArr d p a { x with cols := x.cols + 4, ramp := if 32 ≤ x.cols + 4 then 2 else 1, reverse := false }) ∧
    (x.ramp = 3 → x.reverse = false → Completes (.rampStep d p a) s fun t =>
      t = s.setArr d p a { x with cols := x.cols - 4, ramp := if x.cols ≤ 4 then 0 else 3, reverse := false }) ∧
    (x.ramp = 1 → x.reverse = true → Completes (.rampStep d p a) s fun t =>
      (t.arr d p a).cols = x.cols - 4 ∧ (t.arr d p a).ramp = (if x.cols ≤ 4 then 0 else 3) ∧
      t.ctr d (arrCtr p a 4) = s.ctr d (arrCtr p a 4) + 1) ∧
    (x.ramp = 3 → x.reverse = true → Completes (.rampStep d p a) s fun t =>
      (t.arr d p a).cols = min 32 (x.cols + 4) ∧ (t.arr d p a).ramp = (if 32 ≤ min 32 (x.cols + 4) then 2 else 1) ∧
      t.ctr d (arrCtr p a 4) = s.ctr d (arrCtr p a 4) + 1) ∧
    (x.ramp = 2 → x.onlyLoads = true → (∀ i ∈ x.iq, awOpc i.w = opLds) → Completes (.idleHoldExpiry d p a) s fun t =>
      (t.arr d p a).ramp = 3 ∧ t.ctr d (arrCtr p a 4) = s.ctr d (arrCtr p a 4) + 1 ∧
      t = { s.setArr d p a { x with ramp := 3, reverse := false } with counters := t.counters }))

/-- A word that R73 makes illegal is discarded when it would be accepted: ARR_ERR.ILLEGAL sets, and the word opens no slot,
joins no feeder and changes no accumulator. Completes, each with the effect its clause gives: ARR_LDS, ARR_MM, ARR_DRAIN,
ARR_RAMP, ARR_WAIT, ARR_SWAP, ACC_LOAD, ACC_STORE. -/
def Obligations.ArrayDiscardsIllegalWord : Prop :=
  ∀ (d : CDie) (p : Phys) (a : ArrIx) (s : State) (i : AInst) (rest : List AInst), s.canonical = true → s.arrLive d p a = true →
    (s.arr d p a).iq = i :: rest →
    let x := s.arr d p a
    let discarded (t : State) : Prop := t.flag d (.ARR_ERR_ILLEGAL p a) = true ∧ t.arr d p a = { x with iq := rest } ∧ t.acc = s.acc
    (wordIllegal i.w false = true →
      (awOpc i.w = opLds → Completes (.arrLds d p a) s discarded) ∧
      (awOpc i.w = opMm → x.feederFree = true → Completes (.arrMm d p a) s discarded) ∧
      (awOpc i.w = opDrain → Completes (.arrDrain d p a) s discarded) ∧
      (awOpc i.w = opRamp → bit i.w 114 = true → Completes (.arrRamp d p a) s discarded) ∧
      (awOpc i.w = opWait → x.accepted = [] → Completes (.arrWait d p a) s discarded) ∧
      (awOpc i.w = opSwap → x.feederFree = true → Completes (.arrSwap d p a) s discarded) ∧
      (awOpc i.w = opLoad → Completes (.accLoad d p a) s discarded)) ∧
    (wordIllegal i.w (storeWide x i.w) = true → awOpc i.w = opStore → Completes (.accStore d p a) s discarded) ∧
    (awOpc i.w ∉ [opLds, opMm, opDrain, opRamp, opWait, opSwap, opLoad, opStore] → Completes (.arrMm d p a) s discarded)

/-- The stationary feeder writes the next column of its oldest load into that column's inactive slot, in the load's mode, once
the slot is free, and the load retires with column 31; while the slot still holds a staged tile, or a token accepted before the
load has yet to pass the column, the feeder waits (R77). A deferred flip happens once the column's staged tile is complete, or
no load accepted before the token is still to write it: the staged tile becomes the active one. Completes, each with the effect
its clause gives: STATIONARY_COLUMN_WRITE, PASS_TOKEN_FLIP. -/
def Obligations.StationaryTilesAreStagedAndFlipped : Prop :=
  (∀ (d : CDie) (p : Phys) (a : ArrIx) (s : State) (j : AJob), s.canonical = true → s.arrLive d p a = true →
    (s.arr d p a).accepted.find? (fun j => j.opc = opLds) = some j → j.pos < 32 →
    let x := s.arr d p a
    (x.staged.getLsbD j.pos = true ∨ x.inUse j.seq j.pos = true → exec (.stationaryColumnWrite d p a) s = .next s) ∧
    (x.staged.getLsbD j.pos = false → x.inUse j.seq j.pos = false → Completes (.stationaryColumnWrite d p a) s fun t =>
      let y := t.arr d p a
      y.staged = x.staged ||| BitVec.ofNat 32 (2 ^ j.pos) ∧ y.sel = x.sel ∧ t.acc = s.acc ∧
      y.slotMode (1 - x.activeSlot j.pos) j.pos = awMode j.ins.w + 1 ∧
      (∀ slot r c, r < 32 → c < 32 → (slot ≠ 1 - x.activeSlot j.pos ∨ c ≠ j.pos) → y.cell slot r c = x.cell slot r c) ∧
      (awMode j.ins.w = 0 → awPack j.ins.w = 0 → ldsQ4 j.ins.w = false → j.pos < ldsN j.ins.w →
        s.clean (sramDpa d p (ldsColAt j.ins.w 0 j.pos)) (ldsK j.ins.w) = true → ∀ r, r < 32 →
        y.cell (1 - x.activeSlot j.pos) r j.pos = BitVec.ofNat 17 (if r < ldsK j.ins.w then
          (s.byte (sramDpa d p (ldsColAt j.ins.w 0 j.pos) + r)).toNat else 0)))) ∧
  (∀ (d : CDie) (p : Phys) (a : ArrIx) (c : Fin 32) (s : State) (t0 : Nat) (ts : List Nat), s.canonical = true →
    s.arrLive d p a = true → (s.arr d p a).deferred c = t0 :: ts →
    let x := s.arr d p a
    ((x.staged.getLsbD c = true ∨ x.loadBefore t0 c = false) → Completes (.passTokenFlip d p a c) s fun t =>
      let y := t.arr d p a
      y.activeSlot c = 1 - x.activeSlot c ∧ y.staged.getLsbD c = false ∧ y.deferred c = ts ∧
      (∀ c', c' < 32 → c' ≠ c.val → y.activeSlot c' = x.activeSlot c' ∧ y.staged.getLsbD c' = x.staged.getLsbD c') ∧
      SameStores s t) ∧
    (x.staged.getLsbD c = false → x.loadBefore t0 c = true → exec (.passTokenFlip d p a c) s = .next s))

/-- The oldest pass with rows left issues its next row when the array is ON, no column waits for its flip and no droop holds the
feeders: each column's results wait, and its selectors change only if the last row of a pass with SWAP carries the token. The
operand watchdog sets ARR_ERR.WDOG and places in ARR_WAIT_ON what the array waits for, once a stall; it discards nothing.
Completes, each with the effect its clause gives: STREAMED_ROW_ISSUE, OPERAND_WATCHDOG. -/
def Obligations.StreamedRowsIssueOrStall : Prop :=
  (∀ (d : CDie) (p : Phys) (a : ArrIx) (s : State) (j : AJob), s.canonical = true → s.arrLive d p a = true →
    (s.arr d p a).accepted.find? AJob.issuing = some j → j.started = true →
    let x := s.arr d p a
    (x.ramp = 2 → x.tokens = [] → s.flag d .CLK_STATUS_FSTALL = false → Completes (.streamedRowIssue d p a) s fun t =>
      let y := t.arr d p a
      (∃ el poison, y.results = x.results ++ (List.range 32).flatMap fun c => columnResults x j c el poison) ∧
      (j.pos + 1 < mmRows j.ins.w ∨ mmSwap j.ins.w = false → y.sel = x.sel ∧ y.staged = x.staged) ∧
      y.accepted.length = x.accepted.length ∧ t.acc = s.acc ∧
      (awMode j.ins.w = 0 → awPack j.ins.w = 0 → s.clean (sramDpa d p (mmRowAt j.ins.w 0 j.pos)) (mmK j.ins.w) = true →
        ∀ c, c < mmN j.ins.w → ∃ r ∈ y.results, r.seq = j.seq ∧ r.row = j.pos ∧ r.col = c ∧ r.poison = false ∧
          r.val = .int (columnSum x 0 c (List.range 32) fun i =>
            if i < mmK j.ins.w then (s.byte (sramDpa d p (mmRowAt j.ins.w 0 j.pos) + i)).toNat else 0))) ∧
    (x.ramp ≠ 2 ∨ x.tokens ≠ [] ∨ s.flag d .CLK_STATUS_FSTALL = true → exec (.streamedRowIssue d p a) s = .next s)) ∧
  (∀ (d : CDie) (p : Phys) (a : ArrIx) (s : State), s.canonical = true → s.arrLive d p a = true → (s.arr d p a).accepted ≠ [] →
    let x := s.arr d p a
    (x.wdog = false → Completes (.operandWatchdog d p a) s fun t =>
      t.flag d (.ARR_ERR_WDOG p a) = true ∧ t.arr d p a = { x with wdog := true } ∧ SameStores s t ∧
      t.reg d (Reg.ARR_WAIT_ON p a) =
        BitVec.ofNat 32 (((s.setArr d p a { x with wdog := true }).setF d (.ARR_ERR_WDOG p a) 1).arrWait d p a)) ∧
    (x.wdog = true → exec (.operandWatchdog d p a) s = .next s))

/-- The results of one row at one column leave for the accumulator together, the oldest row first; those of other columns and
rows wait on. An integer result adds exactly to its element, or overwrites with INIT; one that leaves the mode's width poisons
it and sets IOVF (R99). A float group merges into its element (R100). A result with an exception cause or of an unreadable row
poisons its element (R89, R250). No other accumulator word and no byte of memory changes. A drain completes once no earlier
instruction uses its slots: it retires, its slots' elements are empty, a slot that no later instruction has opened or drains
becomes free, and one that a later pass or load has opened keeps its new mode, width and tag. Completes, each with the effect
its clause gives: PASS_RESULT_WRITE, DRAIN_COMPLETE. -/
def Obligations.PassResultsAccumulateAndDrainsFree : Prop :=
  (∀ (d : CDie) (p : Phys) (a : ArrIx) (c : Fin 32) (s : State) (r0 : PassRes), s.canonical = true → s.arrLive d p a = true →
    let x := s.arr d p a
    let mine (r : PassRes) : Bool := r.col == c.val && r.seq == r0.seq && r.row == r0.row
    let old (r : PassRes) : Elem := if r.init then Elem.empty else s.elem d p a r.slot r.elem
    let bad (r : PassRes) : Bool := r.poison || decide (r.cause ≠ 0)
    x.results.find? (fun r => r.col = c.val) = some r0 →
    (∀ r ∈ x.results, mine r = true → r.elem < 256 ∧ r.slot < 32 ∧ s.accClean d p a r.slot r.elem = true) →
    ((x.results.filter mine).map fun r => (r.slot, r.elem)).Nodup →
    Completes (.passResultWrite d p a c) s fun t =>
      (t.arr d p a).results = x.results.filter (fun r => !mine r) ∧ t.mem = s.mem ∧
      (∀ r ∈ x.results, mine r = true →
        (∀ v, r.val = .int v →
          (fitsWidth (intWidth r.mode) ((old r).w + v) = true → Store.get 0 t.acc (accKey d p a r.slot r.elem) =
            Elem.bits { old r with w := (old r).w + v, poison := (old r).poison || bad r }) ∧
          (fitsWidth (intWidth r.mode) ((old r).w + v) = false →
            (t.elem d p a r.slot r.elem).poison = true ∧ t.flag d (.ARR_ACC_ERR_IOVF p a) = true)) ∧
        (∀ eg sum cut, r.val = .grp eg sum cut → Store.get 0 t.acc (accKey d p a r.slot r.elem) =
          Elem.bits { (mergeGroup 96 (old r) eg sum cut).elem with
            poison := (mergeGroup 96 (old r) eg sum cut).elem.poison || bad r })) ∧
      ∀ k, (∀ r ∈ x.results, mine r = true → k ≠ accKey d p a r.slot r.elem) → Store.get 0 t.acc k = Store.get 0 s.acc k) ∧
  (∀ (d : CDie) (p : Phys) (a : ArrIx) (s : State) (j : AJob), s.canonical = true → s.arrLive d p a = true →
    let x := s.arr d p a
    (x.accepted.find? fun j => j.opc = opDrain ∧ !x.waits j.ins.w j.seq) = some j →
    Completes (.drainComplete d p a) s fun t =>
      let y := t.arr d p a
      (∀ n ∈ slotsOf j.ins.w, n < 32 →
        ((x.tag n).isOpen = false →
          (∀ k ∈ x.accepted, k.seq ≠ j.seq → k.opc = opDrain ∨ k.opc = opStore → n ∉ slotsOf k.ins.w) →
          y.tag n = SlotTag.free) ∧
        ((x.tag n).isOpen = true → (y.tag n).isOpen = true ∧ (y.tag n).mode = (x.tag n).mode ∧
          (y.tag n).wide = (x.tag n).wide ∧ (y.tag n).stag = (x.tag n).stag) ∧
        ∀ e, e < 256 → Store.get 0 t.acc (accKey d p a n e) = 0) ∧
      y.accepted = x.accepted.filter (fun k => k.seq ≠ j.seq) ∧ t.mem = s.mem)

/-- A legal ACC_LOAD opens its slots as it is accepted. When an earlier instruction uses one of them it waits; otherwise each
element becomes what was read from sprig SRAM, or with ADD the sum with what the slot held. No byte changes. Completes, each
with the effect its clause gives: ACC_LOAD. -/
def Obligations.AccLoadFillsSlots : Prop :=
  ∀ (d : CDie) (p : Phys) (a : ArrIx) (s : State) (i : AInst) (rest : List AInst), s.canonical = true → s.arrLive d p a = true →
    let x := s.arr d p a; let w := i.w; let m := awMode w; let els := tileElems w (accSlots w) (ldWide w)
    x.iq = i :: rest → awOpc w = opLoad → wordIllegal w false = false →
    tagsAccept x (slotsOf w) m (ldWide w) (ldStag w) (!ldAdd w) = true →
    Completes (.accLoad d p a) s fun t =>
      (t.arr d p a).iq = rest ∧
      (∀ n, (t.arr d p a).tag n = if n ∈ slotsOf w then
          { isOpen := true, mode := m, wide := ldWide w, stag := ldStag w, draining := (x.tag n).draining } else x.tag n) ∧
      (x.waits w x.seq = true → SameStores s t ∧ (t.arr d p a).accepted = x.accepted ++
          [{ ins := i, seq := x.seq, started := false, pos := 0, bad := false, exc := false, stag := [] }]) ∧
      (x.waits w x.seq = false →
        (∀ k, k < els.length → let y := els.getD k (0, 0, 0, 0)
          s.clean (loadAt d p w k y.1 y.2.1) (if accKind w = 0 then fmtBytes (accFmt w) else 16) = true ∧
          (ldAdd w = true → s.accClean d p a y.2.2.1 y.2.2.2 = true) ∧
          fitsWidth (if modeFloat m then 96 else intWidth m) (s.loadSource d p w k y.1 y.2.1).w = true ∧
          (modeFloat m = false → fitsWidth (intWidth m)
            (loadedElem m (ldAdd w) (s.elem d p a y.2.2.1 y.2.2.2) (s.loadSource d p w k y.1 y.2.1)).w = true)) →
        t.mem = s.mem ∧ (t.arr d p a).accepted = x.accepted ∧
        ∀ k, k < els.length → let y := els.getD k (0, 0, 0, 0)
          Store.get 0 t.acc (accKey d p a y.2.2.1 y.2.2.2) =
            (loadedElem m (ldAdd w) (s.elem d p a y.2.2.1 y.2.2.2) (s.loadSource d p w k y.1 y.2.1)).bits)

/-- A legal ACC_STORE samples the scale-tag entry of each of its slots as it is accepted and with FREE marks its slots draining.
When an earlier instruction uses one of them it waits; otherwise each element is written, converted or as a spill entry, to its
place in sprig SRAM and to no other, and with FREE its slots become free. The elements of a store without FREE stay. Completes,
each with the effect its clause gives: ACC_STORE. -/
def Obligations.AccStoreWritesTile : Prop :=
  ∀ (d : CDie) (p : Phys) (a : ArrIx) (s : State) (i : AInst) (rest : List AInst), s.canonical = true → s.arrLive d p a = true →
    let x := s.arr d p a; let w := i.w; let wide := storeWide x w; let els := tileElems w (accSlots w) wide
    let stag := (slotsOf w).flatMap fun n => s.stagWords d p (x.tag n).stag
    let step : Word := match s.cmd d p i.cmd with | some c => BitVec.ofNat 32 c.step | none => 0
    let size := if accKind w = 0 then fmtBytes (accFmt w) else 16
    let spill := (accKind w = 0 ∧ stSpadd w = true) ∨ accKind w = 2
    x.iq = i :: rest → awOpc w = opStore → wordIllegal w wide = false → storeTag x i = false →
    Completes (.accStore d p a) s fun t =>
      (t.arr d p a).iq = rest ∧
      (x.waits w x.seq = true → SameStores s t ∧
        (∀ n, (t.arr d p a).tag n = if n ∈ slotsOf w ∧ stFree w = true then
          { x.tag n with isOpen := false, draining := true } else x.tag n) ∧
        (t.arr d p a).accepted = x.accepted ++
          [{ ins := i, seq := x.seq, started := false, pos := wide.toNat, bad := false, exc := false, stag := stag }]) ∧
      (x.waits w x.seq = false →
        (∀ k, k < els.length → let y := els.getD k (0, 0, 0, 0)
          s.clean (storeAt d p w k y.1 y.2.1) size = true ∧ (spill → s.clean (spillAt d p w k) 16 = true) ∧
          s.accClean d p a y.2.2.1 y.2.2.2 = true) →
        (accKind w = 0 → tileWidth wide * size ≤ 32 * stRstride w) →
        (accKind w = 0 → stSpadd w = true → ∀ k k', k < els.length → k' < els.length →
          let y := els.getD k (0, 0, 0, 0)
          storeAt d p w k y.1 y.2.1 + size ≤ spillAt d p w k' ∨ spillAt d p w k' + 16 ≤ storeAt d p w k y.1 y.2.1) →
        (∀ k, k < els.length → let y := els.getD k (0, 0, 0, 0)
          t.bytes (storeAt d p w k y.1 y.2.1) size =
            s.storedBytes d p a w (convOf ((stag.drop (8 * (k / 256))).take 8) (s.sprigSeed d p) step) k y.1 y.2.1 y.2.2.1 y.2.2.2) ∧
        (∀ b, (∀ k, k < els.length → let y := els.getD k (0, 0, 0, 0)
          b < storeAt d p w k y.1 y.2.1 ∨ storeAt d p w k y.1 y.2.1 + size ≤ b) → t.byte b = s.byte b) ∧
        (stFree w = false → t.acc = s.acc) ∧
        (stFree w = true → ∀ n ∈ slotsOf w, ∀ e, e < 256 → Store.get 0 t.acc (accKey d p a n e) = 0))

/-- An instruction that waited for its slots starts when no earlier instruction uses them: a pass may issue its rows, a load or
store moves its tile and retires; while every waiting instruction still waits nothing changes. The outlier side unit adds rho
times the weight, rounded to the nearest integer with ties to even, into the element of each output column of its row: of the
four slots of a tile with 32 columns, or of the one slot of a PK4 problem (Table 4.1); a POISON rho poisons it (R38). No other
element and no byte of memory changes. Completes, each with the effect its clause gives: SLOT_ACCESS_START, OUTLIER_SIDE_ADD. -/
def Obligations.WaitingInstructionsStartAndOutliersAdd : Prop :=
  (∀ (d : CDie) (p : Phys) (a : ArrIx) (s : State), s.canonical = true → s.arrLive d p a = true →
    let x := s.arr d p a
    let ready := x.accepted.find? fun j => !j.started ∧ j.opc ≠ opDrain ∧ !x.waits j.ins.w j.seq
    (ready = none → exec (.slotAccessStart d p a) s = .next s) ∧
    ∀ j, ready = some j →
      (j.opc ≠ opLoad → j.opc ≠ opStore → Completes (.slotAccessStart d p a) s fun t =>
        (t.arr d p a).accepted = x.accepted.map (fun k => if k.seq = j.seq then { k with started := true } else k) ∧
        t = s.setArr d p a (t.arr d p a)) ∧
      (j.opc = opLoad ∨ j.opc = opStore → Completes (.slotAccessStart d p a) s fun t =>
        (t.arr d p a).accepted = x.accepted.filter (fun k => k.seq ≠ j.seq) ∧ (t.arr d p a).iq = x.iq)) ∧
  (∀ (d : CDie) (p : Phys) (a : ArrIx) (rec : Dpa) (entry : Fin 64) (row slot : Fin 32) (wsrc rstride : BitVec 16)
    (q4 : Bool) (k nm1 : Fin 32) (s : State), s.canonical = true → s.live d p = true →
    let tag := (s.arr d p a).tag slot
    let narrow := tag.isOpen && !tag.wide
    (if narrow then row.val < 16 ∧ nm1.val < 16 else slot.val % 4 = 0) →
    s.jobRange rec.toNat 272 = true → s.clean rec.toNat 272 = true →
    entry.val < fldBits (s.bytes rec.toNat 272) 0 4 7 0 →
    let rho := l16Val (fldBits (s.bytes rec.toNat 272) (16 + 4 * entry.val) 4 31 16)
    let at_ (n : Nat) := 32 * (wsrc.toNat + n * rstride.toNat) + (if q4 then k.val / 2 else k.val)
    let wt (n : Nat) : Int := let b := (s.byte (sramDpa d p (at_ n))).toNat
      if q4 then sx 4 (b / (if k.val % 2 = 0 then 1 else 16)) else sx 8 b
    let sl := if narrow then slot.val else slot.val + row.val / 8
    let el (n : Nat) := if narrow then 16 * row.val + n else 32 * (row.val % 8) + n
    let old (n : Nat) := s.elem d p a sl (el n)
    let v (n : Nat) := (old n).w + roundInt .rne (rho.getD 0 * (wt n : Rat))
    (∀ n, n ≤ nm1.val → at_ n < sramSize ∧ s.clean (sramDpa d p (at_ n)) 1 = true ∧ s.accClean d p a sl (el n) = true ∧
      fitsWidth 48 (v n) = true) →
    Completes (.outlierSideAdd d p a rec entry row slot wsrc rstride q4 k nm1) s fun t =>
      (∀ n, n ≤ nm1.val → Store.get 0 t.acc (accKey d p a sl (el n)) = 
        Elem.bits { old n with w := v n, poison := (old n).poison || rho.isNone }) ∧
      (∀ key, (∀ n, n ≤ nm1.val → key ≠ accKey d p a sl (el n)) → Store.get 0 t.acc key = Store.get 0 s.acc key) ∧
      t = { s with acc := t.acc })

/-- The integer operations of the scalar core write RD and nothing else: MOVI its immediate zero-extended to 64 bits, the others
the 64-bit result; SHL and SHR by less than 64, and SHR of a value with bit 63 clear, shift in zeros. (Where the spec states no
result for SHL and SHR, log 11, the value is free and the rest still holds.) The float operations read binary16 operands from
bits [15:0] and binary32 operands from bits [31:0], write the result there with the rest of RD zero, accumulate their exception
flags in SPRG_FPSR, and change nothing else. FCVT converts to the format that F16 names. Completes, each with the effect its
clause gives: MOVI, ADD, SUB, AND, OR, SHL, SHR, FADD, FMUL, FFMA, FCVT. -/
def Obligations.ScalarArithmetic : Prop :=
  (∀ (d : CDie) (p : Phys) (rd ra rb : Fin 32) (imm : BitVec 16) (s : State), s.canonical = true → s.live d p = true →
    let x := s.gpr d p ra; let y := s.gpr d p rb
    let only (t : State) : Prop := t = s.setGpr d p rd (t.gpr d p rd) ∧ ∀ i, i ≠ rd.val → t.gpr d p i = s.gpr d p i
    (Completes (.movi d p rd imm) s fun t => t.gpr d p rd = imm.setWidth 64 ∧ only t) ∧
    (Completes (.add d p rd ra rb) s fun t => t.gpr d p rd = x + y ∧ only t) ∧
    (Completes (.sub d p rd ra rb) s fun t => t.gpr d p rd = x - y ∧ only t) ∧
    (Completes (.and d p rd ra rb) s fun t => t.gpr d p rd = x &&& y ∧ only t) ∧
    (Completes (.or d p rd ra rb) s fun t => t.gpr d p rd = x ||| y ∧ only t) ∧
    (Completes (.shl d p rd ra rb) s fun t => (y.toNat < 64 → t.gpr d p rd = x <<< y.toNat) ∧ only t) ∧
    (Completes (.shr d p rd ra rb) s fun t =>
      (y.toNat < 64 → x.getLsbD 63 = false → t.gpr d p rd = x >>> y.toNat) ∧ only t)) ∧
  (∀ (d : CDie) (p : Phys) (rd ra rb rc : Fin 32) (f16 : Bool) (rm : Fin 4) (s : State), s.canonical = true →
    s.live d p = true →
    let low (h : Bool) (i : Fin 32) : Nat := (s.gpr d p i).toNat % (if h then 2 ^ 16 else 2 ^ 32)
    let wrote (r : Nat × FpFlags) (t : State) : Prop :=
      t.gpr d p rd = BitVec.ofNat 64 r.1 ∧
      t.reg d (Reg.SPRG_FPSR p) = s.reg d (Reg.SPRG_FPSR p) ||| r.2.setWidth 32 ∧
      t = (s.setGpr d p rd (t.gpr d p rd)).setReg d (Reg.SPRG_FPSR p) (t.reg d (Reg.SPRG_FPSR p))
    Completes (.fadd d p rd ra rb f16 rm) s (wrote ((fmtOf f16).add (frndOf rm) (low f16 ra) (low f16 rb))) ∧
    Completes (.fmul d p rd ra rb f16 rm) s (wrote ((fmtOf f16).mul (frndOf rm) (low f16 ra) (low f16 rb))) ∧
    Completes (.ffma d p rd ra rb rc f16 rm) s
      (wrote ((fmtOf f16).fma (frndOf rm) (low f16 ra) (low f16 rb) (low f16 rc))) ∧
    Completes (.fcvt d p rd ra f16 rm) s
      (wrote (convertFormat (fmtOf !f16) (fmtOf f16) (frndOf rm) (low (!f16) ra))))

/-- LD32 and ST32 move one aligned word between RD and sprig SRAM, or the sprig's own register window; LDTAG copies 32 aligned
bytes of sprig SRAM into the scale-tag entry that RD[5:0] names, as eight register writes; at any other address none of them
executes. Completes, each with the effect its clause gives: LD32, ST32, LDTAG. -/
def Obligations.ScalarMemoryOperations : Prop :=
  ∀ (d : CDie) (p : Phys) (rd ra : Fin 32) (off : BitVec 8) (s : State), s.canonical = true → s.live d p = true →
    let a := ((s.gpr d p ra).toNat + 4 * off.toNat) % 2 ^ 64
    let sram := sramDpa d p a
    let tag := (s.gpr d p rd).toNat % 64
    (a % 4 = 0 → a < sramSize → s.clean sram 4 = true →
      (Completes (.ld32 d p rd ra off) s fun t =>
        t.gpr d p rd = BitVec.ofNat 64 (leNat (s.bytes sram 4)) ∧ t = s.setGpr d p rd (t.gpr d p rd)) ∧
      (Completes (.st32 d p rd ra off) s fun t =>
        t.bytes sram 4 = natLe 4 ((s.gpr d p rd).toNat % 2 ^ 32) ∧ (∀ b, b < sram ∨ sram + 4 ≤ b → t.byte b = s.byte b) ∧
        t = { s with mem := t.mem })) ∧
    (a % 4 = 0 → 0x1000000 ≤ a → a < 0x1010000 →
      (Completes (.ld32 d p rd ra off) s fun t =>
        t.gpr d p rd = (s.peek d (sprigBase p + (a - 0x1000000))).setWidth 64 ∧ t = s.setGpr d p rd (t.gpr d p rd)) ∧
      (Completes (.st32 d p rd ra off) s fun t =>
        t = s.windowWrite d p (a - 0x1000000) ((s.gpr d p rd).setWidth 32))) ∧
    (a % 4 ≠ 0 ∨ (sramSize ≤ a ∧ (a < 0x1000000 ∨ 0x1010000 ≤ a)) →
      exec (.ld32 d p rd ra off) s = .next s ∧ exec (.st32 d p rd ra off) s = .next s) ∧
    (a % 32 = 0 → a + 32 ≤ sramSize → s.clean sram 32 = true →
      Completes (.ldtag d p rd ra off) s fun t =>
        (∀ k, k < 4 → t.reg d (stagBase p tag + 4 * k) = BitVec.ofNat 32 (leNat (s.bytes (sram + 4 * k) 4))) ∧
        (∀ k, k < 8 → t.reg d (stagBase p tag + 4 * k) = (s.plainWrite d (stagBase p tag + 4 * k)
          (BitVec.ofNat 32 (leNat (s.bytes (sram + 4 * k) 4))) 0 0).reg d (stagBase p tag + 4 * k)) ∧
        t = { s with regs := t.regs }) ∧
    (a % 32 ≠ 0 ∨ sramSize < a + 32 → exec (.ldtag d p rd ra off) s = .next s)

/-- A legal and eligible head that no breakpoint matches is dispatched by its class's row: it leaves its command queue, which
becomes the one served last, and enters flight. An ARR command's words go to the issue units of its arrays, a DMA command to its
DMA queue, an ENG command to its engine-request queue (or, for an engine that is not enabled, it is cancelled), a SEND on its
way to its receive queue, a BARRIER arrives at its barrier, and a WAITQ waits while its queue holds fewer than its count.
Completes, each with the effect its clause gives: ARR_COMMAND, DMA_COMMAND, ENG_COMMAND, QUE_SEND, SYNC_BARRIER. -/
def Obligations.CommandsDispatchByClass : Prop :=
  ∀ (d : CDie) (p : Phys) (q : Nat) (e : QEntry) (rest : List QEntry) (s : State), s.canonical = true →
    s.pickQueue d p = some q → (s.que d p q).entries = e :: rest → s.headClean d p q = true → s.headDiscard d p e.bytes = none →
    s.bpMatch d p e.bytes = false →
    let b := e.bytes
    let id := (s.spr d p).nextCmd
    let flies (left : Nat) (t : State) : Prop :=
      (t.que d p q).entries = rest ∧ (t.spr d p).last = some q ∧ (t.spr d p).nextCmd = id + 1 ∧
      (t.spr d p).cmds = (s.spr d p).cmds ++ [s.flight d p q b left] ∧ SameStores s t
    (cmdClass b = 0 → Completes (.arrCommand d p) s fun t =>
      flies ((cmdWords b).length * cmdCount b) t ∧
      (∃ j, (t.arr d p (awArr (cmdA b))).job = some j ∧ j.cmd = id ∧ j.a = some (cmdA b) ∧ j.cnt = cmdCount b ∧ j.next = 0) ∧
      (cmdHasB b = true → ∃ j, (t.arr d p (awArr (cmdB b))).job = some j ∧ j.cmd = id ∧ j.b = some (cmdB b) ∧
        j.cnt = cmdCount b ∧ j.next = 0)) ∧
    (cmdClass b = 1 → Completes (.dmaCommand d p) s fun t => flies 1 t ∧
      (t.que d p (dmaQueue b)).entries = (s.que d p (dmaQueue b)).entries ++ [{ e with cmd := id }]) ∧
    (cmdClass b = 2 → cmdOp b % 8 = 7 ∨ (s.eng d (engOfIx (cmdOp b % 8))).st = .enabled →
      Completes (.engCommand d p) s fun t => flies 1 t ∧
      (t.que d p (engQueue b)).entries = (s.que d p (engQueue b)).entries ++ [{ e with cmd := id }]) ∧
    (cmdClass b = 2 → cmdOp b % 8 < 7 → (s.eng d (engOfIx (cmdOp b % 8))).st ≠ .enabled →
      Completes (.engCommand d p) s fun t =>
        (t.que d p q).entries = rest ∧ (t.spr d p).cmds = (s.spr d p).cmds ∧ SameStores s t ∧
        (s.eventRoom d p (56 + cmdCq b) = true → (t.que d p (56 + cmdCq b)).entries = (s.que d p (56 + cmdCq b)).entries ++
          [written (completionEntry b rcCancelled 0 (woEngine d (cmdOp b % 8)) 0 (s.reg d (Reg.SPRG_STEP p)).toNat
            (noDetail (cmdOp b % 8)))])) ∧
    (cmdClass b = 3 → Completes (.queSend d p) s fun t => flies 1 t ∧
      (t.spr d p).sends = (s.spr d p).sends ++
        [{ cmd := id, q := q, entry := s.receiveEntry d p q b, qid := fldBits b 16 4 17 0, module := fldBits b 16 4 27 18 }]) ∧
    (cmdClass b = 4 → cmdOp b = 0 → Completes (.syncBarrier d p) s fun t => flies 1 t ∧
      ∃ x ∈ t.barriers, x.id = cmdBarrier b ∧ (d.val * 272 + p.val, id) ∈ x.arrived)

/-- A WAITQ dispatches and waits while its queue holds fewer entries than its count; once they are there it completes with OK,
and on an event queue it removes the oldest of them. CTX STEP writes SPRG_STEP; an SCL command runs its operations in order.
Both complete as they dispatch, and with COMPL write their completion. A head that the armed breakpoint matches is held in its
queue: it is not dispatched, and ARM clears on every die. Completes, each with the effect its clause gives: SYNC_WAITQ,
CTX_STEP, SCL, ARR_COMMAND, DMA_COMMAND, ENG_COMMAND, QUE_SEND, SYNC_BARRIER. -/
def Obligations.ScalarClassesCompleteOrAreHeld : Prop :=
  (∀ (d : CDie) (p : Phys) (q : Nat) (e : QEntry) (rest : List QEntry) (s : State), s.canonical = true →
    s.pickQueue d p = some q → (s.que d p q).entries = e :: rest → s.headClean d p q = true → s.headDiscard d p e.bytes = none →
    s.bpMatch d p e.bytes = false →
    let b := e.bytes
    let cq := 56 + cmdCq b
    let alone := ∀ c ∈ (s.spr d p).cmds, ¬ (cmdClass c.bytes = 4 ∧ cmdOp c.bytes = 1)
    let left := if 56 ≤ cmdWaitq b then (s.que d p (cmdWaitq b)).entries.drop (cmdWaitCount b) else (s.que d p (cmdWaitq b)).entries
    (cmdClass b = 4 → cmdOp b = 1 → Completes (.syncWaitq d p) s fun t =>
      (t.que d p q).entries = rest ∧ (t.spr d p).last = some q ∧ (t.spr d p).nextCmd = (s.spr d p).nextCmd + 1 ∧
      (alone → (s.que d p (cmdWaitq b)).entries.length < cmdWaitCount b →
        (t.spr d p).cmds = (s.spr d p).cmds ++ [s.flight d p q b 1]) ∧
      (alone → cmdWaitCount b ≤ (s.que d p (cmdWaitq b)).entries.length →
        (t.spr d p).cmds = (s.spr d p).cmds ∧
        ((s.spr d p).stalled = [] → cmdCompl b = false → (t.que d p (cmdWaitq b)).entries = left) ∧
        ((s.spr d p).stalled = [] → cmdCompl b = true → cq ≠ cmdWaitq b → s.eventRoom d p cq = true →
          (t.que d p (cmdWaitq b)).entries = left ∧ (t.que d p cq).entries = (s.que d p cq).entries ++
            [written (completionEntry b rcOk 0 (woEntry (s.qid d p q)) 0 (s.reg d (Reg.SPRG_STEP p)).toNat [])]))) ∧
    (cmdClass b = 6 → Completes (.ctxStep d p) s fun t =>
      t.reg d (Reg.SPRG_STEP p) = BitVec.ofNat 32 (fld b 16 4) ∧ (t.que d p q).entries = rest ∧
      (t.spr d p).cmds = (s.spr d p).cmds ∧ SameStores s t ∧
      (cmdCompl b = true → s.eventRoom d p cq = true → (t.que d p cq).entries = (s.que d p cq).entries ++
        [written (completionEntry b rcOk 0 (woEntry (s.qid d p q)) 0 (s.reg d (Reg.SPRG_STEP p)).toNat [])])) ∧
    (cmdClass b = 5 → Completes (.scl d p) s fun t =>
      (t.que d p q).entries = rest ∧ (t.spr d p).cmds = (s.spr d p).cmds ∧
      (sclWords b = [] → cmdCompl b = true → s.eventRoom d p cq = true → SameStores s t ∧
        (t.que d p cq).entries = (s.que d p cq).entries ++
          [written (completionEntry b rcOk 0 (woEntry (s.qid d p q)) 0 (s.reg d (Reg.SPRG_STEP p)).toNat [])]) ∧
      ((∀ w ∈ sclWords b, bits w 31 26 < 0x20) → let r := (sclWords b).foldl (fun s w => (s.sclStep d p w).1) s
        (∀ i, t.gpr d p i = r.gpr d p i) ∧ t.reg d (Reg.SPRG_FPSR p) = r.reg d (Reg.SPRG_FPSR p) ∧ SameStores s t))) ∧
  (∀ (d : CDie) (p : Phys) (q : Nat) (e : QEntry) (rest : List QEntry) (s : State), s.canonical = true →
    s.pickQueue d p = some q → (s.que d p q).entries = e :: rest → s.headClean d p q = true → s.headDiscard d p e.bytes = none →
    s.bpMatch d p e.bytes = true →
    let held (t : State) : Prop :=
      t.stop.held = some (d.val, p.val, q) ∧ (t.que d p q).entries = e :: rest ∧ (t.spr d p).cmds = (s.spr d p).cmds ∧
      (∀ k, k < 20 → t.flag k .DBG_BP_CTL_ARM = false) ∧ SameStores s t
    (cmdClass e.bytes = 0 → Completes (.arrCommand d p) s held) ∧
    (cmdClass e.bytes = 1 → Completes (.dmaCommand d p) s held) ∧
    (cmdClass e.bytes = 2 → Completes (.engCommand d p) s held) ∧
    (cmdClass e.bytes = 3 → Completes (.queSend d p) s held) ∧
    (cmdClass e.bytes = 4 → cmdOp e.bytes = 0 → Completes (.syncBarrier d p) s held) ∧
    (cmdClass e.bytes = 4 → cmdOp e.bytes = 1 → (∀ c ∈ (s.spr d p).cmds, ¬ (cmdClass c.bytes = 4 ∧ cmdOp c.bytes = 1)) →
      Completes (.syncWaitq d p) s held) ∧
    (cmdClass e.bytes = 5 → Completes (.scl d p) s held) ∧
    (cmdClass e.bytes = 6 → Completes (.ctxStep d p) s held))

/-- An illegal head is discarded in place of a dispatch, by its class's row: it leaves its queue, SPRG_ERR.EPOCH sets for an
epoch mismatch and SPRG_ERR.ILLEGAL for any other cause, no command enters flight and no scalar register changes, and its
completion has the status that R156 gives. -/
def Obligations.IllegalHeadIsDiscarded : Prop :=
  ∀ (d : CDie) (p : Phys) (q : Nat) (e : QEntry) (rest : List QEntry) (s : State) (st : Nat), s.canonical = true →
    s.pickQueue d p = some q → (s.que d p q).entries = e :: rest → s.headClean d p q = true → s.illegalCmd d p e.bytes = some st →
    let b := e.bytes
    let cq := 56 + cmdCq b
    let row : Instr :=
      if cmdClass b = 0 ∨ cmdClass b = 7 then .arrCommand d p else if cmdClass b = 1 then .dmaCommand d p
      else if cmdClass b = 2 then .engCommand d p else if cmdClass b = 3 then .queSend d p
      else if cmdClass b = 4 then (if cmdOp b = 1 then .syncWaitq d p else .syncBarrier d p)
      else if cmdClass b = 5 then .scl d p else .ctxStep d p
    (∀ c ∈ (s.spr d p).cmds, ¬ (cmdClass c.bytes = 4 ∧ cmdOp c.bytes = 1)) →
    Completes row s fun t =>
      (t.que d p q).entries = rest ∧ (t.spr d p).cmds = (s.spr d p).cmds ∧ (t.spr d p).gprs = (s.spr d p).gprs ∧
      (st = rcFault → t.flag d (.SPRG_ERR_EPOCH p) = true) ∧ (st ≠ rcFault → t.flag d (.SPRG_ERR_ILLEGAL p) = true) ∧
      (s.eventRoom d p cq = true → (t.que d p cq).entries = (s.que d p cq).entries ++
        [written (completionEntry b st 0 (woEntry (s.qid d p q)) 0 (s.reg d (Reg.SPRG_STEP p)).toNat [])])

/-- The DMA engine takes the head of the next DMA queue, round-robin, when fewer than four transfers run and none of that
queue's does. A transfer whose bytes are all mapped copies each source row to its destination row, changes no other byte, and
its command leaves flight; one with an unmapped byte moves no byte, sets MEM_ERR.UNMAPPED and completes with BAD_ARG. Completes,
each with the effect its clause gives: DMA_TRANSFER_START, DMA_TRANSFER_COMPLETE. -/
def Obligations.DmaTransfersStartAndMoveRows : Prop :=
  (∀ (d : CDie) (p : Phys) (q : Nat) (e : QEntry) (rest : List QEntry) (s : State), s.canonical = true →
    (s.dmaPick d p = some q → (s.que d p q).entries = e :: rest → s.headClean d p q = true →
      Completes (.dmaTransferStart d p) s fun t =>
        (t.que d p q).entries = rest ∧ (t.spr d p).dma = (s.spr d p).dma ++ [{ q := q, entry := e }] ∧
        (t.spr d p).dmaLast = some q ∧ SameStores s t ∧ t.regs = s.regs) ∧
    (4 ≤ (s.spr d p).dma.length → exec (.dmaTransferStart d p) s = .next s)) ∧
  (∀ (d : CDie) (p : Phys) (q : Fin 16) (r : DmaRun) (c : Cmd) (s : State), s.canonical = true → s.live d p = true →
    s.dmaStalled d p = false → (s.spr d p).dma.find? (fun r => r.q = 16 + q.val) = some r → s.cmd d p r.entry.cmd = some c →
    let b := r.entry.bytes
    let n := fld b 36 2 + 1
    let len := fld b 32 4
    let src (i : Nat) := fldBits b 16 8 51 0 + i * fld b 40 4
    let dst (i : Nat) := fldBits b 24 8 51 0 + i * fld b 44 4
    s.dmaReaches d b = true →
    ((∀ i, i < n → s.jobRange (src i) len = true ∧ s.jobRange (dst i) len = true ∧ s.clean (src i) len = true ∧
        s.clean (dst i) len = true ∧ s.touchesParity (dst i) len = false) →
      (∀ i j, i < n → j < n → (dst i + len ≤ src j ∨ src j + len ≤ dst i) ∧
        (i ≠ j → dst i + len ≤ dst j ∨ dst j + len ≤ dst i)) →
      Completes (.dmaTransferComplete d p q) s fun t =>
        (∀ i, i < n → t.bytes (dst i) len = s.bytes (src i) len) ∧
        (∀ x, (∀ i, i < n → x < dst i ∨ dst i + len ≤ x) → t.byte x = s.byte x) ∧
        t.cmd d p r.entry.cmd = none ∧ (t.spr d p).dma = (s.spr d p).dma.filter (fun y => y.q ≠ r.q) ∧
        (cmdCompl c.bytes = true → s.eventRoom d p (56 + cmdCq c.bytes) = true →
          (t.que d p (56 + cmdCq c.bytes)).entries = (s.que d p (56 + cmdCq c.bytes)).entries ++
            [written (completionEntry c.bytes rcOk 0 (woEngine d 9) 0 c.step [])])) ∧
    ((∃ i, i < n ∧ (s.jobRange (src i) len = false ∨ s.jobRange (dst i) len = false)) →
      Completes (.dmaTransferComplete d p q) s fun t =>
        t.flag d .MEM_ERR_UNMAPPED = true ∧ t.mem = s.mem ∧ t.cmd d p r.entry.cmd = none ∧
        (s.eventRoom d p (56 + cmdCq c.bytes) = true →
          (t.que d p (56 + cmdCq c.bytes)).entries = (s.que d p (56 + cmdCq c.bytes)).entries ++
            [written (completionEntry c.bytes rcBadArg 0 (woEngine d 9) 0 c.step [])])))

/-- The oldest SEND of a command queue enters its receive queue when that accepts entries and has room, with the sender's QID
and module index in bytes 16-19; it waits while the queue is full, and is denied when the queue is absent, disabled or draining.
A SEND to another module leaves when that module's queue accepts it and the local link port has credit for it, waits while it
has none, and is denied when that queue refuses it. The schedule fetcher expands the next command of its slot table and enters
it into its command queue while that has room, with its full tick, and passes on to the next command; it holds a command whose
queue refuses entries (R174, R294). Completes, each with the effect its clause gives: SEND_RECEIVE, SCHEDULE_FETCH. -/
def Obligations.SendsAndSchedulesEnterQueues : Prop :=
  (∀ (d : CDie) (p : Phys) (cq : Fin 16) (ra : Bool) (x : SendOut) (c : Cmd) (s : State), s.canonical = true → s.live d p = true →
    (s.spr d p).sends.find? (fun x => x.q = cq.val) = some x → s.cmd d p x.cmd = some c →
    let left (t : State) : Prop :=
      (t.spr d p).sends = (s.spr d p).sends.filter (fun z => z.cmd ≠ x.cmd) ∧ t.cmd d p x.cmd = none
    (x.module = s.modIx →
      (∀ d' p' q', s.sendTarget x.qid = some (d', p', q') →
        ((s.que d' p' q').full = false → Completes (.sendReceive d p cq ra) s fun t => left t ∧
          (t.que d' p' q').entries = (s.que d' p' q').entries ++ [{ bytes := x.entry, tick := c.step, cmd := 0 }]) ∧
        ((s.que d' p' q').full = true → exec (.sendReceive d p cq ra) s = .next s)) ∧
      (s.sendTarget x.qid = none → Completes (.sendReceive d p cq ra) s fun t => left t ∧
        (s.eventRoom d p (56 + cmdCq c.bytes) = true →
          (t.que d p (56 + cmdCq c.bytes)).entries = (s.que d p (56 + cmdCq c.bytes)).entries ++
            [written (completionEntry c.bytes rcDenied 0 (s.coreSrc d p x.q) 0 c.step [])]))) ∧
    (x.module ≠ s.modIx →
      (32 ≤ x.qid % 64 → x.qid % 64 < 48 →
        (s.sendWait x.module = none → Completes (.sendReceive d p cq true) s fun t => left t ∧
          t.outbox = s.outbox ++ [Sent.send x.module x.qid c.step x.entry]) ∧
        (s.sendWait x.module ≠ none → exec (.sendReceive d p cq true) s = .next s)) ∧
      Completes (.sendReceive d p cq false) s fun t => left t ∧
        (s.eventRoom d p (56 + cmdCq c.bytes) = true →
          (t.que d p (56 + cmdCq c.bytes)).entries = (s.que d p (56 + cmdCq c.bytes)).entries ++
            [written (completionEntry c.bytes rcDenied 0 (s.coreSrc d p x.q) 0 c.step [])]))) ∧
  (∀ (d : CDie) (p : Phys) (l : Nat) (j : Job) (v : VariantPart) (e : SlotEntry) (q : Nat) (c : QEntry) (s : State),
    s.canonical = true → s.logicalOf d p = some l → s.job = some j → j.running = true → s.frozen = false →
    let x := s.spr d p
    x.held = [] → (s.runningParts.find? fun v => v.die = d ∧ v.logical.val = l) = some v → v.slots[x.fetchPos]? = some e →
    ((slotUnits v e).any fun u => j.excluded u.1 u.2.1) = false → expand v e x.fetchTmpl = some (q, c) →
    c.bytes.length = 64 → (x.fallbacks.any fun f => f.n8.contains c.bytes) = false →
    (s.mayEnter d p q c = true → Completes (.scheduleFetch d p) s fun t =>
      (t.que d p q).entries.length = (s.que d p q).entries.length + 1 ∧
      ((t.spr d p).fetchPos, (t.spr d p).fetchTmpl) = nextFetch v x.fetchPos x.fetchTmpl ∧ SameStores s t ∧
      ((x.que q).entries = [] → (t.que d p q).entries = [{ c with tick := c.tick % 2 ^ 24 }] ∧
        (t.que d p q).tickBase = c.tick % 2 ^ 24)) ∧
    ((s.que d p q).full = true → (s.que d p q).accepts = true → x.st = .enabled → exec (.scheduleFetch d p) s = .next s) ∧
    ((s.que d p q).accepts = false → Completes (.scheduleFetch d p) s fun t =>
      (t.spr d p).held = [{ c with cmd := q }] ∧ t = s.setSpr d p (t.spr d p) ∧
      ((t.spr d p).fetchPos, (t.spr d p).fetchTmpl) = nextFetch v x.fetchPos x.fetchTmpl))

/-- A sprig fault sets the sprig's FAILED bit, also in the repair record. Of a sprig that runs a logical number the queued
entries are cancelled and the dispatched work abandoned; of an unused spare nothing else changes. A failed data wire of a lane
group takes a spare, up to four; a fifth retires the group. A wire already failed, or in a retired group, changes nothing (R19).
Completes, each with the effect its clause gives: SPRIG_FAULT, BRIDGE_WIRE_FAIL. -/
def Obligations.SprigAndWireFaultsAreRepaired : Prop :=
  (∀ (d : CDie) (p : Phys) (s : State), s.canonical = true → s.failed d p = false →
    let marked (t : State) : Prop :=
      t.getF d (.SPRG_MAP_FAILED (p / 17)) = s.getF d (.SPRG_MAP_FAILED (p / 17)) ||| 2 ^ (p.val % 17) ∧
      Store.get 0 t.repair (d.val * 16 + p.val / 17) = t.reg d (Reg.SPRG_MAP (p / 17))
    (s.logicalOf d p ≠ none → Completes (.sprigFault d p) s fun t => marked t ∧
      (t.spr d p).cmds = [] ∧ (t.spr d p).dma = [] ∧ (t.spr d p).sends = [] ∧
      (∀ q, q < 56 → (t.que d p q).entries = []) ∧ ∀ a, a < 4 → (t.arr d p a).accepted = [] ∧ (t.arr d p a).iq = []) ∧
    (s.logicalOf d p = none → Completes (.sprigFault d p) s fun t => marked t ∧ t.sprigs = s.sprigs ∧ SameStores s t)) ∧
  (∀ (b : Fin 30) (dir : Bool) (g : Fin 64) (w : Fin 128) (s : State), s.canonical = true →
    let k := b.val * 128 + dir.toNat * 64 + g.val
    let failed := Store.get [] s.wires k
    (s.retired.contains k = false → failed.contains w.val = false →
      Completes (.bridgeWireFail b dir g w) s fun t =>
        (failed.length < 4 → Store.get [] t.wires k = failed ++ [w.val] ∧ t.retired = s.retired ∧ t.detours = s.detours) ∧
        (4 ≤ failed.length → k ∈ t.retired)) ∧
    (s.retired.contains k = true ∨ failed.contains w.val = true → exec (.bridgeWireFail b dir g w) s = .next s))

/-- Clearing EN of a sprig, a queue or an engine that is ENABLED puts it into DRAINING; setting it again takes effect once
DISABLED is reached, and from DISABLED at once, a queue then starting empty but for entries that waited for it. When a drain
times out the work still running is aborted and the error bit sets: SPRG_ERR.DRAIN_TMO of a sprig or of a queue's sprig, DRAIN
of an engine's error register. A drain ends once no work runs: entries that have not started leave the queue, and it is
DISABLED, or ENABLED when EN was set meanwhile. Completes, each with the effect its clause gives: SPRIG_DISABLE, SPRIG_ENABLE,
QUEUE_DISABLE, QUEUE_ENABLE, ENGINE_DISABLE, ENGINE_ENABLE, DRAIN_TIMEOUT, DRAIN_END. -/
def Obligations.EnablesDrainAndEnd : Prop :=
  (∀ (d : CDie) (p : Phys) (q : QIx) (e : EngineId) (s : State), s.canonical = true →
    (s.offline d p = false →
      (Completes (.sprigDisable d p) s fun t => t.flag d (.SPRG_CTL_EN p) = false ∧
        (t.spr d p).st = (if (s.spr d p).st = .enabled then .draining else (s.spr d p).st)) ∧
      (Completes (.sprigEnable d p) s fun t => t.flag d (.SPRG_CTL_EN p) = true ∧
        ((s.spr d p).st = .disabled → (t.spr d p).st = .enabled ∧
          ∀ k, k < 64 → k < 56 ∨ (s.spr d p).stalled = [] → (t.que d p k).entries = []) ∧
        ((s.spr d p).st = .draining → (t.spr d p).st = .draining ∧ (t.spr d p).enReq = true))) ∧
    (Completes (.queueDisable d p q) s fun t => t.flag d (.QUE_CTL_EN p q) = false ∧
      (t.que d p q).st = (if (s.que d p q).st = .enabled then .draining else (s.que d p q).st) ∧
      (t.que d p q).entries = (s.que d p q).entries) ∧
    (Completes (.queueEnable d p q) s fun t => t.flag d (.QUE_CTL_EN p q) = true ∧
      ((s.que d p q).st = .disabled → (t.que d p q).st = .enabled ∧ (t.que d p q).head = 0 ∧
        ((∀ x ∈ (s.spr d p).stalled, x.q ≠ q.val) → (t.que d p q).entries = [])) ∧
      ((s.que d p q).st = .draining → (t.que d p q).st = .draining ∧ (t.que d p q).enReq = true)) ∧
    (Completes (.engineDisable d e) s fun t => t.flag d (engEn e) = false ∧
      (t.eng d e).st = (if (s.eng d e).st = .enabled then .draining else (s.eng d e).st) ∧
      (t.eng d e).accepted = (s.eng d e).accepted) ∧
    (Completes (.engineEnable d e) s fun t => t.flag d (engEn e) = true ∧
      ((s.eng d e).st = .disabled → (t.eng d e).st = .enabled) ∧
      ((s.eng d e).st = .draining → (t.eng d e).st = .draining ∧ (t.eng d e).enReq = true))) ∧
  (∀ (d : CDie) (p : Phys) (q : QIx) (e : EngineId) (s : State), s.canonical = true → s.frozen = false →
    ((s.spr d p).st = .draining → s.sprigBusy d p = true → Completes (.drainTimeout (.sprig d p)) s fun t =>
      t.flag d (.SPRG_ERR_DRAIN_TMO p) = true ∧ ∀ a, a < 4 → (t.arr d p a).accepted = [] ∧ (t.arr d p a).iq = []) ∧
    ((s.que d p q).st = .draining → s.queueWork d p q ≠ [] → Completes (.drainTimeout (.queue d p q)) s fun t =>
      t.flag d (.SPRG_ERR_DRAIN_TMO p) = true) ∧
    ((s.eng d e).st = .draining → (s.eng d e).accepted ≠ [] → Completes (.drainTimeout (.engine d e)) s fun t =>
      t.flag d (engDrainErr e) = true ∧ (t.eng d e).accepted = []) ∧
    ((s.spr d p).st = .draining → s.sprigBusy d p = false → s.returning d p = false → (s.spr d p).srstReq = false →
      (∀ k, k < 56 → (s.que d p k).entries = []) → Completes (.drainEnd (.sprig d p)) s fun t =>
        (t.spr d p).st = if (s.spr d p).enReq then .enabled else .disabled) ∧
    ((s.que d p q).st = .draining → s.queueWork d p q = [] → Completes (.drainEnd (.queue d p q)) s fun t =>
      (q.val < 56 → (t.que d p q).entries = []) ∧
      (s.returning d p = false → (s.que d p q).entries = [] →
        (t.que d p q).st = if (s.que d p q).enReq then .enabled else .disabled)) ∧
    ((s.eng d e).st = .draining → (s.eng d e).accepted = [] → (s.eng d e).srstReq = false → (e ≠ .fnl ∨ s.fnlWaits d = []) →
      Completes (.drainEnd (.engine d e)) s fun t => (t.eng d e).st = if (s.eng d e).enReq then .enabled else .disabled))

/-- A completion that waited for room is written: a CANCELLED one after the die supervisor has made room, another when the
supervisor takes the oldest entry of the full queue, which it copies to Milmar firmware. A finished request leaves its engine,
and its completion enters the event queue its command names, with its status, FPX and DETAIL and the engine as its source; on
success only with COMPL. Completes, each with the effect its clause gives: CANCELLED_COMPLETION_WRITE, EVENT_QUEUE_FULL_SERVICE,
ENGINE_COMPLETION. -/
def Obligations.CompletionsAreWritten : Prop :=
  (∀ (d : CDie) (p : Phys) (x : Stalled) (s : State), s.canonical = true →
    ((s.spr d p).stalled.find? (fun x => x.cancelled) = some x → (s.que d p x.q).accepts = true →
      s.headClean d p x.q = true →
      Completes (.cancelledCompletionWrite d p) s fun t =>
        (t.spr d p).stalled = (s.spr d p).stalled.erase x ∧
        (t.que d p x.q).entries =
          (if (s.que d p x.q).full then (s.que d p x.q).entries.drop 1 else (s.que d p x.q).entries) ++ [written x.bytes]) ∧
    ∀ ev : Fin 8, (s.spr d p).stalled.find? (fun x => x.q = 56 + ev.val) = some x → x.cancelled = false →
      (s.que d p (56 + ev.val)).entries.length = 64 → (s.que d p (56 + ev.val)).accepts = true →
      s.headClean d p (56 + ev.val) = true → Completes (.eventQueueFullService d p ev) s fun t =>
        (t.spr d p).stalled = (s.spr d p).stalled.erase x ∧
        (t.que d p (56 + ev.val)).entries = (s.que d p (56 + ev.val)).entries.drop 1 ++ [written x.bytes] ∧
        ∃ b, (s.que d p (56 + ev.val)).entries.head? = some b ∧ (d.val, b.bytes) ∈ t.fwInbox) ∧
  (∀ (d : CDie) (e : EngineId) (r : EReq) (rest : List EReq) (c : Cmd) (s : State), s.canonical = true → s.frozen = false →
    s.engSpace d (engIx e) = none → (s.eng d e).accepted = r :: rest → s.cmd d r.p r.cmd = some c → Completes (.engineCompletion d e) s fun t =>
      let q := 56 + cmdCq c.bytes
      (t.eng d e).accepted = rest ∧ t.cmd d r.p r.cmd = none ∧ t.mem = s.mem ∧
      ((cmdCompl c.bytes = true ∨ r.status ≠ rcOk) → s.eventRoom d r.p q = true →
        (t.que d r.p q).entries = (s.que d r.p q).entries ++
          [written (completionEntry c.bytes r.status 0 (r.producer d e) r.fpx c.step r.detail)]) ∧
      (cmdCompl c.bytes = false → r.status = rcOk → (t.que d r.p q).entries = (s.que d r.p q).entries))

/-- Each request row of the die engines takes the next request, round-robin, from the head of its queue; a malformed one sets
BADREQ, writes nothing and is answered BAD_ARG; any other runs, one that meets unusable data skips its unit (Table 13.1, 0x03),
and its answer awaits the completion entry. Completes, each with the effect its clause gives: CHERVIL_REQUEST, FWD, DELTA, BWD,
RMS, LN, RMS_BWD, LN_BWD, GATHER, SCATTER, FIN, MOVE, UPDATE, WCOPY, GNORM, ORTHO, PCOMMIT, EMU_MM. -/
def Obligations.EngineRowsServeRequests : Prop :=
  ∀ (i : Instr) (v : Service) (s : State), service i = some v → s.canonical = true →
    (s.nextRequest v.d v.e = none → exec i s = .next s) ∧
    ∀ (l p : Nat) (q : QEntry), s.nextRequest v.d v.e = some (l, p, q) → s.headClean v.d p (48 + engIx v.e) = true →
      let opr := slice q.bytes 16 48
      let at_ := dpa v.d 1 (fldBits opr 2 4 25 0)
      let taken := s.engineTakes v.d p l v.e
      let j := s.requestOf v.d p q (if v.framed then s.bytes at_ 64 else [])
      (v.mine (fld opr 0 1) = false → exec i s = .next s) ∧
      (v.mine (fld opr 0 1) = true → (v.framed = true → s.clean at_ 64 = true) →
        ((v.framed && !j.frameOk || !v.legal j) = true → Completes i s fun t =>
          t.flag v.d v.bad = true ∧ t.mem = s.mem ∧ (t.que v.d p (48 + engIx v.e)).entries = (s.que v.d p (48 + engIx v.e)).entries.drop 1 ∧
          (t.eng v.d v.e).last = some l ∧
          (t.eng v.d v.e).accepted = (s.eng v.d v.e).accepted ++ [j.answered v.e (EAns.code rcBadArg)]) ∧
        ((v.framed && !j.frameOk || !v.legal j) = false →
          let r := v.run taken j
          let u := if r.2.status = rcFault then r.1.skipUnit j.bytes 0x03 else r.1
          exec i s = .next (u.setEng v.d v.e
            { u.eng v.d v.e with accepted := (u.eng v.d v.e).accepted ++ [j.answered v.e r.2] })))

/-- MOVE copies the bits of every element of its block, unchanged, and no other bit of memory changes, 4-bit elements too;
blocks that overlap are refused, and so is one with an element below address 0. CONTRIB adds its Q16 tile to the exchange
buffer, or with NEG subtracts it, 32 bits an element, and no other byte changes, on a retry from the words that its first
attempt found; under an epoch other than its reduction's it changes no byte and sets FNL_ERR.EPOCH. -/
def Obligations.MoveAndContribWriteTheirBlocks : Prop :=
  (∀ (s : State) (j : EJob), s.canonical = true →
    let u := layUnits j
    let n := (u + 1) / 2
    let es := (layElems j).map fun e => (e.1.toNat, e.2.toNat)
    let a := layCover u (es.map (·.1))
    let b := layCover u (es.map (·.2))
    let apart := a.1 + a.2 ≤ b.1 ∨ b.1 + b.2 ≤ a.1
    let nib (t : State) (x : Nat) : Nat := (t.byte (x / 2)).toNat / (if x % 2 = 0 then 1 else 16) % 16
    ((∃ e ∈ layElems j, e.1 < 0 ∨ e.2 < 0) → (runMove s j).2 = EAns.code rcBadArg ∧ (runMove s j).1.mem = s.mem) ∧
    ((∀ e ∈ layElems j, 0 ≤ e.1 ∧ 0 ≤ e.2) →
      (a.1 < b.1 + b.2 → b.1 < a.1 + a.2 → runMove s j = (s, EAns.code rcBadArg)) ∧
      (apart → (∀ e ∈ es, s.jobRange (e.1 / 2) n = true ∧ s.jobRange (e.2 / 2) n = true ∧ s.clean (e.1 / 2) n = true ∧
          s.clean (e.2 / 2) n = true ∧ s.touchesParity (e.2 / 2) n = false) →
        let r := runMove s j
        (u ≠ 1 → (es.Pairwise fun x y => x.2 / 2 + n ≤ y.2 / 2 ∨ y.2 / 2 + n ≤ x.2 / 2) →
          r.2.status = rcOk ∧ (∀ e ∈ es, r.1.bytes (e.2 / 2) n = s.bytes (e.1 / 2) n) ∧
            ∀ x, (∀ e ∈ es, x < e.2 / 2 ∨ e.2 / 2 + n ≤ x) → r.1.byte x = s.byte x) ∧
        (u = 1 → (es.map (·.2)).Nodup →
          r.2.status = rcOk ∧ (∀ e ∈ es, nib r.1 e.2 = nib s e.1) ∧ ∀ x, (∀ e ∈ es, x ≠ e.2) → nib r.1 x = nib s x)))) ∧
  (∀ (s : State) (j : EJob), s.canonical = true → j.d < 16 →
    let n := j.fCount
    let a := j.addr 0
    let b := j.addr 1
    (s.wrongEpoch j = true → (runContrib s j).1.mem = s.mem ∧ (runContrib s j).1.flag j.d .FNL_ERR_EPOCH = true) ∧
    (let u := s.takeSaved b;
      s.wrongEpoch j = false → u.jobRange a (2 * n) = true → u.jobRange b (4 * n) = true → u.clean a (2 * n) = true →
      u.clean b (4 * n) = true → u.touchesParity b (4 * n) = false → (a + 2 * n ≤ b ∨ b + 4 * n ≤ a) →
      let t := (runContrib s j).1
      (∀ i, i < n → leNat (t.bytes (b + 4 * i) 4) = lowBits 32
        (sx 32 (leNat (u.bytes (b + 4 * i) 4)) + (if j.flags.testBit 0 then -1 else 1) * sx 16 (leNat (u.bytes (a + 2 * i) 2)))) ∧
      ∀ y, y < b ∨ b + 4 * n ≤ y → t.byte y = u.byte y))

/-- A parity delta XOR-accumulates into its unit of the staging area of its row's parity die, and no other byte changes; a
commit adds a source's staged unit into the parity unit and clears it, if its tag is that of the layer and step and nothing was
mixed into it; with no delta it changes no byte and is recorded all the same. The protected rows of a lost die are rebuilt at
the places that the placer gives them in the survivors' placer areas (R261): each unit is the XOR of its row's parity unit with
the other data units and their staged deltas, and a parity unit the XOR of its row's data units; no unit of another die changes,
and every codeword of a protected row is good. Completes, each with the effect its clause gives: STAGING_DELTA. -/
def Obligations.ParityIsStagedCommittedAndRebuilds : Prop :=
  ((∀ (src holder : CDie) (x : Delta) (s : State), s.canonical = true → s.frozen = false →
    s.deltas.find? (fun x => x.src = src.val ∧ x.holder = holder.val) = some x →
    let a := s.stgAddr x.src x.row x.off
    let n := x.data.length
    s.reaches src [holder.val] = true → s.clean a n = true → sameBlock a (a + n) = true → Completes (.stagingDelta src holder) s fun t =>
      t.deltas = s.deltas.erase x ∧ t.bytes a n = xorBytes (s.bytes a n) x.data ∧
      (∀ y, y < a ∨ a + n ≤ y → t.byte y = s.byte y) ∧ (t.part holder src).touched.contains x.row = true ∧
      (t.part holder src).tag = some ((s.part holder src).tag.getD (x.layer, x.step)) ∧
      ((s.part holder src).tag.getD (x.layer, x.step) ≠ (x.layer, x.step) → (t.part holder src).mixed = true ∧
        t.flag holder .MEM_ERR_STGMIX = true)) ∧
  ∀ (h src : CDie) (layer step r : Nat) (s : State), s.canonical = true →
    let p := s.part h src
    let a := s.stgAddr src r 0
    let u := dpa h 0 (s.parBase + r * 4096)
    (∀ g, p.tag = some g → (g ≠ (layer, step) ∨ p.mixed = true) → s.commitAt h src layer step = (s, false)) ∧
    (p.tag = none → p.mixed = false → p.touched = [] → let t := s.commitAt h src layer step
      t.2 = true ∧ t.1.mem = s.mem ∧ t.1.reg h Reg.UPD_COMMIT_STEP = BitVec.ofNat 32 step ∧
        t.1.reg h Reg.UPD_COMMIT_LAYER = BitVec.ofNat 32 layer) ∧
    (dpaSpace a = 0 → dpaSpace u = 0 → sameBlock a (a + 4095) = true → sameBlock u (u + 4095) = true →
      p.tag = some (layer, step) → p.mixed = false → p.touched = [r] → s.clean a 4096 = true → s.clean u 4096 = true →
      (a + 4096 ≤ u ∨ u + 4096 ≤ a) →
      let t := s.commitAt h src layer step
      t.2 = true ∧ t.1.bytes u 4096 = xorBytes (s.bytes u 4096) (s.bytes a 4096) ∧
        t.1.bytes a 4096 = List.replicate 4096 0 ∧ t.1.part h src = StgPart.clear ∧
        t.1.reg h Reg.UPD_COMMIT_STEP = BitVec.ofNat 32 step ∧ t.1.reg h Reg.UPD_COMMIT_LAYER = BitVec.ofNat 32 layer)) ∧
  (∀ (f : CDie) (place : Nat → Nat) (s : State), s.canonical = true → s.deltas = [] → s.stripe.contains f.val = true →
    s.stripe.all (fun d => decide (d < 16)) = true → s.stripe.Nodup →
    s.parBase + s.parBlocks * s.stripe.length * 4096 ≤ 2 ^ 44 →
    (∀ r j x n, r < s.parBlocks * s.stripe.length → n < s.parBlocks * s.stripe.length → j ∈ s.stripe → x ∈ s.stripe →
      s.stgAddr j r 0 + 4096 ≤ dpa x 0 (s.parBase + n * 4096) ∨ dpa x 0 (s.parBase + n * 4096) + 4096 ≤ s.stgAddr j r 0) →
    s.stgBase + 16 * (s.parBlocks * 4096) ≤ 2 ^ 44 →
    (∀ r j, r < s.parBlocks * s.stripe.length → j ∈ s.stripe →
      s.clean (dpa j 0 (s.parBase + r * 4096)) 4096 = true ∧ s.clean (s.stgAddr j r 0) 4096 = true) →
    (∀ r n x, r < s.parBlocks * s.stripe.length → n < s.parBlocks * s.stripe.length → x ∈ s.stripe →
      place r + 4096 ≤ dpa x 0 (s.parBase + n * 4096) ∨ dpa x 0 (s.parBase + n * 4096) + 4096 ≤ place r) →
    (∀ r n x, r < s.parBlocks * s.stripe.length → n < s.parBlocks * s.stripe.length → x ∈ s.stripe →
      place r + 4096 ≤ s.stgAddr x n 0 ∨ s.stgAddr x n 0 + 4096 ≤ place r) →
    (∀ r n, r < s.parBlocks * s.stripe.length → n < s.parBlocks * s.stripe.length → r ≠ n →
      place r + 4096 ≤ place n ∨ place n + 4096 ≤ place r) →
    (∀ r, r < s.parBlocks * s.stripe.length → s.rescueAt f r = some (place r)) →
    let t := s.rebuildDie f
    let unit (d r : Nat) : List Byte := s.bytes (dpa d 0 (s.parBase + r * 4096)) 4096
    let staged (d r : Nat) : List Byte := s.bytes (s.stgAddr d r 0) 4096
    ∀ r, r < s.parBlocks * s.stripe.length →
      let pd := s.parityDie r
      let others := s.stripe.filter fun d => d ≠ pd ∧ d ≠ f.val
      t.bytes (place r) 4096 =
        (if f.val = pd then others.foldl (fun a j => xorBytes a (unit j r)) (List.replicate 4096 0)
        else others.foldl (fun a j => xorBytes a (xorBytes (unit j r) (staged j r))) (unit pd r)) ∧
      (∀ d ∈ s.stripe, d ≠ f.val → t.bytes (dpa d 0 (s.parBase + r * 4096)) 4096 = unit d r) ∧
      ((f.val = pd ∨ s.unprotected.contains r = false) → (∀ d ∈ s.stripe, d ≠ f.val → s.lostDies.contains d = false) →
        ∀ i, i < 64 → t.dev (place r + 64 * i) = []))

/-- Each row of Fennel serves its next request, from a queue or, where none is there, of those that wait: a malformed one sets
BADREQ and is answered BAD_ARG; one that gives no data is answered FAULT; any other opens its reduction and runs, and is then
done, waits for contributions, or is held poisoned until its retry, which FNL counts. An answered request awaits its completion,
which names its reduction (R321), once no older request of its sprig is unfinished (R178); a rerun reports nothing; a waiting
one joins those that wait, and FNL_AON shows the oldest reduction that is held poisoned. A frame that a link die has held for
100 us without its reduction is discarded and counted; when the old-epoch fence times out every die sets FNL_ERR.FENCE_TMO and
the reduction is no longer awaited. Completes, each with the effect its clause gives: CONTRIB, XREDUCE, RECRED, RING, PERMUTE,
GPDELTA, BCAST, RID_HOLD_EXPIRY, FENCE_TIMEOUT. -/
def Obligations.FennelServesRequestsAndTimers : Prop :=
  ((∀ (i : Instr) (v : FennelService) (s : State), fennelService i = some v →
    (s.fnlNext v.d v.mine = none → exec i s = .next s) ∧
    ∀ (s1 : State) (j : EJob) (dok : Bool) (old : Option FWait), s.fnlNext v.d v.mine = some (s1, j, dok, old) →
      let go := v.run ((if j.retry then s1.countF v.d (dieCtr 37) 1 j.bytes else s1).openRed v.d j.rid) j
      (dok = false → j.desc = [] ∨ j.frameOk = true → exec i s = .next (s1.fnlDone j old (EAns.code rcFault))) ∧
      (dok = true ∨ j.desc ≠ [] → j.frameOk = false ∨ (dok = true ∧ fnlLegal j = false) →
        exec i s = .next ((s1.setF v.d .FNL_ERR_BADREQ 1).fnlDone j old (EAns.code rcBadArg))) ∧
      (dok = true → j.frameOk = true → fnlLegal j = true →
        (∀ a, go.2 = .done a → exec i s = .next (if old.any FWait.redo then go.1.fnlRedone j old a else go.1.fnlDone j old a)) ∧
        (go.2 = .waits → exec i s = .next (go.1.fnlWait j old j.retry)) ∧
        (go.2 = .poisoned → exec i s = .next (go.1.fnlWait j old true)))) ∧
  ∀ (s : State) (j : EJob) (a : EAns) (failed : Bool), s.canonical = true → j.d < 16 →
    let t := s.fnlDone j none a
    let u := s.fnlWait j none failed
    t.mem = s.mem ∧
    (s.fnlWaits j.d = [] → (t.eng j.d .fnl).accepted = (s.eng j.d .fnl).accepted ++ [j.fnlAnswer a] ∧ t.fnlWaits j.d = []) ∧
    ((∃ w ∈ s.fnlWaits j.d, w.p = j.p ∧ w.fin = none ∧ w.redo = false) →
      ∃ w ∈ t.fnlWaits j.d, w.p = j.p ∧ w.fin = some (j.fnlAnswer a)) ∧
    u.mem = s.mem ∧
    (∃ w : FWait, u.fnlWaits j.d = s.fnlWaits j.d ++ [w] ∧ w.p = j.p ∧ w.cmd = j.id ∧ w.failed = failed ∧ w.fin = none) ∧
    (failed = true → ((s.fnlWaits j.d).any fun w => w.failed) = false →
      u.reg j.d Reg.FNL_AON = BitVec.ofNat 32 (2 ^ 31 + j.rid))) ∧
  ((∀ (l : LDie) (h : Nat × Nat × List Byte) (s : State), s.canonical = true →
    s.edge.fnl.held.find? (fun h => h.1 / 8 = l.val) = some h → Completes (.ridHoldExpiry l) s fun t =>
      t.edge.fnl.held = s.edge.fnl.held.erase h ∧ t.now = max s.now (h.2.1 + 100000) ∧
      t.ctr (16 + l.val) (dieCtr 1) = s.ctr (16 + l.val) (dieCtr 1) + 1) ∧
  ∀ (rid : BitVec 28) (missing : List Nat) (r : Reduction) (j : Job) (due : Nat) (s : State), s.canonical = true →
    s.frozen = false → s.edge.reshard ≠ none → s.reduction rid.toNat = some r → s.inFlight r = true → s.job = some j → r.due = some due →
    Completes (.fenceTimeout rid missing) s fun t =>
      (∀ d, d < 18 → t.flag d .FNL_ERR_FENCE_TMO = true) ∧ t.now = max s.now (due + s.getF 0 .FNL_FENCE_TMO_MS * 1000000) ∧
      ∃ r', t.reduction rid.toNat = some r' ∧ r'.due = none)

/-- Reads, partial writes and scrub: clean codewords are read unchanged; a correctable error sets CE, and only scrub rewrites
the codeword; an uncorrectable one outside the stripe sets UE and is poisoned and captured; a partial write merges its bytes,
those of an accumulator into its word, and is discarded at a parity unit; an access outside the populated range moves no data
and sets UNMAPPED (R235; its die is the model's reading, log 120); each scrub burst advances its position. A row's parity unit
is regenerated as the XOR of its data units, the row's staging units are cleared and the row is protected again; a request that
becomes urgent is the latest of its requester at its arbiter, urgent from its age limit on, and no other arbiter is affected.
Completes, each with the effect its clause gives: MEMORY_READ, PARTIAL_WRITE, SCRUB_BURST, SRAM_SCRUB_BURST,
PARITY_REGENERATION, REQUEST_URGENT. -/
def Obligations.MemoryCodewordsParityAndArbiters : Prop :=
  (∀ (d : CDie) (sp : MemSpace) (off : BitVec 44) (data : List Byte) (u : Upset) (s : State), s.canonical = true →
    let a := memDpa d sp off.toNat
    let x := s.upset a u
    let scrubbed := dpa d 0 (s.getF d .MEM_SCRUB_POS_POS * 4096)
    let there (n : Nat) : Prop := off.toNat + n ≤ s.populated d sp
    (¬there 1 → Completes (.memoryRead d sp off u) s fun t => t = s.setF d .MEM_ERR_UNMAPPED 1 ∧ t.flag d .MEM_ERR_UNMAPPED = true) ∧
    (¬there data.length → Completes (.partialWrite d sp off data u) s fun t =>
      t = s.setF d .MEM_ERR_UNMAPPED 1 ∧ t.flag d .MEM_ERR_UNMAPPED = true) ∧
    (there 1 → u = [] → s.dev a = [] → exec (.memoryRead d sp off u) s = .next s) ∧
    (∀ fix, there 1 → x.dev a ≠ [] → (codeAt a).decode (s.correct2 a) (x.dev a) = .corrected fix →
      (Completes (.memoryRead d sp off u) s fun t => t.flag d .ECC_ERR_CE = true ∧ t.mem = s.mem ∧ t.dev a = x.dev a ∧
        t.ctr d (dieCtr 13) = s.ctr d (dieCtr 13) + 1) ∧ ((x.cwRead 1 a).1).dev a = []) ∧
    (sp = .shared → there 1 → (codeAt a).decode (s.correct2 a) (x.dev a) = .uncorrectable →
      Completes (.memoryRead d sp off u) s fun t => t.flag d .ECC_ERR_UE = true ∧ t.dev a = (codeAt a).poison ∧
        t.ctr d (dieCtr 15) = s.ctr d (dieCtr 15) + 1 ∧ t.flag d .ECC_LOG0_VALID = true) ∧
    (there data.length → dpaSpace a ≤ 2 → sameBlock a (a + data.length) = true → s.clean a data.length = true → s.touchesParity a data.length = false →
      Completes (.partialWrite d sp off data []) s fun t =>
        t.bytes a data.length = data ∧ (∀ y, y < a ∨ a + data.length ≤ y → t.byte y = s.byte y) ∧ t.ecc = s.ecc) ∧
    (∀ p, sp = .acc p → off.toNat % 16 = 0 → there 16 → data.length = 16 → s.dev a = [] →
      Completes (.partialWrite d sp off data []) s fun t => t.mem = s.mem ∧ t.ecc = s.ecc ∧
        ∀ k, Store.get 0 t.acc k = if k = winKey a then BitVec.ofNat 108 (winWord data) else Store.get 0 s.acc k) ∧
    (there data.length → s.touchesParity a data.length = true → Completes (.partialWrite d sp off data []) s fun t =>
      t.mem = s.mem ∧ t.flag d .MEM_ERR_PARWRITE = true) ∧
    (s.flag d .MEM_SCRUB_CFG_EN = false → exec (.scrubBurst d []) s = .next s ∧ exec (.sramScrubBurst d []) s = .next s) ∧
    (s.frozen = false → s.flag d .MEM_SCRUB_CFG_EN = true →
      ((∀ i, i < 64 → s.dev (scrubbed + 64 * i) = []) → Completes (.scrubBurst d []) s fun t => t.mem = s.mem ∧ t.ecc = s.ecc ∧
        (s.dramSize ≤ (s.getF d .MEM_SCRUB_POS_POS + 1) * 4096 → t.getF d .MEM_SCRUB_POS_POS = 0 ∧
          t.ctr d (dieCtr 17) = s.ctr d (dieCtr 17) + 1) ∧
        ((s.getF d .MEM_SCRUB_POS_POS + 1) * 4096 < s.dramSize →
          t.getF d .MEM_SCRUB_POS_POS = s.getF d .MEM_SCRUB_POS_POS + 1)) ∧
      ((∀ i, i < 128 → s.dev (sramBurstDpa d (Store.get 0 s.edge.sramPos d) + 32 * i) = []) →
        Completes (.sramScrubBurst d []) s fun t => t.mem = s.mem ∧ t.ecc = s.ecc ∧
          Store.get 0 t.edge.sramPos d = (Store.get 0 s.edge.sramPos d + 1) % sramBursts))) ∧
  ((∀ (r : Nat) (s : State), s.canonical = true → r < s.parBlocks * s.stripe.length →
    let at_ (d : Nat) : Nat := dpa d 0 (s.parBase + r * 4096)
    let pd := s.parityDie r
    let stgEnd := s.stgBase + 16 * (s.parBlocks * 4096)
    let regionEnd := s.parBase + s.parBlocks * s.stripe.length * 4096
    regionEnd ≤ 2 ^ 44 → stgEnd ≤ 2 ^ 44 → (regionEnd ≤ s.stgBase ∨ stgEnd ≤ s.parBase) →
    (∀ d ∈ s.stripe, s.clean (at_ d) 4096 = true) →
    Completes (.parityRegeneration r r) s fun t =>
      t.bytes (at_ pd) 4096 = (s.stripe.filter (· ≠ pd)).foldl (fun x d => xorBytes x (s.bytes (at_ d) 4096)) (List.replicate 4096 0) ∧
      (∀ y, (y < at_ pd ∨ at_ pd + 4096 ≤ y) → (∀ j, j < 16 → y < s.stgAddr j r 0 ∨ s.stgAddr j r 0 + 4096 ≤ y) →
        t.byte y = s.byte y) ∧
      (∀ j, j < 16 → t.bytes (s.stgAddr j r 0) 4096 = List.replicate 4096 0 ∧ (t.part pd j).touched.contains r = false) ∧
      t.unprotected = s.unprotected.filter (· ≠ r) ∧
      ∀ c, (∀ j, j < 16 → c < s.stgAddr j r 0 ∨ s.stgAddr j r 0 + 4096 ≤ c) → Store.get [] t.ecc c = Store.get [] s.ecc c) ∧
  ∀ (arb : Arbiter) (req : ArbReq) (s : State),
    let waiting (s : State) (x : Arbiter) : List ArbWait := ((s.edge.arbs.find? fun y => y.1 = x).map (·.2)).getD []
    let since := match (waiting s arb).find? fun x => x.req.requester = req.requester with
      | some x => x.since
      | none => s.now - s.ageLimit arb
    Completes (.requestUrgent arb req) s fun t =>
      waiting t arb = (waiting s arb).filter (fun x => x.req.requester ≠ req.requester) ++
        [{ req := req, since := since, urgent := true }] ∧
      t.now = max s.now (since + s.ageLimit arb) ∧ ∀ x, x ≠ arb → waiting t x = waiting s x)

/-- The governor decides the level of every layer for step s+2 from the group-reduced records of step s, its committed rule set
and the layer's quiet count, and the record of that step opens with them; during a replay it decides nothing. Rules and freeze
tables: a pin outside its layer's range is BAD_ARG, any other enters the tentative set; a reduction carries the set's CRC-32:
equal over the group it commits, with every outstanding change answered, otherwise it is dropped. Completes, each with the
effect its clause gives: GOVERNOR_DECIDE. -/
def Obligations.GovernorDecidesAndRuleSetsCommit : Prop :=
  (∀ (j : Job) (last : Nat) (rs : List (List Byte)) (s : State), s.canonical = true →
    (s.flag 18 .JRN_STATUS_REPLAY = true → exec .governorDecide s = .next s) ∧
    (s.job = some j → s.gov.decided = some last → s.gov.reduced.lookup (last - 1) = some rs → s.frozen = false →
      s.flag 18 .JRN_STATUS_REPLAY = false → (j.graph.layers.map fun l => l.layer).Nodup → Completes .governorDecide s fun t =>
        let n := last - 1 + 2
        t.gov.decided = some n ∧ t.reg 18 Reg.SAGE_DECIDED = BitVec.ofNat 32 n ∧
        ((∀ r, s.journal = some r ∨ r ∈ s.edge.ahead → r.step ≠ n) → t.flag 18 .JRN_STATUS_OPEN = true ∧
          ∃ r, (t.journal = some r ∨ r ∈ t.edge.ahead) ∧ r.step = n ∧ r.pv = Store.get [] t.gov.vectors n) ∧
        SameStores s t ∧ (Store.get [] t.gov.vectors n).length = j.graph.layers.length ∧
        ∀ ix l, j.graph.layers[ix]? = some l → (Store.get [] t.gov.vectors n)[ix]? =
          some (BitVec.ofNat 8 (decideLayer s.gov.rules l (rs.filter fun q => recLayer q = l.layer) (s.levelAt (last - 1 + 1) ix)
            (Store.get 0 s.gov.quiet l.layer)).level))) ∧
  (∀ (req : List Word) (tag : Nat) (j : Job) (r : LayerRec) (s : State), s.canonical = true → s.job = some j →
    let layer := bits (req.getD 1 0) 19 0
    let lv := bits (req.getD 1 0) 22 20
    let base := s.gov.tent.getD s.gov.rules
    (bits (req.getD 0 0) 15 0 = 0x20 → j.graph.layers.find? (fun r => r.layer = layer) = some r →
      ((lv < r.floor ∨ r.ceil < lv) → s.runSagePin req tag = (s, .done rcBadArg [])) ∧
      (r.floor ≤ lv → lv ≤ r.ceil → (setPin layer (some lv) base.pins).length ≤ 1024 → s.gov.tentIn = false →
        (s.runSagePin req tag).2 = .accept rcPending none ∧
        ∃ t, (s.runSagePin req tag).1.gov.tent = some t ∧ t.pins.find? (fun p => p.1 = layer) = some (layer, lv) ∧
          ∀ n, n ≠ layer → t.pins.find? (fun p => p.1 = n) = base.pins.find? (fun p => p.1 = n))) ∧
    (bits (req.getD 0 0) 15 0 = 0x21 → j.graph.layers.find? (fun r => r.layer = layer) = some r → s.gov.tentIn = false →
      (base.pins.map fun p => p.1).Pairwise (· < ·) →
      ∃ t, (s.runSageUnpin req tag).1.gov.tent = some t ∧ t.pins.find? (fun p => p.1 = layer) = none) ∧
    (imagesLegal req = false → s.runSageSetRules req tag = (s, .done rcBadArg [])) ∧
    (bits (req.getD 0 0) 15 0 = 0x22 → imagesLegal req = true → s.gov.tentIn = false →
      ∃ t, (s.runSageSetRules req tag).1.gov.tent = some t ∧ t.ctl = req.getD 1 0 ∧ t.thr = req.getD 2 0 ∧
        t.quiet = req.getD 3 0 ∧ t.lo = req.getD 4 0 ∧ t.hi = req.getD 5 0 ∧ t.pins = base.pins) ∧
    (s.gov.tentIn = true → imagesLegal req = true → s.runSageSetRules req tag = (s, .done rcBusy [])) ∧
    (64 < argW req 3 → s.runFreezeSet req tag = (s, .done rcBadArg [])) ∧
    ∀ (x : RuleSet) (step : Nat), s.gov.tent = some x →
      (let t := s.ruleOutcome step true;
        t.gov.rules = x ∧ t.gov.tent = none ∧ t.reg 18 Reg.SAGE_DIGEST = crc32 x.bytes ∧
          ∀ c ∈ t.longs, [0x20, 0x21, 0x22].contains c.opcode = true → c.result ≠ none) ∧
      (let t := s.ruleOutcome step false;
        t.gov.rules = s.gov.rules ∧ t.gov.tent = none ∧
          ∀ c ∈ t.longs, [0x20, 0x21, 0x22].contains c.opcode = true → c.result ≠ none))

/-- A tick advances SPRG_TICK of every sprig of the die, wrapping at 24 bits; the first row of a step is for tick 0; a tick that
an unreleased barrier guards is held, and counted once. A barrier whose participants have all arrived is released at LEAD after
the last arrival, or when its frame says: its arrivals complete, held ticks of its dies go on, a group barrier's release frame
leaves. A boundary barrier that is not ready opens nothing; a ready one opens its phase's boundary, or starts the step: tick 0
of every sprig begins, the die parts' banks open, empty, and the TICK_LEN then written is in force. A barrier at which nobody
has arrived is not released. A barrier that is not released by its timeout is counted, reported as fault 0x31, and aborts the
step; one whose release is due by then, one whose tick has no nominal start yet, and a step-start barrier that waits for
coverage do not time out. Completes, each with the effect its clause gives: TICK, BARRIER_RELEASE, BARRIER_TIMEOUT. -/
def Obligations.TicksAndBarriersHoldAndRelease : Prop :=
  (∀ (d : CDie) (s : State), s.canonical = true → s.frozen = false →
    let now := (s.reg d (Reg.SPRG_TICK 0)).toNat
    (s.edge.tick0.contains d.val = true → Completes (.tick d) s fun t =>
      (∀ p, p < 272 → t.getF d (.SPRG_TICK_TICK p) = 0) ∧ t.edge.tick0 = s.edge.tick0.filter (· ≠ d.val) ∧
      t.ctr d (dieCtr 8) = (if s.edge.clearReq then 0 else s.ctr d (dieCtr 8)) + 1) ∧
    (s.edge.tick0.contains d.val = false →
      (s.guarded d ((now + 1) % 2 ^ 24) = none → Completes (.tick d) s fun t =>
        (∀ p, p < 272 → t.getF d (.SPRG_TICK_TICK p) = (now + 1) % 2 ^ 24) ∧ t.flag d .GLB_SCHED_STATUS_HELD = false) ∧
      (∀ b, s.guarded d ((now + 1) % 2 ^ 24) = some b → s.flag d .GLB_SCHED_STATUS_HELD = false → Completes (.tick d) s fun t =>
        t.reg d (Reg.SPRG_TICK 0) = s.reg d (Reg.SPRG_TICK 0) ∧ t.flag d .GLB_SCHED_STATUS_HELD = true ∧
        t.ctr d (dieCtr 9) = s.ctr d (dieCtr 9) + 1) ∧
      (∀ b, s.guarded d ((now + 1) % 2 ^ 24) = some b → s.flag d .GLB_SCHED_STATUS_HELD = true → exec (.tick d) s = .next s))) ∧
  (∀ (id : BitVec 28) (mx mn px pn : Word) (j : Job) (s : State), s.canonical = true → s.frozen = false → s.job = some j →
    s.edge.ckpt = none → ¬(s.edge.boundary = some 0 ∧ j.endReq = .finish) →
    let n := id.toNat
    let bar := s.barriers.find? fun b => b.id = n
    let stays := exec (.barrierRelease id ⟨mx, px⟩ ⟨mn, pn⟩) s = .next s
    (bar = none → stays) ∧
    (∀ b, bar = some b → s.releasable j b = false → stays) ∧
    (∀ b, bar = some b → s.releasable j b = true → s.opens j n = none → Completes (.barrierRelease id ⟨mx, px⟩ ⟨mn, pn⟩) s fun t =>
      t.barriers = s.barriers.filter (fun x => x.id ≠ n) ∧ t.now = max s.now (s.releaseTime b) ∧
      t.edge.released = s.edge.released ++ [n] ∧
      (∀ d, d < 16 → (s.barDies b).contains d = true → t.flag d .GLB_SCHED_STATUS_HELD = false) ∧
      (∀ a ∈ b.arrived, t.cmd (a.1 / 272) (a.1 % 272) a.2 = none) ∧
      (barScope n = 2 → b.release = none → t.outbox.contains (Sent.barrier 1 n (s.releaseTime b)) = true)) ∧
    (∀ b ph, bar = some b → s.releasable j b = true → s.opens j n = some ph →
      (s.boundaryReady j ph mx mn px pn = false → Completes (.barrierRelease id ⟨mx, px⟩ ⟨mn, pn⟩) s fun t =>
        t.barriers.map (fun b => (b.id, b.arrived)) = s.barriers.map (fun b => (b.id, b.arrived)) ∧
        t.edge.boundary = s.edge.boundary ∧ t.edge.released = s.edge.released ∧ t.edge.tick0 = s.edge.tick0 ∧
        (s.variantReady j ph = false → t.flag 0 .GLB_SCHED_STATUS_VARWAIT = true) ∧
        ∃ j', t.job = some j' ∧ j'.phase = j.phase ∧ j'.step = j.step) ∧
      (s.boundaryReady j ph mx mn px pn = true → Completes (.barrierRelease id ⟨mx, px⟩ ⟨mn, pn⟩) s fun t =>
        t.barriers = s.barriers.filter (fun x => x.id ≠ n) ∧ (ph ≠ 0 → t.edge.boundary = some ph) ∧
        (ph = 0 → t.edge.boundary = none ∧ t.edge.tick0 = computeDies ∧
          (∀ d, d < 16 → Store.get 0 t.edge.tickLens d = s.getF d .GLB_TICK_CFG_TICK_LEN ∧
            (∀ p, p < 272 → t.getF d (.SPRG_TICK_TICK p) = 0) ∧
            t.bank d (j.step % 2) = { SageBank.empty with step := j.step } ∧ t.flag d .SAGE_STATUS_OPEN = true) ∧
          ∃ j', t.job = some j' ∧ j'.phase = 0 ∧ j'.step = j.step ∧ j'.started = true)))) ∧
  (∀ (id : BitVec 28) (b : Barrier) (j : Job) (s : State), s.canonical = true → s.frozen = false → s.job = some j →
    s.barriers.find? (fun b => b.id = id.toNat) = some b →
    (s.barrierDue j b = none → exec (.barrierTimeout id) s = .next s) ∧
    ∀ due, s.barrierDue j b = some due →
      let wins := (s.releasable j b = true ∧ s.releaseTime b ≤ due) ∨ (s.opens j b.id = some 0 ∧ j.stepCovered j.step = false)
      (wins → exec (.barrierTimeout id) s = .next s) ∧
      (¬wins → Completes (.barrierTimeout id) s fun t => t.now = max s.now due ∧
        t.ctr 18 (dieCtr (64 + 0x31)) = s.ctr 18 (dieCtr (64 + 0x31)) + 1 ∧ t.barriers = s.barriers ∧
        (barScope id.toNat ≠ 0 → ∀ d, d < 16 → t.ctr d (dieCtr 11) = s.ctr d (dieCtr 11) + 1) ∧
        (j.running = true → s.edge.abortAt = none → t.edge.abortAt = some (max s.now due + 256))))

/-- At a released boundary whose variant is in the cache every die shows the next phase and every schedule fetcher starts that
variant; otherwise the boundary waits, shown in VARWAIT. The end of the update phase ends the step; at the boundary after it a
reshard that is due commits with the next epoch (its place there is the model's choice, log 117). A variant that is built takes
a free or evicted entry of the schedule cache, and its shares are written in DRAM; one for a past repair state, or against the
precision vector or the graph's order, is discarded. Completes, each with the effect its clause gives: PHASE_SWITCH,
VARIANT_BUILD. -/
def Obligations.PhasesSwitchAndVariantsArePlaced : Prop :=
  (∀ (r : ReshardPlan) (sh : List PeerShard) (j : Job) (s : State), s.canonical = true → s.frozen = false → s.job = some j →
    j.running = true →
    (∀ ph, ph < 3 → s.edge.boundary = some (ph + 1) →
      (s.variantReady j (ph + 1) = true → Completes (.phaseSwitch ⟨r, sh⟩) s fun t =>
        t.edge.boundary = none ∧ t.job = some { j with phase := ph + 1, fetching := true } ∧
        (∀ d, d < 16 → t.getF d .GLB_SCHED_STATUS_PHASE = ph + 1 ∧ t.flag d .GLB_SCHED_STATUS_VARWAIT = false) ∧
        ∀ d p, d < 16 → p < 272 → (t.spr d p).fetchPos = 0 ∧ (t.spr d p).fetchTmpl = 0 ∧ (t.spr d p).held = []) ∧
      (s.variantReady j (ph + 1) = false → Completes (.phaseSwitch ⟨r, sh⟩) s fun t =>
        t.edge.boundary = s.edge.boundary ∧ t.job = s.job ∧ t.flag 0 .GLB_SCHED_STATUS_VARWAIT = true)) ∧
    (s.edge.boundary = some 0 →
      (s.reshardDue = false → exec (.phaseSwitch ⟨r, sh⟩) s = .next s) ∧
      (∀ q, s.edge.reshard = some q → s.reshardDue = true → r.fits = true → r.complete = true → r.groupMax = r.groupPlan →
        r.groupMin = r.groupPlan → Completes (.phaseSwitch ⟨r, sh⟩) s fun t => t.edge.reshard = none ∧
          (∀ d, d < 18 → t.getF d .FNL_EPOCH_EPOCH = (s.getF 0 .FNL_EPOCH_EPOCH + 1) % 65536 ∧ t.flag d .FNL_STATUS_FENCE = false) ∧
          ∃ j', t.job = some j' ∧ j'.cut = parseCut q.cut ∧ j'.groupPlan = r.groupPlan ∧ j'.step = j.step)) ∧
    (s.edge.boundary = none → j.phase = 3 → s.edge.ckpt = none → s.edge.reshard = none → s.edge.replay = none →
      s.stripe.filter s.lostDies.contains = [] → j.endReq ≠ .finish → Completes (.phaseSwitch ⟨r, sh⟩) s fun t => t.edge.boundary = some 0 ∧
        ∃ j', t.job = some j' ∧ j'.step = j.step + 1 ∧ j'.lastDone = some j.step ∧ j'.drops = [])) ∧
  ∀ (key : List Byte) (parts : List VariantPart) (s : State), s.canonical = true →
    let stays := exec (.variantBuild key parts) s = .next s
    (∀ e, s.findVariant key = some e → stays) ∧ (s.repairFresh s.substitute key = false → stays) ∧ (s.buildLegal key parts = false → stays) ∧
    (s.findVariant key = none → s.repairFresh s.substitute key = true → s.buildLegal key parts = true →
      (s.freeEntry = none → stays) ∧
      ∀ e, s.freeEntry = some e → e < 64 → partsFit parts = true →
        let at_ (d : Nat) : Nat := dpa d 0 (s.cacheBase + e * 0x1800000)
        (∀ d, d < 16 → s.clean (at_ d) (dieParts parts d).length = true) → Completes (.variantBuild key parts) s fun t =>
          (∃ v, t.findVariant key = some (e, v) ∧ v.parts = parts) ∧
          ∀ d, d < 16 → t.bytes (at_ d) (dieParts parts d).length = dieParts parts d)

/-- A native port sends a replayed frame when one is due, else the frame its slot picks, which takes the next sequence number
and one credit of its channel and stays in the retry buffer, else an idle frame; an Ethernet port sends the next frame of its
ring with its FCS; a Thyme sync frame, with its own send time and the two times of the last one received, leaves a port that is
UP, and the next is due a period later. A good frame's ACK removes the acknowledged frames from the retry buffer and its credit
is added; a frame with an uncorrectable codeword sets UNCORR, asks for a replay and brings nothing. Completes, each with the
effect its clause gives: FRAME_SEND, THYME_SYNC_SEND, IDLE_FRAME. -/
def Obligations.PortsSendAndHonourFrames : Prop :=
  (∀ (pt : Port) (slot : Fin 16) (s : State), s.canonical = true →
    let s0 := s.placeOutbox
    let x := s0.port pt
    (s0.portUp pt = false → exec (.frameSend pt slot) s = .next s0) ∧
    (s0.nativeUp pt = true → (x.late.find? fun l => l.1 = 0) = none →
      (∀ q rest, s0.frozen = false → x.resend = q :: rest → Completes (.frameSend pt slot) s fun t =>
        (t.port pt).resend = rest ∧ (t.port pt).queue = x.queue ∧ (t.port pt).txSeq = x.txSeq ∧ (t.port pt).retry = x.retry) ∧
      ((s0.frozen = true ∨ x.resend = []) →
        let pick := pickFrame x s0.frozen (slotOrder x slot s0.now (s0.getF 0 .MEM_AGE_CFG_BRIDGE * 64))
        (pick = none → Completes (.frameSend pt slot) s fun t => (t.port pt).queue = x.queue ∧ (t.port pt).txSeq = x.txSeq ∧
          (t.port pt).retry = x.retry ∧ (t.port pt).nak = false) ∧
        (∀ i vc at_ f, pick = some i → x.queue[i]? = some (vc, at_, f) → Completes (.frameSend pt slot) s fun t =>
          (t.port pt).queue.map (fun e => (e.1, e.2.2)) = (x.queue.eraseIdx i).map (fun e => (e.1, e.2.2)) ∧ (t.port pt).txSeq = (x.txSeq + 1) % 65536 ∧
          (t.port pt).retry = x.retry ++ [(x.txSeq, splice f 2 (natLe 2 x.txSeq))] ∧
          (t.port pt).credits = x.credits.set vc (x.credits.getD vc 0 - 1)))) ∧
    (s0.portUp pt = true → s0.portGen pt = 2 → ∀ vc at_ f rest, (s0.pumpXfers.placeOutbox.port pt).queue = (vc, at_, f) :: rest →
      (s0.pumpXfers.placeOutbox.port pt).pauseTill ≤ s0.pumpXfers.placeOutbox.now → Completes (.frameSend pt slot) s fun t => (t.port pt).queue = rest ∧ (t.port pt).wire = withFcs f) ∧
    (s.nativeUp pt = false → exec (.thymeSyncSend pt) s = .next s) ∧
    (s.nativeUp pt = true → Completes (.thymeSyncSend pt) s fun t => t.now = max s.now (s.port pt).syncAt ∧ (t.port pt).queue = (s.port pt).queue ∧
      slice (t.port pt).wire 16 24 = natLe 8 (16 * t.now) ++ natLe 8 (s.port pt).syncRx.1 ++ natLe 8 (s.port pt).syncRx.2 ∧
      (t.port pt).syncAt = max s.now (s.port pt).syncAt + s.getF (portDie pt) (.LNK_TMB_CFG_PERIOD (portIx pt)))) ∧
  (∀ (pt : Port) (f : List Byte) (s : State), s.canonical = true →
    let x := s.port pt
    (s.nativeUp pt = false → exec (.idleFrame pt f true) s = .next s) ∧
    (s.nativeUp pt = true → frType f ≠ 1 → goodFrame f = true → frNak f = false → Completes (.idleFrame pt f true) s fun t =>
      (t.port pt).retry = stillUnacked (frAck f) x.retry ∧ (t.port pt).rxSeq = x.rxSeq ∧
      (t.port pt).credits = x.credits.set (fldBits f 7 1 7 6) (x.credits.getD (fldBits f 7 1 7 6) 0 + fldBits f 7 1 5 0)) ∧
    (s.nativeUp pt = true → frType f ≠ 1 → Completes (.idleFrame pt f false) s fun t =>
      (t.port pt).nak = true ∧ (t.port pt).retry = x.retry ∧
      t.flag (portDie pt) (.LNK_ERR_UNCORR (portIx pt)) = true ∧
      t.ctr (portDie pt) (portCtr (portIx pt) 4) = s.ctr (portDie pt) (portCtr (portIx pt) 4) + 1))

/-- Sequenced frames act when they are next in sequence, once: a data frame for this module joins its open reduction or is held
(sum words in place of those of the same source and offset; log 35), and one of another epoch is discarded with FNL_ERR.EPOCH,
as a group data unit is (log 117); a barrier arrival raises the latest arrival, and once the subtree is in it goes to the
parent, a release sets the release time, an abort its time; a stop ID is issued the first time it is seen, and goes on to every
neighbour but the one it came from. In a stop they are captured. Completes, each with the effect its clause gives: DATA_FRAME,
BARRIER_FRAME, STOP_FRAME. -/
def Obligations.SequencedFramesActInOrder : Prop :=
  ∀ (pt : Port) (f : List Byte) (s : State), s.canonical = true → s.nativeUp pt = true → goodFrame f = true →
    let x := s.port pt
    let k := seqAfter (frSeq f) x.rxSeq
    let rid := fldBits (frPayload f) 0 4 27 0
    let op := fldBits (frPayload f) 0 4 31 28
    (∀ time, frType f = 1 → s.flag (portDie pt) (.LNK_INJ_CTL_EN (portIx pt)) = false → s.frozen = false → frVc f ≠ 1 →
      rid ≠ formRid → rid ≠ unitRid → ((rid ≠ dropRid ∧ rid ≠ corruptRid) ∨ frEpoch f ≠ 0xFFFF) → (∀ j, s.job = some j → frDst f = j.modIx) →
      (k = 1 → Completes (.dataFrame pt f true time) s fun t => (t.port pt).rxSeq = frSeq f ∧
        (s.reduction rid = none → t.edge.fnl.held = s.edge.fnl.held ++ [(pt.val, max s.now time, f)]) ∧
        ∀ r, s.reduction rid = some r →
          ((frEpoch f = 0xFFFF ∨ frEpoch f = r.epoch) → op < 4 → ∃ fs, t.reduction rid = some { r with frames := fs ++ [f] } ∧
            (op ≠ 2 → fs = r.frames) ∧ ∀ g, g ∈ fs ↔ g ∈ r.frames ∧
              ¬(op = 2 ∧ fldBits g 10 2 9 0 = fldBits f 10 2 9 0 ∧ fldBits g 16 4 31 28 = 2 ∧ fld g 20 4 = fld f 20 4)) ∧
          (frEpoch f ≠ 0xFFFF → frEpoch f ≠ r.epoch → t.edge.fnl.reds = s.edge.fnl.reds ∧
            t.flag (portDie pt) .FNL_ERR_EPOCH = true)) ∧
      (k ≠ 1 → Completes (.dataFrame pt f true time) s fun t => (t.port pt).rxSeq = x.rxSeq ∧
        t.edge.fnl.held = s.edge.fnl.held ∧ t.edge.fnl.reds = s.edge.fnl.reds)) ∧
    (∀ time, frType f = 1 → s.flag (portDie pt) (.LNK_INJ_CTL_EN (portIx pt)) = false → s.frozen = false → frVc f ≠ 1 →
      (rid = formRid ∨ rid = unitRid) → (∀ j, s.job = some j → frDst f = j.modIx) → k = 1 →
      Completes (.dataFrame pt f true time) s fun t => (t.port pt).rxSeq = frSeq f ∧
        t.edge.fnl.held = s.edge.fnl.held ∧ t.edge.fnl.reds = s.edge.fnl.reds ∧
        (rid = formRid → frEpoch f ≠ s.getF 0 .FNL_EPOCH_EPOCH → t.edge.fnl.parity = s.edge.fnl.parity ∧
          t.flag (portDie pt) .FNL_ERR_EPOCH = true)) ∧
    (∀ msg, frType f ≠ 1 → s.frozen = false → k = 1 → Completes (.barrierFrame pt f true msg) s fun t =>
      (t.port pt).rxSeq = frSeq f ∧
      match msg with
      | .arrival id at_ => ∃ b ∈ t.barriers, b.id = id.toNat ∧ at_ ≤ b.remote ∧
          b.kids.contains (s.getF (portDie pt) (.LNK_PORT_STATUS_PEER_MOD (portIx pt))) = true ∧
          ∀ j, s.job = some j → barScope id.toNat = 2 → j.modIx ≠ j.root → t.subtreeIn j b = true →
            t.outbox.contains (Sent.barrier 0 id.toNat (max b.last b.remote)) = true
      | .release id at_ => (∀ b ∈ t.barriers, b.id = id.toNat → b.release = some at_) ∧
          t.outbox.contains (Sent.barrier 1 id.toNat at_) = true
      | .abort at_ => s.edge.abortAt = none → (∃ j, s.job = some j ∧ j.running = true) → t.edge.abortAt = some at_) ∧
    (∀ msg, frType f ≠ 1 → s.frozen = false → k ≠ 1 → Completes (.barrierFrame pt f true msg) s fun t =>
      t.barriers = s.barriers ∧ t.outbox = s.outbox) ∧
    (∀ msg, frType f ≠ 1 → s.frozen = true → x.capture.length < 256 → s.now ≤ s.stop.target + 256 →
      Completes (.barrierFrame pt f true msg) s fun t => t.barriers = s.barriers ∧ (t.port pt).rxSeq = x.rxSeq ∧
        (t.port pt).capture.length = x.capture.length + 1) ∧
    ∀ (id : BitVec 26) (target : Nat), frType f ≠ 1 → (s.frozen = true ∨ k = 1) → s.stop.seen.contains id.toNat = false →
      Completes (.stopFrame pt f true id target) s fun t => t.stop.seen = s.stop.seen ++ [id.toNat] ∧
        t.outbox.contains (Sent.stop 0 id.toNat target (some pt.val)) = true

/-- The four times of a sync exchange, three that the frame brings and its arrival, give the neighbour's offset and the delay,
in their registers; a lane-repair frame moves the lane to the spare at both ends, reported as 0x0A. An Ethernet port counts a
good frame and takes one for its address, broadcast, or any when promiscuous; one that fills its ring, whose size is free (log
118), makes it send a PAUSE frame ahead of its other frames; one outside 64 to 9,216 bytes with its FCS is not taken; a PAUSE
frame keeps the port silent for its time; a bad FCS is counted; EN of fault injection takes effect only under debug
authorization, and loads the LFSR. Completes, each with the effect its clause gives: THYME_SYNC_FRAME, LANE_REPAIR_FRAME,
ETHERNET_FRAME, INJECTION_ENABLE. -/
def Obligations.SyncRepairEthernetAndInjection : Prop :=
  (∀ (pt : Port) (f : List Byte) (s : State), s.canonical = true → s.nativeUp pt = true → goodFrame f = true → frType f ≠ 1 →
    let d := portDie pt
    let k := portIx pt
    let b := frPayload f
    (Completes (.thymeSyncFrame pt f true none) s fun t => (t.port pt).syncRx = (fld b 0 8, 16 * s.now)) ∧
    (∀ x : SyncTimes, Completes (.thymeSyncFrame pt f true (some x)) s fun t =>
      let t1 : Int := fld b 8 8; let t2 : Int := fld b 16 8; let t3 : Int := fld b 0 8
      (t.port pt).syncRx = (fld b 0 8, x.t4) ∧
      t.reg d (Reg.LNK_TMB_OFFSET k) = BitVec.ofInt 32 (((t2 - t1) + (t3 - x.t4)) / 2) ∧
      t.reg d (Reg.LNK_TMB_DELAY k) = BitVec.ofInt 32 (((x.t4 - t1) - (t3 - t2)) / 2)) ∧
    ∀ (lane : Fin 8) (cw : Nat), frNak f = false → s.flag d (.LNK_PORT_STATUS_SPARE_USED k) = false →
      (s.getF d (.LNK_LANE_STATUS_FAILED k)).testBit 8 = false →
      ((s.port pt).repair = none ∨ (s.port pt).repair = some (lane.val, cw)) →
      Completes (.laneRepairFrame pt f true lane cw) s fun t =>
        t.flag d (.LNK_PORT_STATUS_SPARE_USED k) = true ∧ t.getF d (.LNK_PORT_STATUS_SPARE_FOR k) = lane.val ∧
        t.portState pt = 2 ∧ (t.port pt).repair = none ∧ t.ctr 18 (dieCtr (64 + 0x0A)) = s.ctr 18 (dieCtr (64 + 0x0A)) + 1) ∧
  (∀ (pt : Port) (f : List Byte) (v : Word) (s : State), s.canonical = true →
    let d := portDie pt
    let k := portIx pt
    (s.portUp pt = true → s.portGen pt = 2 →
      (Completes (.ethernetFrame pt f false) s fun t => t.ctr d (portCtr k 10) = s.ctr d (portCtr k 10) + 1 ∧ t.edge = s.edge) ∧
      (f.length + 4 < 64 ∨ 9216 < f.length + 4 → exec (.ethernetFrame pt f true) s = .next s) ∧
      (64 ≤ f.length + 4 → f.length + 4 ≤ 9216 → isPause f = false → Completes (.ethernetFrame pt f true) s fun t =>
        t.ctr d (portCtr k 9) = s.ctr d (portCtr k 9) + 1 ∧
        (t.port pt).rx = (if s.macTakes pt f then (s.port pt).rx ++ [f] else (s.port pt).rx) ∧
        (s.macTakes pt f = true → Config.ringTakes pt ≤ (s.port pt).rx.length + 1 →
          t.ctr d (portCtr k 11) = s.ctr d (portCtr k 11) + 1 ∧
          ∃ q, isPause q = true ∧ (t.port pt).queue = (0, s.now, q) :: (s.port pt).queue)) ∧
      (64 ≤ f.length + 4 → f.length + 4 ≤ 9216 → isPause f = true → Completes (.ethernetFrame pt f true) s fun t =>
        (t.port pt).pauseTill = s.now + pauseNs f ∧ (t.port pt).rx = (s.port pt).rx)) ∧
    (bit v 31 = true → s.authHeld = false → Completes (.injectionEnable pt v) s fun t =>
      t.flag d (.LNK_ERR_DENIED k) = true ∧ t.reg d (Reg.LNK_INJ_CTL k) = s.reg d (Reg.LNK_INJ_CTL k)) ∧
    ((bit v 31 = false ∨ s.authHeld = true) → Completes (.injectionEnable pt v) s fun t =>
      t.flag d (.LNK_INJ_CTL_EN k) = bit v 31 ∧ t.getF d (.LNK_INJ_CTL_RATE k) = bits v 15 0 ∧
      (bit v 31 = true → s.flag d (.LNK_INJ_CTL_EN k) = false → (t.port pt).lfsr =
        if s.reg d (Reg.LNK_INJ_SEED k) = 0 then 1 else s.reg d (Reg.LNK_INJ_SEED k))))

/-- Lanes and training: weak and failed lanes are recorded; a weak lane of a port that is UP starts a repair; two failed lanes,
or training that does not end, leave a port FAILED; one failed lane that carried data, an exhausted replay or RETRAIN trains it
if its failed lanes let it train; training that ends makes it UP with its peer and GEN; a FAILED port is retried. Completes,
each with the effect its clause gives: LANE_WEAK, LANE_FAIL, ACK_TIMEOUT, RETRAIN, PORT_UP, RETRAIN_TIMEOUT, PORT_RETRY,
PORT_ENABLE. -/
def Obligations.PortsTrainAndFail : Prop :=
  ∀ (pt : Port) (lane : Fin 9) (v : Word) (m : BitVec 10) (pp : BitVec 4) (s : State), s.canonical = true →
    let d := portDie pt
    let k := portIx pt
    let failed := s.getF d (.LNK_LANE_STATUS_FAILED k) ||| 2 ^ lane.val
    (Completes (.laneWeak pt lane) s fun t =>
      t.getF d (.LNK_LANE_STATUS_WEAK k) = s.getF d (.LNK_LANE_STATUS_WEAK k) ||| 2 ^ lane.val ∧
      (lane.val < 8 → s.nativeUp pt = true → s.flag d (.LNK_PORT_STATUS_SPARE_USED k) = false →
        (s.getF d (.LNK_LANE_STATUS_FAILED k)).testBit 8 = false →
        t.portState pt = 3 ∧ (t.port pt).repair = some (lane.val, Config.repairCodeword pt s.now))) ∧
    (Completes (.laneFail pt lane) s fun t => t.getF d (.LNK_LANE_STATUS_FAILED k) = failed ∧
      (s.nativeUp pt = true ∨ s.portState pt = 1 → 2 ≤ (setBitsOf 9 failed).length → t.portState pt = 4) ∧
      (s.nativeUp pt = true → (setBitsOf 9 failed).length < 2 →
        (s.laneCarries pt lane = false → t.portState pt = s.portState pt) ∧
        (s.laneCarries pt lane = true → t.portState pt = (if t.canTrain pt then 1 else 4) ∧
          t.flag d (.LNK_PORT_STATUS_SPARE_USED k) = decide (lane.val < 8) ∧
          (lane.val < 8 → t.getF d (.LNK_PORT_STATUS_SPARE_FOR k) = lane.val))) ∧
      (s.portUp pt = true → s.portGen pt = 2 → lane.val < 8 → t.portState pt = 0)) ∧
    (s.nativeUp pt = true → s.frozen = false → (s.port pt).retry ≠ [] → Completes (.ackTimeout pt) s fun t =>
      t.flag d (.LNK_ERR_ACK_TMO k) = true ∧
      ((s.port pt).replays < s.getF d (.LNK_RETRY_CFG_MAXREP k) →
        (t.port pt).resend = (s.port pt).retry.map (·.1) ∧ (t.port pt).replays = (s.port pt).replays + 1) ∧
      (s.getF d (.LNK_RETRY_CFG_MAXREP k) ≤ (s.port pt).replays → t.portState pt = if t.canTrain pt then 1 else 4)) ∧
    (s.flag d (.LNK_PORT_CTL_EN k) = true → Completes (.retrain pt) s fun t => t.portState pt = if t.canTrain pt then 1 else 4) ∧
    (s.portState pt = 1 →
      (s.canTrain pt = true → Completes (.portUp pt m pp) s fun t => t.portState pt = 2 ∧ t.getF d (.LNK_PORT_STATUS_PEER_MOD k) = m.toNat ∧
        t.getF d (.LNK_PORT_STATUS_PEER_PORT k) = pp.toNat ∧ t.portGen pt = s.getF d (.LNK_PORT_CTL_GEN k)) ∧
      (s.canTrain pt = false → exec (.portUp pt m pp) s = .next s) ∧
      (Completes (.retrainTimeout pt) s fun t => t.portState pt = 4 ∧ t.flag d (.LNK_ERR_RETRAIN_FAIL k) = true)) ∧
    (s.portState pt ≠ 1 → exec (.portUp pt m pp) s = .next s ∧ exec (.retrainTimeout pt) s = .next s) ∧
    (s.portState pt = 4 → Completes (.portRetry pt) s fun t => t.now = max s.now ((s.port pt).trainAt + 1000000000) ∧
      t.portState pt = if t.canTrain pt then 1 else 4) ∧
    (Completes (.portEnable pt v) s fun t => t.flag d (.LNK_PORT_CTL_EN k) = bit v 31 ∧
      t.getF d (.LNK_PORT_CTL_GEN k) = (if genLegal pt (bits v 30 29) then bits v 30 29 else s.getF d (.LNK_PORT_CTL_GEN k)) ∧
      (bit v 31 = false → s.flag d (.LNK_PORT_CTL_EN k) = true → t.portState pt = 0) ∧
      (bit v 31 = true → (s.flag d (.LNK_PORT_CTL_EN k) = false ∨ bit v 28 = true) → t.portState pt = if t.canTrain pt then 1 else 4))

/-- A channel's states: GO on an IDLE or DONE command channel captures the request and makes it FULL, and in any other state of
any channel sets OVR; an acknowledgement that echoes a FULL event channel's SEQ makes it DONE, any other sets OVR; a poisoned
TLP puts a channel in FAULT, reported by AER, where a command channel loses its request; CLR takes it to IDLE. Completes, each
with the effect its clause gives: GO, ACK, CLR, POISONED_TLP. -/
def Obligations.ChannelsChangeState : Prop :=
  ∀ (l : KDie) (c : Chan) (seq : BitVec 16) (v : Word) (s : State), s.canonical = true →
    let d := linkDie l
    let st := s.getF d (.MBX_STAT_STATE c)
    let ready := s.flag 18 .GLB_FUNC_READY_MBX
    (ready = false → exec (.go l c seq) s = .next s) ∧
    (24 ≤ c.val → ready = true →
      ((st = 0 ∨ st = 3) → exec (.go l c seq) s = .next s) ∧
      (st ≠ 0 → st ≠ 3 → Completes (.go l c seq) s fun t => t.flag d (.MBX_STAT_OVR c) = true ∧ t.chan l c = s.chan l c)) ∧
    (c.val < 24 → ready = true →
      ((st = 0 ∨ st = 3) → Completes (.go l c seq) s fun t => t.getF d (.MBX_STAT_STATE c) = 1 ∧
        t.getF d (.MBX_GO_SEQ c) = seq.toNat ∧ (t.chan l c).seq = seq.toNat ∧ (t.chan l c).taken = false ∧
        ∀ i, i < 16 → (t.chan l c).req[i]? = some (if i < 8 ∨ s.getF d (.MBX_CTL_GEN c) ≠ 1 then s.reg d (Reg.MBX_DATA c i) else 0)) ∧
      (st ≠ 0 → st ≠ 3 → Completes (.go l c seq) s fun t => t.flag d (.MBX_STAT_OVR c) = true ∧ t.chan l c = s.chan l c)) ∧
    (24 ≤ c.val → ready = true → bit v 31 = true →
      (st = 1 → bits v 15 0 = s.getF d (.MBX_GO_SEQ c) → Completes (.ack l c v) s fun t =>
        t.getF d (.MBX_STAT_STATE c) = 3 ∧ (t.chan l c).record = []) ∧
      ((st ≠ 1 ∨ bits v 15 0 ≠ s.getF d (.MBX_GO_SEQ c)) → Completes (.ack l c v) s fun t =>
        t.flag d (.MBX_STAT_OVR c) = true ∧ t.chan l c = s.chan l c)) ∧
    (ready = true → st = 4 → Completes (.clr l c) s fun t => t.getF d (.MBX_STAT_STATE c) = 0) ∧
    (st ≠ 4 → exec (.clr l c) s = .next s) ∧
    (Completes (.poisonedTlp l c) s fun t => t.getF d (.MBX_STAT_STATE c) = 4 ∧ t.flag 18 .GLB_ERR_POISON = true ∧
      (Store.get 0 t.edge.aer l).getLsbD 0 = true ∧
      (t.chan l c).req = (if c.val < 24 then [] else (s.chan l c).req) ∧ (t.chan l c).record = (s.chan l c).record)

/-- An event channel that is IDLE or DONE takes its oldest event, with the next sequence number, and is FULL; a pending record
is posted again as it was; lost events are reported as soon as there is space, unless the link's mask suppresses LOST. A long
command's completion is reported once, in channel 24 of its link, or of the other link when only that one is up. A heartbeat
counts and reaches channel 25 of every link that takes it. Completes, each with the effect its clause gives: EVENT_POST,
COMPLETION_EVENT, HEARTBEAT. -/
def Obligations.EventsArePosted : Prop :=
  (∀ (l : KDie) (c : Chan) (s : State), s.canonical = true → 24 ≤ c.val → s.linkTakes l 1 = true →
    (s.getF (linkDie l) (.MBX_STAT_STATE c) = 0 ∨ s.getF (linkDie l) (.MBX_STAT_STATE c) = 3) →
    let x := s.chan l c
    let shows (t : State) (r : List Word) (n : Nat) : Prop := t.getF (linkDie l) (.MBX_STAT_STATE c) = 1 ∧
      t.getF (linkDie l) (.MBX_GO_SEQ c) = n % 65536 ∧ ∀ i, i < 16 → t.reg (linkDie l) (Reg.MBX_DATA c i) = r.getD i 0
    (x.record ≠ [] → Completes (.eventPost l c) s fun t => shows t x.record x.evSeq ∧ (t.chan l c).queue = x.queue) ∧
    (∀ r rest, x.record = [] → x.queue = r :: rest → Completes (.eventPost l c) s fun t => shows t r (x.evSeq + 1) ∧
      (t.chan l c).record = r ∧ (t.chan l c).evSeq = x.evSeq + 1 ∧ (x.lost = 0 → (t.chan l c).queue = rest) ∧
      (x.lost ≠ 0 → rest.length < 128 → (t.chan l c).lost = 0 ∧
        ((Store.get 0 s.evMask l).testBit 8 = true → (t.chan l c).queue = rest) ∧
        ((Store.get 0 s.evMask l).testBit 8 = false → ∃ y, (t.chan l c).queue = rest ++ [y] ∧ bits (y.getD 0 0) 7 0 = 8 ∧
          y.getD 4 0 = BitVec.ofNat 32 x.lost))) ∧
    (x.record = [] → x.queue = [] → exec (.eventPost l c) s = .next s)) ∧
  (∀ (tag : BitVec 16) (x : LongCmd) (code : Nat) (ws : List Word) (s : State), s.canonical = true →
    s.longs.find? (fun x => x.tag = tag.toNat) = some x → x.result = some (code, ws) →
    let up (l : Nat) : Bool := s.flag 18 (if l = 0 then .GLB_FUNC_READY_HL0 else .GLB_FUNC_READY_HL1)
    let l := if up x.link = false ∧ up (1 - x.link) = true then 1 - x.link else x.link
    Completes (.completionEvent tag) s fun t => t.longs = s.longs.filter (fun y => y.tag ≠ tag.toNat) ∧
      ∃ r, (t.chan l 24).queue = (s.chan l 24).queue ++ [r] ∧ bits (r.getD 0 0) 7 0 = 1 ∧
        r.getD 4 0 = BitVec.ofNat 32 (x.tag + x.opcode * 65536) ∧
        r.getD 5 0 = BitVec.ofNat 32 (code + x.chan * 256 + x.link * 65536) ∧ r.getD 6 0 = BitVec.ofNat 32 x.seq) ∧
  ∀ s : State, s.canonical = true →
    (s.flag 18 .GLB_FUNC_READY_MBX = false → exec .heartbeat s = .next s) ∧
    (s.flag 18 .GLB_FUNC_READY_MBX = true → Completes .heartbeat s fun t => t.edge.ctl.beats = s.edge.ctl.beats + 1 ∧
      t.now = max s.now (s.edge.ctl.beatAt + 1000000) ∧
      ∀ l, l < 2 → s.linkTakes l 2 = true → ((s.chan l 25).queue.filter fun r => !isHeartbeat r).length < 128 →
        ∃ r, (t.chan l 25).queue = ((s.chan l 25).queue.filter fun r => !isHeartbeat r) ++ [r] ∧ isHeartbeat r = true)

/-- Each row of an MCI command takes the request of its opcode: one that a check refuses is answered with its code and changes
nothing else; one past the 64 outstanding long commands of its link is answered NO_RESOURCE; any other runs, and is answered in
the mailbox, or accepted with a tag and outstanding. DONE, the code and the echo show in MBX_ACK with the response. Completes,
each with the effect its clause gives: REQUEST_TAKE, GET_INFO, EVT_MASK, CANCEL, JOB_LOAD, JOB_START, JOB_END, JOB_STATUS,
RESHARD, DATA_APPEND, SAGE_PIN, SAGE_UNPIN, SAGE_SET_RULES, FREEZE_SET, CKPT_SAVE, DMA, REPLAY_STEP, JRN_READ, GSTOP, GRESUME,
SCANOUT, AUTH_CHALLENGE, AUTH_RESPONSE, AUTH_END, POWER_CAP, FW_STAGE, FW_ACTIVATE. -/
def Obligations.MciRowsAnswerRequests : Prop :=
  (∀ (i : Instr) (v : MciService) (s : State), mciService i = some v →
    let req := (s.chan v.l v.c).req
    s.unanswered v.l v.c v.op = true → bits (req.getD 0 0) 15 0 = v.op →
      (∀ s1, s.takeRequest v.l v.c = (s1, false) → exec i s = .next s1) ∧
      ∀ s1, s.takeRequest v.l v.c = (s1, true) →
        let full := (match cmdRow v.op with | some r => r.long | none => false) &&
          decide (64 ≤ s1.outstanding v.l)
        let args := (s1.chan v.l v.c).req
        (full = true → exec i s = .next (s1.answer v.l v.c rcNoResource [])) ∧
        (full = false →
          (∀ s2 code ws, v.run s1 args s1.nextTag = (s2, .done code ws) → exec i s = .next (s2.answer v.l v.c code ws)) ∧
          ∀ s2 code r, v.run s1 args s1.nextTag = (s2, .accept code r) →
            exec i s = .next (s2.acceptLong v.l v.c args code r))) ∧
  ∀ (l : KDie) (c : Chan) (code : Nat) (ws : List Word) (s : State), s.canonical = true →
    let d := linkDie l
    let x := s.chan l c
    ((s.answer l c code ws).getF d (.MBX_STAT_STATE c) = 3 ∧ (s.answer l c code ws).reg d (Reg.MBX_ACK c) = ackWord code x.seq ∧
      (s.answer l c code ws).job = s.job ∧ (s.answer l c code ws).mem = s.mem ∧
      ∀ i, i < 8 → (s.answer l c code ws).reg d (if s.getF d (.MBX_CTL_GEN c) = 1 then Reg.MBX_DATA c i else Reg.MBX_RESP c i) =
        ws.getD i 0) ∧
    (∀ req r, ∃ y, (s.acceptLong l c req code r).longs = s.longs ++ [y] ∧ y.tag = s.nextTag ∧ y.args = req ∧ y.link = l.val ∧
      y.chan = c.val ∧ y.result = r ∧ (s.acceptLong l c req code r).reg d (Reg.MBX_ACK c) = ackWord code x.seq) ∧
    (c.val < 24 → s.flag 18 .GLB_FUNC_READY_MBX = true → s.getF d (.MBX_STAT_STATE c) = 1 →
      (∀ e, s.checkRequest l c x.req = some e → Completes (.requestTake l c) s fun t =>
        t.getF d (.MBX_STAT_STATE c) = 3 ∧ t.reg d (Reg.MBX_ACK c) = ackWord e x.seq ∧ t.longs = s.longs ∧ t.job = s.job) ∧
      (s.checkRequest l c x.req = none → Completes (.requestTake l c) s fun t =>
        t.getF d (.MBX_STAT_STATE c) = 2 ∧ (t.chan l c).taken = true ∧ (t.chan l c).req = x.req))

/-- What the general and job commands do once taken: GET_INFO changes nothing; EVT_MASK sets its link's mask, but for COMPLETION
and READY; CANCEL is DENIED for an N command and cancels another that is outstanding; JOB_LOAD under STRM_OVR needs debug
authorization, waits for group lock, reports what a check finds, and otherwise loads its job with its parity groups and the
protection of LND-2400 shards; JOB_START, JOB_END, DATA_APPEND, RESHARD and POWER_CAP as Table 12.7 says. -/
def Obligations.GeneralAndJobCommandsAct : Prop :=
  ∀ (l : KDie) (req : List Word) (tag : Nat) (j : Job) (s : State), s.canonical = true →
    (s.runGetInfo req tag).1 = s ∧
    (Store.get 0 (State.runEvtMask l s req tag).1.evMask l = argW req 1 &&& 0x1F4) ∧
    (∀ c r, s.longs.find? (fun c => c.tag = bits (req.getD 1 0) 15 0) = some c → cmdRow c.opcode = some r →
      (r.n = true → s.runCancel req tag = (s, .done rcDenied [])) ∧
      (r.n = false → c.result ≠ none → s.runCancel req tag = (s, .done rcOk [0])) ∧
      (r.n = false → c.result = none → s.entered c = false → (s.runCancel req tag).2 = .done rcOk [1] ∧
        ∀ y ∈ (s.runCancel req tag).1.longs, y.tag = c.tag → y.result ≠ none)) ∧
    (let w := bits (req.getD 1 0) 12 0;
      ((w < 1500 ∨ 6000 < w) → s.runPowerCap req tag = (s, .done rcBadArg [])) ∧
      (1500 ≤ w → w ≤ 6000 → (s.runPowerCap req tag).1.getF 18 .PWR_CAP_WATTS = w)) ∧
    (∀ plan : LoadPlan, (req.getD 12 0).getLsbD 16 = true → s.flag 18 .DBG_AUTH_STATUS_HELD = false →
      State.runJobLoad plan s req tag = (s, .done rcDenied [])) ∧
    (∀ plan : LoadPlan, ((req.getD 12 0).getLsbD 16 = false ∨ s.flag 18 .DBG_AUTH_STATUS_HELD = true) →
      (plan.groupLock = false → State.runJobLoad plan s req tag = (s, .accept rcPending none)) ∧
      (plan.groupLock = true →
        (∀ s1 e, s.checkLoad req plan = (s1, .error e) → State.runJobLoad plan s req tag = (s1, .accept rcPending (some e))) ∧
        ∀ s1 x, s.checkLoad req plan = (s1, .ok x) → x.ref = [] →
          let r := State.runJobLoad plan s req tag
          r.2 = .accept rcPending (some (rcOk, [BitVec.ofNat 32 x.job.variants])) ∧
            r.1.job = some { x.job with
                protect := { s1 with gov := Governor.fresh }.shardRules x.job plan.shards,
                snapSteps := s1.getF 18 .GLB_COMPAT_CFG_SNAP_STEPS } ∧
            r.1.edge.ctl.acquired = true)) ∧
    (s.job = some j →
      (j.running = true → s.runJobStart req tag = (s, .done rcBusy [])) ∧
      (j.running = false → ∀ x, j.lastDone = some x → argW req 1 ≠ x + 1 → s.runJobStart req tag = (s, .done rcBadArg [])) ∧
      (j.running = false → (j.lastDone = none ∨ j.lastDone = some (argW req 1 - 1) ∧ argW req 1 ≠ 0) →
        let r := s.runJobStart req tag
        r.2 = .done rcOk [] ∧ r.1.edge.boundary = some 0 ∧
          ∃ j', r.1.job = some j' ∧ j'.running = true ∧ j'.step = argW req 1) ∧
      (s.runJobStatus req tag).1 = s ∧
      ((j.running = false ∨ bit (req.getD 1 0) 0 = false) → (s.runJobEnd req tag).1.job = none ∧
        (s.runJobEnd req tag).2 = .accept rcPending (some (rcOk, [j.lastWord]))) ∧
      (j.running = true → bit (req.getD 1 0) 0 = true → s.edge.boundary ≠ some 0 →
        s.runJobEnd req tag = ({ s with job := some { j with endReq := .finish } }, .accept rcPending none)) ∧
      (1048576 < j.descs.length + argW req 3 →
        s.runDataAppend req tag = (s, .done rcNoResource [0, BitVec.ofNat 32 (1048576 - j.descs.length)])) ∧
      (∀ s1 a, s.reshardArgs j req = (s1, .ok a) →
        (s1.fenceClear = false → (s.runReshard req tag).2 = .accept rcFenceWait none ∧
          ∀ d, d < 18 → (s.runReshard req tag).1.flag d .FNL_STATUS_FENCE = true) ∧
        (s1.fenceClear = true → (s.runReshard req tag).2 = .accept rcPending none)))

/-- Checkpoints, DMA, replays, the journal and firmware: a step that is past is BAD_ARG, a later one waits; DMA reports the
first malformed descriptor, and copies host bytes to the device; a replay needs a stopped job; a missing record is NO_RECORD; a
good image is staged, any other is IMAGE_BAD; an activation needs a staged image and the twin. -/
def Obligations.StorageAndFirmwareCommandsAct : Prop :=
  ∀ (req : List Word) (tag : Nat) (s : State), s.canonical = true →
    (∀ j x, s.job = some j → j.lastDone = some x → argW req 4 < x → argW req 4 ≠ 0xFFFFFFFF → s.runCkptSave req tag = (s, .done rcBadArg [])) ∧
    (∀ j, s.job = some j → j.lastDone = none → bit (req.getD 1 0) 0 = true → s.hostRange false (argDpa req 2) 64 = true →
      storeLegal (s.bytes (argDpa req 2) 64) = true → (s.runCkptSave req tag).2 = .accept rcPending none ∧
      (s.runCkptSave req tag).1.edge.ckpt =
        some { tag := tag, eth := true, dpa := argDpa req 2, step := argW req 4, written := false }) ∧
    (∀ descs host, (argW req 3 = 0 ∨ 4096 < argW req 3) → State.runDma descs host s req tag = (s, .done rcBadArg [])) ∧
    (∀ descs host i, 1 ≤ argW req 3 → argW req 3 ≤ 4096 →
      (chunks 32 (argW req 3) descs).findIdx? (fun b => !s.dmaDescOk b) = some i →
      State.runDma descs host s req tag = (s, .accept rcPending (some (rcDescBad, [0, BitVec.ofNat 32 i])))) ∧
    (∀ b bytes, argW req 3 = 1 → b.length = 32 → s.dmaDescOk b = true → fldBits b 20 1 0 0 = 1 →
      let a := fldBits b 8 8 51 0
      let n := fld b 16 4
      bytes.length = n → dpaSpace a ≠ 3 → s.clean a n = true → s.touchesParity a n = false →
      let r := State.runDma b [bytes] s req tag
      r.2 = .accept rcPending (some (rcOk, [1])) ∧ r.1.bytes a n = bytes ∧
        ∀ y, y < a ∨ a + n ≤ y → r.1.byte y = s.byte y) ∧
    (∀ j, s.job = some j → j.running = true → s.runReplayStep req tag = (s, .done rcBusy [])) ∧
    (let s1 := s.readRecord (argW req 1); s1.anyRecord (argW req 1) = none → s.runJrnRead req tag = (s1, .done rcNoRecord [])) ∧
    (∀ b, let s1 := s.readRecord (argW req 1)
      s1.anyRecord (argW req 1) = some b → s1.hostRange true (argDpa req 2) 0x10000 = true →
      s1.clean (argDpa req 2) 0x10000 = true → s1.touchesParity (argDpa req 2) 0x10000 = false → b.length = 0x10000 →
      (s.runJrnRead req tag).2 = .done rcOk [0x10000#32] ∧ (s.runJrnRead req tag).1.bytes (argDpa req 2) 0x10000 = b) ∧
    (s.pldmBusy = true → s.runFwStage req tag = (s, .done rcBusy [])) ∧
    (∀ s1 img, s.pldmBusy = false → s.readArg (argDpa req 1) (argW req 3) = (s1, .ok img) →
      (s1.imageGood img = true → (s.runFwStage req tag).1.edge.fw.staged = some img) ∧
      (s1.imageGood img = false → s.runFwStage req tag = (s1, .accept rcPending (some (rcImageBad, []))))) ∧
    (s.pldmBusy = false → s.edge.fw.staged = none → ∀ f, s.runFwActivate f req tag = (s, .done rcBadArg [])) ∧
    (s.pldmBusy = false → s.edge.fw.staged ≠ none → s.flag 18 .GLB_FUNC_READY_TWIN = true →
      (s.runFwActivate false req tag).1.edge.fw.stage = 1 ∧ (s.runFwActivate false req tag).1.flag 18 .GLB_FUNC_READY_TWIN = false ∧
      s.runFwActivate true req tag = (s, .accept rcPending (some (rcFault, []))))

/-- A stop is issued by DBG_STOP_CTL, by the pin while PIN_EN is 1 and by GSTOP: T is 12 ns on, or GLEAD on in group scope, in
every die's registers with the source, the scope and the stop ID. A write of both STOP and RESUME is discarded. At T the module
freezes, and at R it resumes; a write of RESUME in STOPPING is merged. No byte and no accumulator changes. Completes, each with
the effect its clause gives: STOP, RESUME, DBG_STOP_N, STOP_FREEZE, RESUME_TIME. -/
def Obligations.StopsFreezeAndResume : Prop :=
  ∀ (k : KDie) (v : Word) (req : List Word) (tag : Nat) (s : State), s.canonical = true →
    let st := s.getF 18 .DBG_STOP_STATUS_STATE
    let issued (src : Nat) (group : Bool) (t : State) : Prop :=
      let at_ := s.now + if group then s.getF 18 .DBG_STOP_CFG_GLEAD * 1000 else 12
      t.stop.target = at_ ∧ t.stop.issues = s.stop.issues + 1 ∧ SameStores s t ∧
      (∀ d, d < 20 → t.getF d .DBG_STOP_STATUS_STATE = 1 ∧ t.getF d .DBG_STOP_STATUS_SRC = src ∧
        t.getF d .DBG_STOP_STATUS_SCOPE = group.toNat ∧ t.reg d Reg.DBG_STOP_T_LO = BitVec.ofNat 32 at_ ∧
        t.getF d .DBG_STOP_ID_ID = s.modIx % 1024 * 65536 + s.stop.issues % 65536) ∧
      (group = true → t.outbox = s.outbox ++ [Sent.stop 0 (s.modIx % 1024 * 65536 + s.stop.issues % 65536) at_ none])
    (bit v 31 = true → bit v 30 = true → exec (.stop k v) s = .next s ∧ exec (.resume k v) s = .next s) ∧
    (bit v 31 = true → bit v 30 = false → st = 0 → Completes (.stop k v) s (issued 0 (bit v 0))) ∧
    (s.flag 18 .DBG_STOP_CTL_PIN_EN = true → st = 0 →
      Completes .dbgStopN s (issued 2 (s.flag 18 .DBG_STOP_CTL_SCOPE))) ∧
    (s.flag 18 .DBG_STOP_CTL_PIN_EN = false → exec .dbgStopN s = .next s) ∧
    (st = 0 → issued 1 (bit (req.getD 1 0) 0) (s.runGstop req tag).1 ∧
      (s.runGstop req tag).2 = .done rcOk [BitVec.ofNat 32 (s.runGstop req tag).1.stop.target,
        BitVec.ofNat 32 ((s.runGstop req tag).1.stop.target / 2 ^ 32)]) ∧
    (2 ≤ st → s.runGstop req tag = (s, .done rcBusy [])) ∧
    (st = 1 → Completes .stopFreeze s fun t => t.now = max s.now s.stop.target ∧ SameStores s t ∧
      (∀ d, d < 20 → t.getF d .DBG_STOP_STATUS_STATE = 2) ∧ t.ctr 18 (dieCtr 9) = s.ctr 18 (dieCtr 9) + 1) ∧
    (st ≠ 1 → exec .stopFreeze s = .next s) ∧
    (bit v 30 = true → bit v 31 = false → st = 2 → Completes (.resume k v) s fun t =>
      (∀ d, d < 20 → t.getF d .DBG_STOP_STATUS_STATE = 3) ∧ SameStores s t ∧
      t.stop.resumeAt = some (s.now + if s.flag 18 .DBG_STOP_STATUS_SCOPE then s.getF 18 .DBG_STOP_CFG_GLEAD * 1000 else 12)) ∧
    (bit v 30 = true → bit v 31 = false → st = 1 → Completes (.resume k v) s fun t =>
      t.getF 18 .DBG_STOP_STATUS_STATE = 1 ∧ t.stop = s.stop ∧ t.ctr 18 (dieCtr 10) = s.ctr 18 (dieCtr 10) + 1) ∧
    (st = 1 → s.runGresume req tag = (s, .done rcBusy [])) ∧ (st = 0 → s.runGresume req tag = (s, .done rcOk [])) ∧
    (st = 2 → s.flag 18 .DBG_SCAN_STATUS_BUSY = false → (s.runGresume req tag).2 = .done rcOk [] ∧
      (s.runGresume req tag).1.getF 18 .DBG_STOP_STATUS_STATE = 3) ∧
    (∀ r, s.stop.resumeAt = some r → 2 ≤ st → (∀ pt, (s.port pt).capture = []) → Completes .resumeTime s fun t =>
      t.now = max s.now r ∧ (∀ d, d < 20 → t.getF d .DBG_STOP_STATUS_STATE = 0) ∧ t.stop.resumeAt = none ∧ SameStores s t ∧
      t.stop.held = none) ∧
    (s.stop.resumeAt = none → exec .resumeTime s = .next s)

/-- Debug authorization: a challenge of 32 bytes is open for 60 s; a response that is valid holds HELD for its seconds; one that
is not counts a failure, and the eighth starts a lockout of 600 s, in which every challenge is denied. Authorization ends with
AUTH_END or its expiry, and injection stops with it. Scan-out needs it, and a stopped module. The timers of debug authorization:
at its expiry it ends, at 60 s a challenge closes, at 600 s the lockout and the count of failures end. Scan-out is DENIED
without authorization and BUSY unless the module is STOPPED; it captures the named dies that do not fail, and is PARTIAL when
one does. Completes, each with the effect its clause gives: AUTH_EXPIRY, CHALLENGE_EXPIRY, LOCKOUT_EXPIRY. -/
def Obligations.DebugAuthorizationIsGrantedAndEnds : Prop :=
  (∀ (req : List Word) (tag : Nat) (s : State), s.canonical = true →
    (s.flag 18 .DBG_AUTH_STATUS_LOCKOUT = true → s.runAuthChallenge req tag = (s, .done rcDenied [])) ∧
    (s.flag 18 .DBG_AUTH_STATUS_LOCKOUT = false → ∃ c, c.length = 32 ∧
      (s.runAuthChallenge req tag).1.edge.auth.challenge = some (c, s.now + 60000000000) ∧
      (s.runAuthChallenge req tag).1.flag 18 .DBG_AUTH_STATUS_OPEN = true ∧
      (s.runAuthChallenge req tag).2 = .done rcOk (wordsOf 8 c)) ∧
    (argW req 3 ≠ 144 → s.runAuthResponse req tag = (s, .done rcBadArg [])) ∧
    (∀ s1 b, argW req 3 = 144 → s.readArg (argDpa req 1) 144 = (s1, .ok b) → s1.authValid b = true → s1.canonical = true →
      let r := s.runAuthResponse req tag
      r.2 = .done rcOk [BitVec.ofNat 32 (fld b 40 4)] ∧ r.1.authHeld = true ∧ r.1.getF 18 .DBG_AUTH_STATUS_FAILS = 0 ∧
      r.1.edge.auth.challenge = none ∧ r.1.edge.auth.until_ = s1.now + fld b 40 4 * 1000000000) ∧
    (∀ s1 b, argW req 3 = 144 → s.readArg (argDpa req 1) 144 = (s1, .ok b) → s1.authValid b = false → s1.canonical = true →
      let r := s.runAuthResponse req tag
      let n := s1.getF 18 .DBG_AUTH_STATUS_FAILS
      r.2 = .done rcDenied [] ∧ r.1.edge.auth.challenge = none ∧ r.1.authHeld = s1.authHeld ∧
      r.1.flag 18 .DBG_AUTH_STATUS_OPEN = false ∧ (n < 8 → r.1.getF 18 .DBG_AUTH_STATUS_FAILS = n + 1) ∧
      r.1.ctr 18 (dieCtr 12) = s1.ctr 18 (dieCtr 12) + 1 ∧
      (n = 7 → r.1.flag 18 .DBG_AUTH_STATUS_LOCKOUT = true ∧ r.1.edge.auth.lock = s1.now + 600000000000)) ∧
    (s.runAuthEnd req tag).2 = .done rcOk [] ∧ (s.authHeld = false → (s.runAuthEnd req tag).1 = s) ∧
    (s.authHeld = true → (s.runAuthEnd req tag).1.authHeld = false ∧ SameStores s (s.runAuthEnd req tag).1 ∧
      ∀ pt : Port, (s.runAuthEnd req tag).1.flag (portDie pt) (.LNK_INJ_CTL_EN (portIx pt)) = false)) ∧
  (∀ (req : List Word) (tag : Nat) (failed : BitVec 20) (s : State), s.canonical = true →
    let named := setBitsOf 20 (bits (req.getD 1 0) 19 0)
    let good := named.filter fun d => !failed.getLsbD d && !s.dieGone d
    (s.authHeld = true → Completes .authExpiry s fun t => t.now = max s.now s.edge.auth.until_ ∧ t.authHeld = false ∧
      SameStores s t ∧ ∀ pt : Port, t.flag (portDie pt) (.LNK_INJ_CTL_EN (portIx pt)) = false) ∧
    (s.authHeld = false → exec .authExpiry s = .next s) ∧
    (∀ c n, s.edge.auth.challenge = some (c, n) → Completes .challengeExpiry s fun t => t.now = max s.now n ∧
      t.edge.auth.challenge = none ∧ t.flag 18 .DBG_AUTH_STATUS_OPEN = false) ∧
    (s.edge.auth.challenge = none → exec .challengeExpiry s = .next s) ∧
    (s.flag 18 .DBG_AUTH_STATUS_LOCKOUT = true → Completes .lockoutExpiry s fun t => t.now = max s.now s.edge.auth.lock ∧
      t.flag 18 .DBG_AUTH_STATUS_LOCKOUT = false ∧ t.getF 18 .DBG_AUTH_STATUS_FAILS = 0) ∧
    (s.flag 18 .DBG_AUTH_STATUS_LOCKOUT = false → exec .lockoutExpiry s = .next s) ∧
    (s.authHeld = false → State.runScanout failed s req tag = (s, .done rcDenied [])) ∧
    (s.authHeld = true → s.getF 18 .DBG_STOP_STATUS_STATE ≠ 2 → State.runScanout failed s req tag = (s, .done rcBusy [])) ∧
    (s.authHeld = true → s.getF 18 .DBG_STOP_STATUS_STATE = 2 →
      let m := (good.map (2 ^ ·)).foldl (· + ·) 0
      let r := State.runScanout failed s req tag
      r.2 = .accept rcPending (some (if good.length = named.length then rcOk else rcPartial, [BitVec.ofNat 32 m])) ∧
      r.1.getF 18 .DBG_SCAN_STATUS_DONE = m ∧ r.1.getF 18 .DBG_STOP_STATUS_STATE = 2))

/-- Clearing, filters and breakpoints are written on a control die: with no job running a clear zeroes every counter but the
energy counters, and every queue's high-water mark falls to its depth, and a filter is in force, on every die at once; with a
job running a clear waits for the next tick and a filter for 10 us. A breakpoint is taken by every compute die at its next tick.
Completes, each with the effect its clause gives: CLEAR, FILTER_WRITE, BREAKPOINT_ARM. -/
def Obligations.CountersAndFiltersActAtTicks : Prop :=
  ∀ (k : KDie) (off : RegOff) (v : Word) (s : State), s.canonical = true →
    let flt := off.toNat = Reg.CNT_FLT_LAYER ∨ off.toNat = Reg.CNT_FLT_OPER ∨ off.toNat = Reg.CNT_FLT_MBID
    (s.jobRuns = true → Completes .clear s fun t => t = { s with edge := { s.edge with clearReq := true } }) ∧
    (s.jobRuns = false → Completes .clear s fun t => t.mem = s.mem ∧
      (∀ d o, d < 20 → o < 2 ^ 28 → o % 8 = 0 → t.ctr d o =
        if o = Reg.PWR_ENERGY_LO ∨ o = Reg.PWR_STACK_ENERGY_LO then s.ctr d o else 0) ∧
      ∀ d p q, d < 16 → p < 272 → q < 64 → (s.que d p q).entries.length ≤ 64 →
        t.getF d (.QUE_HWM_HWM p q) = (s.que d p q).entries.length) ∧
    (flt → s.jobRuns = true → Completes (.filterWrite k off v) s fun t =>
      t.edge.fltAt = some (s.now + 10000) ∧ ∀ d o, d < 18 → t.reg d o = s.reg d o) ∧
    (flt → s.jobRuns = false → Completes (.filterWrite k off v) s fun t => t.edge.fltAt = none ∧ SameStores s t ∧
      ∀ d, d < 18 → t.reg d off.toNat = t.reg 18 off.toNat) ∧
    (¬ flt → exec (.filterWrite k off v) s = .next s) ∧
    Completes (.breakpointArm k v) s fun t => t.edge.bpCopy = true ∧ t.flag 18 .DBG_BP_CTL_ARM = bit v 31 ∧
      t.getF 18 .DBG_BP_CTL_MBID = bits v 15 0 ∧ (∀ d o, d < 18 → t.reg d o = s.reg d o) ∧ SameStores s t

/-- Clocks: a switch of the reference holds every PLL over, and ends on REFCLK1. A copy more than 8 ns off loses its lock and
clears THYME; 64 consecutive samples within 2 ns lock it, and THYME sets once every present die is locked. A droop stretches the
clock, or holds the feeders at once; a detector still tripped when the episode ends holds them until it clears. A sample of
energy adds the microjoules of a die's rails, of its stack and of the module's input to their counters; the hottest sensor shows
in TEMP, and a hot stack in its MEM_STATUS. Completes, each with the effect its clause gives: REFCLK_SWITCH, THYME_SYNC_WORD,
DROOP_TRIP, STRETCH_EPISODE_END, DROOP_CLEAR, ENERGY_SAMPLE, TEMPERATURE_WARN_CROSSING, STACK_HOT. -/
def Obligations.ClocksAndSensorsShowTheirEvents : Prop :=
  (∀ (d : CDie) (c : Die) (drift : Int) (s : State), s.canonical = true →
    let n := Store.get 0 s.edge.dieSamples c + 1
    let follows := s.flag c .TMB_STATUS_MASTER = false ∧ s.dieGone c = false ∧ s.edge.release = none
    let locked := s.flag c .TMB_STATUS_LOCKED = true
    (Completes (.refclkSwitch false) s fun t => (∀ x, x < 20 → t.flag x .TMB_STATUS_HOLDOVER = true ∧
      t.getF x .TMB_STATUS_REFSEL = s.getF x .TMB_STATUS_REFSEL) ∧ t.now = s.now ∧ SameStores s t) ∧
    (Completes (.refclkSwitch true) s fun t => (∀ x, x < 20 → t.flag x .TMB_STATUS_HOLDOVER = false ∧
      t.getF x .TMB_STATUS_REFSEL = 1) ∧ t.now = s.now ∧ SameStores s t) ∧
    (follows → locked → 8 < drift.natAbs → Completes (.thymeSyncWord c drift) s fun t =>
      t.flag c .TMB_STATUS_LOCKED = false ∧ t.flag 18 .GLB_FUNC_READY_THYME = false ∧
      t.flag c .TMB_NOW_HI_UNLOCKED = true ∧ Store.get 0 t.edge.dieSamples c = 0) ∧
    (follows → ¬ locked → drift.natAbs ≤ 2 → n < 64 → Completes (.thymeSyncWord c drift) s fun t =>
      t.flag c .TMB_STATUS_LOCKED = false ∧ Store.get 0 t.edge.dieSamples c = n) ∧
    (follows → ¬ locked → drift.natAbs ≤ 2 → 64 ≤ n → Completes (.thymeSyncWord c drift) s fun t =>
      t.flag c .TMB_STATUS_LOCKED = true ∧ t.flag c .TMB_NOW_HI_UNLOCKED = false ∧
      (c.val = s.activeK → t.flag c .TMB_STATUS_MASTER = true) ∧
      ((∀ x, x < 20 → x ≠ c.val → s.dieGone x = false → s.flag x .TMB_STATUS_LOCKED = true) →
        t.flag 18 .GLB_FUNC_READY_THYME = true)) ∧
    (follows → 2 < drift.natAbs → drift.natAbs ≤ 8 → Completes (.thymeSyncWord c drift) s fun t =>
      t.flag c .TMB_STATUS_LOCKED = s.flag c .TMB_STATUS_LOCKED ∧ Store.get 0 t.edge.dieSamples c = 0) ∧
    (s.flag c .TMB_STATUS_MASTER = true → exec (.thymeSyncWord c drift) s = .next s) ∧
    (∀ deep, s.flag d .CLK_STRETCH_CFG_EN = true → s.flag d .CLK_STATUS_STRETCH = false →
      Completes (.droopTrip d deep) s fun t => t.flag d .CLK_STATUS_STRETCH = true ∧
        t.flag d .CLK_STATUS_FSTALL = s.flag d .CLK_STATUS_FSTALL ∧ t.ctr d (dieCtr 5) = s.ctr d (dieCtr 5) + 1 ∧ SameStores s t) ∧
    (∀ deep, s.flag d .CLK_STRETCH_CFG_EN = false →
      Completes (.droopTrip d deep) s fun t => t.flag d .CLK_STATUS_FSTALL = true ∧ t.ctr d (dieCtr 5) = s.ctr d (dieCtr 5)) ∧
    (∀ still, s.flag d .CLK_STATUS_STRETCH = true → Completes (.stretchEpisodeEnd d still) s fun t =>
      t.flag d .CLK_STATUS_STRETCH = false ∧ t.flag d .CLK_STATUS_FSTALL = (still || s.flag d .CLK_STATUS_FSTALL) ∧ SameStores s t) ∧
    (∀ still, s.flag d .CLK_STATUS_STRETCH = false → exec (.stretchEpisodeEnd d still) s = .next s) ∧
    Completes (.droopClear d) s fun t => t.flag d .CLK_STATUS_FSTALL = false ∧
      t.flag d .CLK_STATUS_STRETCH = s.flag d .CLK_STATUS_STRETCH ∧ SameStores s t) ∧
  (∀ (d : Die) (c : CDie) (rail stack input : Nat) (act : List (Nat × Nat × Nat)) (temp : Byte) (hot : Bool) (s : State),
    s.canonical = true →
    (Completes (.energySample d rail stack input act) s fun t => SameStores s t ∧ t.regs = s.regs ∧ t.now = s.now ∧
      t.ctr d Reg.PWR_ENERGY_LO = s.ctr d Reg.PWR_ENERGY_LO + BitVec.ofNat 64 rail ∧
      (d.val < 16 → t.ctr d Reg.PWR_STACK_ENERGY_LO = s.ctr d Reg.PWR_STACK_ENERGY_LO + BitVec.ofNat 64 stack) ∧
      (d.val = s.activeK → t.ctr d Reg.PWR_STACK_ENERGY_LO = s.ctr d Reg.PWR_STACK_ENERGY_LO + BitVec.ofNat 64 input) ∧
      (d.val = 16 ∨ d.val = 17 ∨ 18 ≤ d.val ∧ d.val ≠ s.activeK → t = s.setCtr d Reg.PWR_ENERGY_LO (t.ctr d Reg.PWR_ENERGY_LO))) ∧
    (Completes (.temperatureWarnCrossing d temp) s fun t => t.getF d .PWR_THERM_TEMP = temp.toNat ∧
      t.thermN = (s.edge.pins.therm || (!s.landsHeld && (decide (s.getF d .PWR_THERM_WARN ≤ temp.toNat) ||
        (allDies.filter (· ≠ d.val)).any s.isWarm))) ∧ t = s.setReg d Reg.PWR_THERM (t.reg d Reg.PWR_THERM)) ∧
    Completes (.stackHot c hot) s fun t => t.flag c .MEM_STATUS_HOT = hot ∧
      t = s.setReg c Reg.MEM_STATUS (t.reg c Reg.MEM_STATUS))

/-- The power cap loop: over the limit it lowers the frequency by the excess over GAIN, rounded up, to FMIN at least, and then
the duty, to 1 at least; with more than HEADROOM to spare it raises the duty to 16, and then the frequency, by UPMAX at most, to
FMAX at most. PWR_STATUS shows the decision; a change is announced for the first whole microsecond 2 us on, or 25 us for an
increase; from then every die moves a 10 MHz step at a time. Completes, each with the effect its clause gives:
POWER_CAP_ITERATION, FREQ_SLEW_STEP. -/
def Obligations.PowerCapLoopAndSlew : Prop :=
  (∀ (x : Loop) (lim p : Int) (fmin fmax gain headroom upmax : Nat), 0 < gain → fmin ≤ x.f → x.f ≤ fmax → 1 ≤ x.duty →
    x.duty ≤ 16 →
    let y := x.next lim p fmin fmax gain headroom upmax
    fmin ≤ y.f ∧ y.f ≤ fmax ∧ 1 ≤ y.duty ∧ y.duty ≤ 16 ∧
    (lim < p → y.f ≤ x.f ∧ y.duty ≤ x.duty ∧ (fmin < x.f → y.duty = x.duty ∧ y.f < x.f ∧
        (fmin < y.f → p - lim ≤ gain * ((x.f : Int) - y.f) ∧ gain * ((x.f : Int) - y.f) < p - lim + gain)) ∧
      (x.f = fmin → 1 < x.duty → y.duty = x.duty - 1)) ∧
    (p < lim - headroom → (x.duty < 16 → y = { x with duty := x.duty + 1 }) ∧
      (x.duty = 16 → y.duty = 16 ∧ x.f ≤ y.f ∧ y.f ≤ x.f + upmax)) ∧
    (p ≤ lim → lim - headroom ≤ p → y = x)) ∧
  ∀ s : State, s.canonical = true →
    let p := s.inputPower
    let cap := s.getF 18 .PWR_CAP_WATTS
    let gain := s.getF 18 .PWR_LOOP_CFG_GAIN
    let f := s.getF 18 .PWR_STATUS_FREQ
    let fmin := s.getF 18 .PWR_FREQ_FMIN
    let fmax := s.getF 18 .PWR_FREQ_FMAX
    let y := Loop.next { f := f, duty := s.dutyNow } (if s.anyWarm then min (cap : Int) ((p : Int) - gain) else cap) p fmin fmax gain
      (s.getF 18 .PWR_LOOP_CFG_HEADROOM) (s.getF 18 .PWR_LOOP_CFG_UPMAX)
    (fmin ≤ f → f ≤ fmax → 1 ≤ s.dutyNow → s.dutyNow ≤ 16 → 0 < gain → p ≤ 65535 → Completes .powerCapIteration s fun t =>
      t.getF 18 .PWR_STATUS_FREQ = y.f ∧ t.dutyNow = y.duty ∧ t.getF 18 .PWR_STATUS_POWER = p ∧
      t.flag 18 .PWR_STATUS_THERM = s.anyWarm ∧ t.flag 18 .PWR_STATUS_CAPPED = decide (y.f < fmax ∧ y.f ≤ f) ∧
      t.flag 18 .PWR_STATUS_FLOOR = decide (y.f ≤ fmin ∧ cap < p) ∧ SameStores s t ∧
      (y.f < f → t.edge.power.target = y.f ∧ t.edge.power.at_ = wholeUs (s.now + 2000)) ∧
      (f < y.f → t.edge.power.target = y.f ∧ t.edge.power.at_ = wholeUs (s.now + 25000))) ∧
    (s.edge.power.freq = s.edge.power.target → exec .freqSlewStep s = .next s) ∧
    (s.edge.power.freq ≠ s.edge.power.target → s.edge.power.freq ≤ 165 → s.edge.power.target ≤ 165 →
      Completes .freqSlewStep s fun t =>
        let g := if s.edge.power.freq < s.edge.power.target then s.edge.power.freq + 1 else s.edge.power.freq - 1
        t.edge.power.freq = g ∧ (∀ d, d < 16 → t.getF d .CLK_STATUS_FREQ = g * 10) ∧ SameStores s t ∧
        t.now = max s.now s.edge.power.at_ ∧ t.edge.power.at_ = t.now + 200)

/-- A transaction to a die that lapses, of a DMA transfer, a SEND or an engine request, is retried once; a second lapse
completes its command with TIMEOUT and probes the die. A stack that is lost is out of service and its die is probed; a probed
die that does not answer for 1 ms is lost. A module that is lost leaves the members of the job, once, and is reported as 0x20;
frames that it sent and this module held are gone; its rows are formed from the group parity and the survivors' units, and its
mirrored shards from their copy. A link die that fails is lost, with every port that was UP FAILED. A host link's error is held
by its AER and raises its vector 33. Completes, each with the effect its clause gives: DIE_TRANSACTION_TIMEOUT, STACK_LOSS,
DIE_PROBE_TIMEOUT, MODULE_LOST, LINK_DIE_FAILURE, HOST_LINK_ERROR. -/
def Obligations.LossesAreProbedAndReported : Prop :=
  ((∀ (d : CDie) (p : Phys) (q : Fin 16) (x : CDie) (r : DmaRun) (s : State), s.canonical = true →
    (s.spr d p).dma.find? (fun r => r.q = 16 + q.val) = some r →
    ((dmaSrcs r.entry.bytes ++ dmaDests r.entry.bytes).any fun y => dpaDie y.1 = x.val) = true →
    let key := ((d.val * 272 + p.val) * 16 + q.val, r.entry.cmd)
    (s.edge.retried.contains key = false → Completes (.dieTransactionTimeout d p q x) s fun t =>
      t = { s with now := s.now + 100000, edge := { s.edge with retried := s.edge.retried ++ [key] } }) ∧
    (s.edge.retried.contains key = true → ∀ c, s.live d p = true → s.cmd d p r.entry.cmd = some c →
      Completes (.dieTransactionTimeout d p q x) s fun t => t.now = s.now + 100000 ∧ t.mem = s.mem ∧ t.cmd d p r.entry.cmd = none ∧
        (t.edge.probes.contains x.val || t.lostDies.contains x.val) = true ∧
        (t.spr d p).dma = (s.spr d p).dma.filter (fun y => y.q ≠ r.q) ∧
        (s.eventRoom d p (56 + cmdCq c.bytes) = true → (t.que d p (56 + cmdCq c.bytes)).entries =
          (s.que d p (56 + cmdCq c.bytes)).entries ++
            [written (completionEntry c.bytes rcTimeout 0 (woEngine d 9) 0 c.step [])]))) ∧
  (∀ (d : CDie) (p : Phys) (q : Fin 16) (x : CDie) (s : State), s.canonical = true →
    (s.lapsing d p q x = none → exec (.dieTransactionTimeout d p q x) s = .next s) ∧
    ∀ cmd src gone, s.lapsing d p q x = some (cmd, src, gone) →
      let key := ((d.val * 272 + p.val) * 16 + q.val, cmd)
      (s.edge.retried.contains key = false → Completes (.dieTransactionTimeout d p q x) s fun t =>
        t = { s with now := s.now + 100000, edge := { s.edge with retried := s.edge.retried ++ [key] } }) ∧
      (s.edge.retried.contains key = true → Completes (.dieTransactionTimeout d p q x) s fun t => t.now = s.now + 100000 ∧
        t.cmd d p cmd = none ∧ (t.edge.probes.contains x.val || t.lostDies.contains x.val) = true ∧
        ∀ y, ((s.spr d p).dma.any fun r => r.q = 16 + q.val) = false →
          (s.spr d p).sends.find? (fun y => y.q = q.val ∧ y.module = s.modIx ∧ y.qid / 2 ^ 14 = x.val) = some y →
          cmd = y.cmd ∧ (t.spr d p).sends = (s.spr d p).sends.filter fun z => z.cmd ≠ y.cmd)) ∧
  ∀ (d : CDie) (s : State), s.canonical = true →
    (s.dieGone d = false → Completes (.stackLoss d) s fun t => t.flag d .MEM_STATUS_READY = false ∧
      (t.reg 18 Reg.GLB_FUNC_READY_HI).getLsbD d = false ∧ t.edge.probes.contains d.val = true ∧ t.lostDies = s.lostDies ∧
      SameStores s t) ∧
    (s.dieGone d = true → exec (.stackLoss d) s = .next s) ∧
    (s.edge.probes.contains d.val = false → exec (.dieProbeTimeout d) s = .next s) ∧
    (s.edge.probes.contains d.val = true → s.dieGone d = false → Completes (.dieProbeTimeout d) s fun t =>
      t.dieGone d = true ∧ t.now = s.now + 1000000 ∧ (t.reg 18 Reg.GLB_FUNC_READY).getLsbD (16 + d) = false ∧
      (t.reg 18 Reg.GLB_FUNC_READY_HI).getLsbD d = false ∧ t.edge.probes.contains d.val = false ∧
      (∀ p q, p < 272 → q < 64 → (t.que d p q).entries = [] ∧ (t.spr d p).cmds = []) ∧
      t.ctr 18 (dieCtr (64 + 0x11)) = s.ctr 18 (dieCtr (64 + 0x11)) + 1)) ∧
  ((∀ (m : BitVec 10) (us : List PeerUnit) (sh : List PeerShard) (s : State), s.canonical = true →
    (s.lostMods.contains m.toNat = true → exec (.moduleLost ⟨m, us, sh⟩) s = .next s) ∧
    (s.lostMods.contains m.toNat = false → Completes (.moduleLost ⟨m, us, sh⟩) s fun t => t.lostMods = s.lostMods ++ [m.toNat] ∧
      t.ctr 18 (dieCtr (64 + 0x20)) = s.ctr 18 (dieCtr (64 + 0x20)) + 1 ∧ (s.ecc = [] → s.edge.fnl.reds = [] → SameStores s t) ∧
      ∀ j, s.job = some j → (∃ j', t.job = some j' ∧ j'.members = j.members.filter (· ≠ m.toNat) ∧ j'.step = j.step) ∧
        (∀ h ∈ t.edge.fnl.held, fldBits h.2.2 10 2 9 0 ≠ m.toNat) ∧
        (∀ g r x, j.groupOf m.toNat = some g → j.modIx ≠ m.toNat → parityMember g r = j.modIx → (∃ u ∈ us, u.row = r) →
          rowUnits g m.toNat r us = some x → (m.toNat, r, s.lostGroupUnit j x r) ∈ t.edge.rebuilt) ∧
        ∀ k y, k ∈ j.protect → k.module = m.toNat → k.mirror = true →
          s.edge.kept.find? (fun y => y.module = m.toNat ∧ y.tid = k.tid) = some y →
          { module := m.toNat, tid := k.tid, bytes := y.bytes, grads := [] } ∈ t.edge.restored)) ∧
  (∀ (l : LDie) (s : State), s.canonical = true →
    (s.dieGone (16 + l.val) = true → exec (.linkDieFailure l) s = .next s) ∧
    (s.dieGone (16 + l.val) = false → Completes (.linkDieFailure l) s fun t => t.dieGone (16 + l.val) = true ∧ SameStores s t ∧
      (t.reg 18 Reg.GLB_FUNC_READY).getLsbD (8 + l.val) = false ∧
      t.ctr 18 (dieCtr (64 + 0x0C)) = s.ctr 18 (dieCtr (64 + 0x0C)) + 1 ∧
      ∀ k, k < 8 → s.portUp (l.val * 8 + k) = true → t.portState (l.val * 8 + k) = 4)) ∧
  ∀ (l : KDie) (s : State), s.canonical = true → Completes (.hostLinkError l) s fun t =>
    Store.get 0 t.msix (l.val * 64 + 33) = Store.get 0 s.msix (l.val * 64 + 33) + 1 ∧
    (Store.get 0 t.edge.aer l).getLsbD 1 = true ∧ t = { s with msix := t.msix, edge := { s.edge with aer := t.edge.aer } })

/-- The twin takes over after 100 us without a mirror heartbeat, or when a channel has held a GO for 250 us: the roles of the
control dies swap, the failed die's link is down, its requests that were FULL are not executed, completions that wait on it go
to the other link, and 0x18 is reported. Without a twin no takeover completes, and 100 us on both dies are silent, which is
reported as 0x19, and the module is lost. A twin that has resynchronised sets TWIN, and its link is up unless its PERST_N is
low: not while its watchdog holds it or before the mailboxes work. A step that times out, but not one that waits for coverage,
is reported as 0x32 and aborts 256 ns on. The abort at its time starts the step again from its step-start barrier, or its update
phase once its variant is there, with one more abort counted, and nothing of the work in flight is left. Completes, each with
the effect its clause gives: MIRROR_HEARTBEAT, MIRROR_HEARTBEAT_TIMEOUT, MAILBOX_ACCEPTED_TIMEOUT, FAILOVER_TIMEOUT,
MIRROR_SYNC_COMPLETE, STEP_TIMEOUT, STEP_ABORT. -/
def Obligations.TwinsTakeOverAndStepsAbort : Prop :=
  (∀ (l : KDie) (c : Chan) (s : State), s.canonical = true →
    let failed := s.activeK - 18
    let taken (t : State) : Prop := t.activeK = 37 - s.activeK ∧ t.flag 18 .GLB_FUNC_READY_TWIN = false ∧
      (t.reg 18 Reg.GLB_FUNC_READY).getLsbD (2 + failed) = false ∧ SameStores s t ∧ t.job = s.job ∧
      t.ctr 18 (dieCtr (64 + 0x18)) = s.ctr 18 (dieCtr (64 + 0x18)) + 1 ∧
      ∀ x : Chan, x.val < 24 → s.getF (linkDie failed) (.MBX_STAT_STATE x) = 1 →
        t.getF (linkDie failed) (.MBX_STAT_STATE x) = 0 ∧ (t.chan failed x).req = []
    let moved (t : State) : Prop := (t.chan failed 24).queue = [] ∧ ∀ r ∈ (s.chan failed 24).queue, r ∈ (t.chan (1 - failed) 24).queue
    let s0 := s.stopActivation
    let waits (n : Nat) (t : State) : Prop := t = { s0 with now := n, edge := { s0.edge with ctl := { s0.edge.ctl with takeover := some n } } }
    (Completes .mirrorHeartbeat s fun t => t = { s with edge := { s.edge with ctl := { s.edge.ctl with mirrorAt := s.now } } }) ∧
    (s.flag 18 .GLB_FUNC_READY_TWIN = true → Completes .mirrorHeartbeatTimeout s fun t => taken t ∧ moved t) ∧
    (s.flag 18 .GLB_FUNC_READY_TWIN = false →
      Completes .mirrorHeartbeatTimeout s (waits (max s.now (s.edge.ctl.mirrorAt + 100000)))) ∧
    (c.val < 24 → s.getF (linkDie l) (.MBX_STAT_STATE c) = 1 →
      (s.flag 18 .GLB_FUNC_READY_TWIN = true → Completes (.mailboxAcceptedTimeout l c) s taken) ∧
      (s.flag 18 .GLB_FUNC_READY_TWIN = false →
        Completes (.mailboxAcceptedTimeout l c) s (waits (max s.now ((s.chan l c).goAt + 250000))))) ∧
    (s.getF (linkDie l) (.MBX_STAT_STATE c) ≠ 1 → exec (.mailboxAcceptedTimeout l c) s = .next s) ∧
    (∀ n, s.edge.ctl.takeover = some n → Completes .failoverTimeout s fun t => t.edge.ctl.takeover = none ∧
      (s.ecc = [] → s.edge.fnl.reds = [] → SameStores s t) ∧ t.lostMods.contains s.modIx = true ∧
      t.now = max s.now (n + 100000) ∧ t.ctr 18 (dieCtr (64 + 0x19)) = s.ctr 18 (dieCtr (64 + 0x19)) + 1) ∧
    (s.edge.ctl.takeover = none → exec .failoverTimeout s = .next s)) ∧
  (∀ s : State, s.canonical = true →
    let twin := 37 - s.activeK
    ((s.getF twin .RST_STATUS_HOLD).testBit 5 = true ∨ s.flag 18 .GLB_FUNC_READY_MBX = false →
      exec .mirrorSyncComplete s = .next s) ∧
    ((s.getF twin .RST_STATUS_HOLD).testBit 5 = false → s.flag 18 .GLB_FUNC_READY_MBX = true → s.edge.fw.stage = 0 →
      Completes .mirrorSyncComplete s fun t => t.flag 18 .GLB_FUNC_READY_TWIN = true ∧ t.activeK = s.activeK ∧ SameStores s t ∧
        (s.edge.pins.perstLow.contains (twin - 18) = false →
          (t.reg 18 Reg.GLB_FUNC_READY).getLsbD (2 + (twin - 18)) = true)) ∧
    ((s.getF twin .RST_STATUS_HOLD).testBit 5 = false → s.flag 18 .GLB_FUNC_READY_MBX = true → s.edge.fw.stage = 1 →
      s.jobRuns = false → Completes .mirrorSyncComplete s fun t => t.activeK = twin ∧ t.edge.fw.stage = 3 ∧
        t.flag 18 .GLB_FUNC_READY_TWIN = false) ∧
    (∀ img, (s.getF twin .RST_STATUS_HOLD).testBit 5 = false → s.flag 18 .GLB_FUNC_READY_MBX = true → s.edge.fw.stage = 3 →
      s.edge.fw.staged = some img → Completes .mirrorSyncComplete s fun t => t.edge.fw.image = img ∧ t.edge.fw.staged = none ∧
        t.edge.fw.version = Config.imageVersion img ∧ t.edge.fw.stage = 0 ∧ t.flag 18 .GLB_FUNC_READY_TWIN = true) ∧
    (s.job = none → exec .stepTimeout s = .next s ∧ exec .stepAbort s = .next s) ∧
    (s.edge.abortAt = none → exec .stepAbort s = .next s) ∧
    ∀ j, s.job = some j → s.frozen = false → j.running = true →
      (j.started = true → s.edge.boundary = some 0 → j.stepCovered j.step = false → exec .stepTimeout s = .next s) ∧
      (j.started = true → (s.edge.boundary = some 0 → j.stepCovered j.step = true) → s.edge.abortAt = none → Completes .stepTimeout s fun t => t.edge.abortAt = some (s.now + 256) ∧
        t.ctr 18 (dieCtr (64 + 0x32)) = s.ctr 18 (dieCtr (64 + 0x32)) + 1 ∧ SameStores s t ∧ t.job = s.job) ∧
      ∀ n, s.edge.abortAt = some n → j.aborts ≠ 2 → s.edge.suspects = [] → Completes .stepAbort s fun t => t.edge.abortAt = none ∧ t.now = max s.now n ∧
        (∀ d p, d < 16 → p < 272 → (t.spr d p).cmds = []) ∧
        t.ctr 18 (dieCtr 5) = s.ctr 18 (dieCtr 5) + 1 ∧
        ∃ j', t.job = some j' ∧ j'.aborts = j.aborts + 1 ∧ j'.step = j.step ∧
          (j.phase = 3 → s.edge.boundary ≠ some 0 → t.edge.rerun = true ∧ t.barriers = [] ∧
            (s.findVariant (s.variantKey j j.step 3) = none → j'.phase = 2 ∧ j'.fetching = false ∧ t.edge.boundary = some 3) ∧
            (s.findVariant (s.variantKey j j.step 3) ≠ none → j'.phase = 3 ∧ j'.fetching = true ∧
              ∀ d p, d < 16 → p < 272 → (t.spr d p).fetchPos = 0)) ∧
          ((j.phase ≠ 3 ∨ s.edge.boundary = some 0) → j'.phase = 3 ∧ j'.fetching = false ∧ t.edge.boundary = some 0 ∧
            t.edge.fnl.reds = [] ∧ t.barriers = [Barrier.new barStart t.now]))

/-- Checkpoint transfers: a WRITE_ACK takes the acknowledged frame out of flight, and with the last one a checkpoint's command
is done; a DATA frame's piece is kept, and what has arrived is no longer asked for; a NACK fails the command; after 1 ms a frame
is sent again, eight times, and the transfer then takes another port that is UP, or fails. A frame whose CRC is bad moves
nothing on. A frame that lies in its port's ring is taken from it. Completes, each with the effect its clause gives: WRITE_ACK,
DATA, NACK, TRANSFER_TIMEOUT. -/
def Obligations.TransfersAdvanceAndFail : Prop :=
  ∀ (pt : Port) (f : List Byte) (x : Xfer) (s : State), s.canonical = true → s.edge.xfers = [x] → x.port = pt.val → x.len ≤ x.next →
    let good (op : Nat) : Prop := s.ethUp pt = true ∧ xfOp f = op ∧ xfGood f = true ∧ x.obj = xfObj f
    let failed (t : State) : Prop := t.edge.xfers = [] ∧ (∀ y ∈ t.longs, y.tag = x.tag → y.result ≠ none) ∧
      (∀ c, t.edge.ckpt = some c → c.tag ≠ x.tag) ∧ t.mem = s.mem
    let rest := x.out.filter fun y => !(y.tag == xfTag f && y.off == xfOff f)
    let s0 := s.fromRing pt f
    (((s.port pt).rx.contains f = false → s0 = s) ∧ (s0.port pt).rx = (s.port pt).rx.erase f) ∧
    (xfGood f = false → exec (.writeAck pt f) s = .next s0 ∧ exec (.data pt f) s = .next s0 ∧ exec (.nack pt f) s = .next s0) ∧
    (good 2 → x.write = true → (∃ y ∈ x.out, y.tag = xfTag f ∧ y.off = xfOff f) →
      (rest ≠ [] → Completes (.writeAck pt f) s fun t =>
        t = { s0 with edge := { s0.edge with xfers := [{ x with out := rest, at_ := s.now }] } }) ∧
      (∀ c, rest = [] → s.edge.ckpt = some c → c.tag = x.tag → Completes (.writeAck pt f) s fun t => t.edge.xfers = [] ∧
        t.edge.ckpt = none ∧ t.mem = s.mem ∧
        ∀ y ∈ s.longs, y.tag = x.tag → y.result = none → ({ y with result := some (rcOk,
          [BitVec.ofNat 32 (dpaLo c.dpa), BitVec.ofNat 32 (dpaHi c.dpa), BitVec.ofNat 32 c.step]) } : LongCmd) ∈ t.longs)) ∧
    (good 4 → x.write = false → xfLen f ≤ 8192 → x.len ≠ 64 →
      let y : Xfer := { x with got := x.got ++ [(xfOff f, xfData f)], at_ := s.now }
      y.reached 0 < x.len → Completes (.data pt f) s fun t =>
        t = { s0 with edge := { s0.edge with
          xfers := [{ y with out := x.out.filter fun g => decide (y.reached g.off < g.off + g.len) }] } }) ∧
    (good 5 → Completes (.nack pt f) s failed) ∧
    (x.out = [] → exec .transferTimeout s = .next s) ∧
    (x.out ≠ [] → (x.out.any fun y => 8 ≤ y.tries) = false → Completes .transferTimeout s fun t =>
      t.now = max s.now (x.at_ + 1000000) ∧ t.mem = s.mem ∧ t.longs = s.longs ∧
      t.outbox.length = s.outbox.length + x.out.length ∧
      ∃ y, t.edge.xfers = [y] ∧ y.port = x.port ∧ y.out.length = x.out.length ∧
        y.out.map (fun g => (g.tag, g.tries, g.off + g.len)) =
          x.out.map fun g => (g.tag, g.tries + 1, (if x.write then g.off else x.reached g.off) +
            (g.off + g.len - if x.write then g.off else x.reached g.off))) ∧
    ((x.out.any fun y => 8 ≤ y.tries) = true → (ethPorts.all fun p => (x.tried ++ [x.port]).contains p || !s.ethUp p) = true →
      Completes .transferTimeout s fun t => failed t ∧ t.now = max s.now (x.at_ + 1000000)) ∧
    ((x.out.any fun y => 8 ≤ y.tries) = true → (ethPorts.any fun p => !(x.tried ++ [x.port]).contains p && s.ethUp p) = true →
      Completes .transferTimeout s fun t => t.longs = s.longs ∧ ∃ y, t.edge.xfers = [y] ∧ y.tried = x.tried ++ [x.port] ∧
        s.ethUp y.port = true ∧ y.port ∉ y.tried ∧ ∀ g ∈ y.out, g.tries = 0)

/-- POR, MODRST and THERM reset every block of every die: DRAM is lost, the accumulators, queues and job are gone, Thyme
restarts at 0, and every register has its reset value but RST_CAUSE, RST_STATUS and SPRG_MAP, which show the source, the hold,
the counted restarts and the repair record. The commands that wait, the inventory and repair records are kept. The last release
starts the cold sequence at step 1. A warm reset, of RST_WARM.GO, the WARM_RESET command and the module watchdog: work ends, the
job and the accumulators are gone, DRAM stays with KEEP (but for the open journal record, which the module watchdog writes), the
active control die stays active, MGT, HL0 and HL1 stay set, and the release starts at step 2. While a full reset holds the
module only the cause is recorded. Completes, each with the effect its clause gives: POR, MODRST, THERM, WARM, WARM_RESET,
MODWDOG. -/
def Obligations.ResetsReachWhatTheyReach : Prop :=
  (∀ s : State, s.canonical = true →
    let cleared (c : Nat) (t : State) : Prop :=
      t.mem = [] ∧ t.ecc = [] ∧ t.acc = [] ∧ t.sprigs = [] ∧ t.engines = [] ∧ t.counters = [] ∧ t.chans = [] ∧ t.job = none ∧
      t.longs = [] ∧ t.now = 0 ∧ t.repair = s.repair ∧ t.inv = s.inv ∧ t.pending = s.pending ∧ t.lostDies = s.lostDies ∧
      t.edge.release = none ∧
      ∀ d, d < 20 → (t.getF d .RST_STATUS_HOLD).testBit c = true ∧
        (t.reg d Reg.RST_CAUSE = if c = 0 then 1 else s.reg d Reg.RST_CAUSE ||| BitVec.ofNat 32 (2 ^ c)) ∧
        (d < 16 → ∀ b, b < 16 → t.reg d (Reg.SPRG_MAP b) = Store.get 0 s.repair (d * 16 + b)) ∧
        ∀ off : RegOff, off.toNat ≠ Reg.RST_CAUSE → off.toNat ≠ Reg.RST_STATUS → (∀ b, b < 16 → off.toNat ≠ Reg.SPRG_MAP b) →
          t.reg d off.toNat = State.reset.reg d off.toNat
    let released (t : State) : Prop := (∀ d, d < 20 → t.getF d .RST_STATUS_HOLD % 8 = 0) ∧
      t.edge.release = some { step := 1, trims := true, dramLost := true }
    let only (c : Nat) : Prop := ∀ d, d < 20 → s.getF d .RST_STATUS_HOLD % 8 = 2 ^ c
    (Completes (.por false) s fun t => cleared 0 t ∧ ∀ d, d < 20 → t.getF d .RST_STATUS_LOAD_RESTARTS = 0) ∧
    (Completes (.modrst true) s fun t => cleared 1 t ∧ t.edge.pins.modResetN = false ∧ (s.loading = [] →
      ∀ d, d < 20 → t.getF d .RST_STATUS_LOAD_RESTARTS = s.getF d .RST_STATUS_LOAD_RESTARTS)) ∧
    (Completes (.therm true) s fun t => cleared 2 t ∧ t.edge.pins.regulators = false) ∧
    (only 0 → Completes (.por true) s fun t => released t ∧ t.edge.pins.regulators = !s.edge.pins.therm) ∧ (only 1 → Completes (.modrst false) s released) ∧
    (only 2 → Completes (.therm false) s fun t => released t ∧ t.edge.pins.regulators = true) ∧
    (s.edge.release = none → (∀ d, d < 20 → s.getF d .RST_STATUS_HOLD % 8 = 3) → Completes (.por true) s fun t => t.edge.release = none)) ∧
  (∀ (k : KDie) (c : Chan) (a : Nat) (s : State), s.canonical = true →
    let warm (src : Nat) (keep : Bool) (t : State) : Prop :=
      t.job = none ∧ t.acc = [] ∧ t.longs = [] ∧ (∀ d p, t.spr d p = Sprig.fresh) ∧ t.now = s.now ∧ t.inv = s.inv ∧
      t.repair = s.repair ∧ t.activeK = s.activeK ∧ t.reg 18 Reg.GLB_FUNC_READY = s.reg 18 Reg.GLB_FUNC_READY &&& 0xD ∧
      t.reg 18 Reg.GLB_FUNC_READY_HI = 0 ∧
      (∀ d, d < 20 → t.reg d Reg.RST_CAUSE = s.reg d Reg.RST_CAUSE ||| BitVec.ofNat 32 (2 ^ src) ∧
        (t.getF d .RST_STATUS_HOLD).testBit src = true) ∧
      (keep = true → dpaSpace a = 0 → t.byte a = s.byte a) ∧ (dpaSpace a ≠ 0 ∨ keep = false → t.byte a = 0) ∧
      t.edge.release = some { step := 2, trims := false, dramLost := !keep }
    (s.heldFull = false → s.edge.release = none →
      Completes (.warm k) s (warm 3 (s.flag (18 + k.val) .RST_WARM_KEEP)) ∧
      (∀ s1, bits ((s.chan k c).req.getD 0 0) 15 0 = 0x71 → s.takeRequest k c = (s1, true) →
        Completes (.warmReset k c) s fun t => t.job = none ∧ t.acc = [] ∧ t.getF (linkDie k) (.MBX_STAT_STATE c) = 3 ∧
          t.reg (linkDie k) (Reg.MBX_ACK c) = ackWord rcOk (s1.chan k c).seq ∧
          ∀ l x : Nat, l < 2 → x < 32 → (l ≠ k.val ∨ x ≠ c.val) → t.getF (linkDie l) (.MBX_STAT_STATE x) = 0)) ∧
    (s.heldFull = true → Completes (.warm k) s fun t => SameStores s t ∧ t.job = s.job ∧
      ∀ d, d < 20 → t.reg d Reg.RST_CAUSE = s.reg d Reg.RST_CAUSE ||| 8) ∧
    (s.heldFull = false → s.edge.release = none → Completes .modwdog s fun t => t.job = none ∧ t.acc = [] ∧
      t.now = max s.now (s.edge.ctl.beatAt + 1000000) ∧
      (s.journal = none ∨ s.flag 18 .JRN_CTL_EN = false → dpaSpace a = 0 → t.byte a = s.byte a) ∧
      ∀ d, d < 20 → t.reg d Reg.RST_CAUSE = s.reg d Reg.RST_CAUSE ||| 16))

/-- A watchdog or PERST_N resets its die's own blocks and holds the die until it releases: a control die's watchdog returns its
own registers to their reset values, THYME clears, and debug authorization ends with the active die; a die supervisor's watchdog
returns its internal channels; PERST_N returns the link's channels and clears its HL bit, which sets again on release once the
mailboxes work. Memory and the job are not touched. A software reset of a block that the die does not have changes nothing; of
SEC without authorization it is denied; an engine that is DISABLED is reset at once, and another drains first, with its bit set
until then; the sprig complex is reset with the registers that its sprigs share; a link die's LNK block loses its ports; a bit
reads 1 in RST_BLK_SRST only while its block drains. Completes, each with the effect its clause gives: CTLWDOG, DSWDOG, PERST,
PERST_RELEASE, SOFTWARE_RESET. -/
def Obligations.DieAndBlockResetsReachTheirBlocks : Prop :=
  (∀ (k : KDie) (x : Fin 18) (s : State), s.canonical = true →
    let held (d c : Nat) (t : State) : Prop := (t.getF d .RST_STATUS_HOLD).testBit c = true ∧
      t.reg d Reg.RST_CAUSE = s.reg d Reg.RST_CAUSE ||| BitVec.ofNat 32 (2 ^ c) ∧ SameStores s t ∧ t.job = s.job ∧ t.now = s.now
    (Completes (.ctlwdog k false) s fun t => held (18 + k) 5 t ∧ t.flag 18 .GLB_FUNC_READY_THYME = false ∧
      (s.activeK ≠ 18 + k.val → t.flag 18 .GLB_FUNC_READY_TWIN = false) ∧ (s.activeK = 18 + k.val → t.authHeld = false) ∧
      t.flag (18 + k) .RST_STATUS_OPT_DONE = false ∧ t.flag (18 + k) .RST_STATUS_TRIM_DONE = false ∧
      ∀ off : RegOff, ownControlReg off.toNat = true → t.reg (18 + k) off.toNat = State.reset.reg (18 + k) off.toNat) ∧
    (Completes (.ctlwdog k true) s fun t => (t.getF (18 + k) .RST_STATUS_HOLD).testBit 5 = false ∧
      t.flag (18 + k) .RST_STATUS_OPT_DONE = true ∧ t.flag (18 + k) .RST_STATUS_TRIM_DONE = true ∧ SameStores s t) ∧
    (Completes (.dswdog x false) s fun t => held x 6 t ∧ Store.get 0 t.supIrq x = 0 ∧
      ∀ off : RegOff, 0xE0000 ≤ off.toNat → off.toNat < 0xE0800 → t.reg x off.toNat = State.reset.reg x off.toNat) ∧
    (Completes (.dswdog x true) s fun t => (t.getF x .RST_STATUS_HOLD).testBit 6 = false ∧ SameStores s t) ∧
    (Completes (.perst k) s fun t => held (18 + k) 7 t ∧ (t.reg 18 Reg.GLB_FUNC_READY).getLsbD (2 + k) = false ∧
      (∀ c : Chan, c.val < 24 → t.chan k c = Channel.fresh ∧ t.getF (linkDie k) (.MBX_STAT_STATE c) = 0) ∧
      t.d3.contains k.val = false ∧ t.edge.pins.perstLow.contains k.val = true) ∧
    (s.flag 18 .GLB_FUNC_READY_MBX = true → Completes (.perstRelease k) s fun t =>
      (t.getF (18 + k) .RST_STATUS_HOLD).testBit 7 = false ∧ (t.reg 18 Reg.GLB_FUNC_READY).getLsbD (2 + k) = true ∧
      t.edge.pins.perstLow.contains k.val = false ∧ SameStores s t ∧ t.job = s.job)) ∧
  (∀ (d : Die) (b : Fin 25) (s : State), s.canonical = true →
    let one : BitVec 25 := BitVec.ofNat 25 (2 ^ b.val)
    let reads (lo hi : Nat) (t : State) : Prop := ∀ off : RegOff, lo ≤ off.toNat → off.toNat < hi → t.reg d off.toNat = State.reset.reg d off.toNat
    exec (.softwareReset d 0) s = .next s ∧
    (srstOn b d = false → exec (.softwareReset d one) s = .next s) ∧
    (b.val = 23 → 18 ≤ d.val → s.authHeld = false → Completes (.softwareReset d one) s fun t =>
      t.flag d .RST_STATUS_DENIED = true ∧ t = s.setReg d Reg.RST_STATUS (t.reg d Reg.RST_STATUS)) ∧
    (∀ e, srstEngine b = some e → d.val < 16 →
      ((s.eng d e).st = .disabled → Completes (.softwareReset d one) s fun t => t.eng d e = Engine.fresh ∧ SameStores s t ∧
        reads (engBlock e).1 (engBlock e).2 t) ∧
      ((s.eng d e).st ≠ .disabled → Completes (.softwareReset d one) s fun t => (t.eng d e).srstReq = true ∧ SameStores s t ∧
        (t.eng d e).st = .draining ∧ (t.eng d e).accepted = (s.eng d e).accepted ∧
        (t.reg d Reg.RST_BLK_SRST).getLsbD b = true)) ∧
    (b.val = 7 ∨ b.val = 8 ∨ b.val = 9 → d.val < 16 → (∀ p, p < 272 → (s.spr d p).st = .disabled ∨ s.offline d p = true) →
      Completes (.softwareReset d one) s fun t =>
        (∀ p, p < 272 → (t.spr d p).st = .disabled ∧ (t.spr d p).cmds = [] ∧ ((s.spr d p).stalled = [] → t.spr d p = Sprig.fresh)) ∧
        reads 0x30000 0x40000 t ∧
        t.reg d Reg.SPRG_DRAIN_TMO = State.reset.reg d Reg.SPRG_DRAIN_TMO ∧ bits (t.reg d Reg.RST_BLK_SRST) 9 7 = 0) ∧
    (b.val = 12 → d.val = 16 ∨ d.val = 17 → Completes (.softwareReset d one) s fun t => SameStores s t ∧
      (∀ k, k < 8 → t.port ((d.val - 16) * 8 + k) = PortS.fresh) ∧ reads 0xB0000 0xC0000 t) ∧
    (b.val = 10 → d.val < 16 → Completes (.softwareReset d one) s fun t => SameStores s t ∧ reads 0x90000 0xA0000 t) ∧
    (b.val = 5 → Completes (.softwareReset d one) s fun t => t.flag d .TMB_STATUS_LOCKED = false ∧ SameStores s t ∧
      t.flag d .TMB_STATUS_MASTER = false ∧ Store.get 0 t.edge.dieSamples d = 0 ∧ t.flag 18 .GLB_FUNC_READY_THYME = false))

/-- The release, a step at a time: the option stores, secure boot, management, host links and mailboxes, clocks and Thyme, the
stacks, the link dies, the placer; each sets its readiness bits. In step 6 each die whose stack has trained is ready, and the
step is complete with the last die that is not lost. A stack that has not trained after two retries of 1 s loses its die.
Completes, each with the effect its clause gives: RELEASE_STEP, STACK_TRAIN_TIMEOUT. -/
def Obligations.ReleaseGoesStepByStep : Prop :=
  ∀ (m : BitVec 16) (r : Release) (s : State), s.canonical = true → s.edge.release = some r → s.heldFull = false →
    let ready (t : State) (i : Nat) : Bool := (t.reg 18 Reg.GLB_FUNC_READY).getLsbD i
    let at_ (n : Nat) (t : State) : Prop := t.edge.release = some { r with step := n } ∧ SameStores s t
    let go := Completes (.releaseStep m) s
    (r.step = 1 → go fun t => at_ 2 t ∧ t.flag 18 .RST_STATUS_OPT_DONE = true ∧ t.flag 19 .RST_STATUS_OPT_DONE = true) ∧
    (r.step = 2 → go fun t => at_ (if r.trims then 3 else 4) t ∧ ready t 1 = true ∧
      (s.flag 18 .GLB_ROLE_ACTIVE = false → s.flag 19 .GLB_ROLE_ACTIVE = false → t.activeK = 18 ∧
        t.flag 18 .TMB_STATUS_MASTER = true)) ∧
    (r.step = 3 → go fun t => at_ 4 t ∧ ready t 0 = true) ∧
    (r.step = 4 → go fun t => at_ 5 t ∧ ready t 4 = true ∧ (r.trims = true → s.edge.pins.perstLow = [] → ready t 2 = true ∧ ready t 3 = true)) ∧
    (r.step = 5 → go fun t => at_ 6 t ∧ ready t 6 = true ∧ ∀ d, d < 20 → s.dieGone d = false →
      t.flag d .TMB_STATUS_LOCKED = true ∧ t.getF d .CLK_STATUS_LOCK = lockMask d) ∧
    (r.step = 6 → go fun t => SameStores s t ∧ (∀ d, d < 16 → m.getLsbD d = true → s.dieGone d = false → ready s (16 + d) = false →
        ready t (16 + d) = true ∧ (t.reg 18 Reg.GLB_FUNC_READY_HI).getLsbD d = true ∧ t.flag d .MEM_STATUS_READY = true) ∧
      (t.edge.release = some { r with step := 7 } ↔
        ∀ d, d < 16 → s.dieGone d = true ∨ ready s (16 + d) = true ∨ m.getLsbD d = true)) ∧
    (r.step = 7 → go fun t => at_ 8 t ∧ ∀ d, d < 2 → s.dieGone (16 + d) = false → ready t (8 + d) = true) ∧
    (r.step = 8 → go fun t => t.edge.release = none ∧ ready t 5 = true ∧ SameStores s t ∧
      ∀ d, d < 20 → (t.getF d .RST_STATUS_HOLD).testBit 3 = false ∧ (t.getF d .RST_STATUS_HOLD).testBit 4 = false) ∧
    (r.step = 6 → ∀ d : CDie, s.dieGone d = false → ready s (16 + d) = false → 
      let n := Store.get 0 s.edge.trainTries d
      (n < 2 → Completes (.stackTrainTimeout d) s fun t => Store.get 0 t.edge.trainTries d = n + 1 ∧ t.now = s.now + 1000000000 ∧
        t.lostDies = s.lostDies) ∧
      (2 ≤ n → Completes (.stackTrainTimeout d) s fun t => t.lostDies = s.lostDies ++ [d.val] ∧
        t.ctr 18 (dieCtr (64 + 0x11)) = s.ctr 18 (dieCtr (64 + 0x11)) + 1))

/-- Once the management block is ready every message of Table 16.4 is answered, from what the module knows, and changes nothing
but the answer (a sensor reading also draws free bytes, for the sensors that no row brings); before that, nothing is answered. A
message of no kind of the table is answered that it is unsupported. (Bodies and completion codes are those of the messages' own
specifications, log 13.) The messages with an effect: the endpoint ID, the TID and the event receiver are set; the numeric
effecter sets the power cap as POWER_CAP does; a dynamic address moves the endpoint to I3C. An update goes REQUESTUPDATE,
PASSCOMPONENTTABLE, UPDATECOMPONENT, pieces in order, ACTIVATEFIRMWARE; it is refused while FW_STAGE or FW_ACTIVATE is
outstanding, and a message out of its turn is refused. A complete image that is good is staged, and an activation clears TWIN.
The TAP: IDCODE loads the word of Table 16.5; BYPASS loads one bit; a boundary instruction is loaded only while MOD_RESET_N is
low and the regulators are on, and is BYPASS otherwise; TRST_N, a rise of MOD_RESET_N and POR force Test-Logic-Reset, which
selects IDCODE. No instruction changes the module. Completes: GET_ENDPOINT_ID, GET_ENDPOINT_UUID, GET_MCTP_VERSION_SUPPORT,
GET_MESSAGE_TYPE_SUPPORT, GETTID, GETPLDMVERSION, GETPLDMTYPES, GETPLDMCOMMANDS, GETPDRREPOSITORYINFO, GETPDR, GETSENSORREADING,
GETSTATESENSORREADINGS, GETNUMERICEFFECTERVALUE, GETFRURECORDTABLEMETADATA, GETFRURECORDTABLE, QUERYDEVICEIDENTIFIERS,
GETFIRMWAREPARAMETERS, GETSTATUS, GET_VERSION, GET_CAPABILITIES, NEGOTIATE_ALGORITHMS, GET_DIGESTS, GET_CERTIFICATE, CHALLENGE,
GET_MEASUREMENTS, UNSUPPORTED_MANAGEMENT_MESSAGE, I3C_DYNAMIC_ADDRESS, SET_ENDPOINT_ID, SETTID, SETEVENTRECEIVER,
SETNUMERICEFFECTERVALUE, REQUESTUPDATE, PASSCOMPONENTTABLE, UPDATECOMPONENT, FIRMWARE_DATA_RESPONSE, ACTIVATEFIRMWARE,
CANCELUPDATECOMPONENT, CANCELUPDATE, IDCODE, BYPASS, TEST_LOGIC_RESET, MODRST, POR, SAMPLE_PRELOAD, EXTEST, CLAMP, HIGHZ. -/
def Obligations.ManagementAndTapAnswer : Prop :=
  (∀ (a b : Byte) (w : Word) (x y : BitVec 16) (bs : List Byte) (s : State), s.canonical = true →
    let answers (i : Instr) (r : List Byte) : Prop :=
      (s.flag 18 .GLB_FUNC_READY_MGT = true → Completes i s fun t =>
        t = { s with edge := { s.edge with mgmt := { s.edge.mgmt with out := r } } }) ∧
      (s.flag 18 .GLB_FUNC_READY_MGT = false → exec i s = .next s)
    let body (msg : Nat) (known : List Byte) : List Byte := bodyOf mcOk msg known
    let staged := match s.edge.fw.staged with | some img => natLe 4 (Config.imageVersion img).toNat | none => []
    answers .getEndpointId [mcOk, s.edge.mgmt.eid, 0, 0] ∧ answers .getEndpointUuid (body 0x0003 s.fru) ∧
    answers (.getMctpVersionSupport a) (body 0x0004 [a]) ∧ answers .getMessageTypeSupport [mcOk, 3, 0x00, 0x01, 0x05] ∧
    answers .getTid [mcOk, s.edge.mgmt.tid] ∧ answers (.getPldmVersion a) (body 0x0103 [a]) ∧
    answers .getPldmTypes [mcOk, 0x35, 0, 0, 0, 0, 0, 0, 0] ∧ answers (.getPldmCommands a) (body 0x0105 [a]) ∧
    answers .getPdrRepositoryInfo (body 0x0250 []) ∧ answers (.getPdr w) (body 0x0251 (natLe 4 w.toNat)) ∧
    (s.flag 18 .GLB_FUNC_READY_MGT = true → Completes (.getSensorReading x) s fun t =>
      t = { s with fresh := s.fresh + 4, edge := { s.edge with mgmt := { s.edge.mgmt with
        out := body 0x0211 (natLe 2 x.toNat ++ s.sensors ++ (s.freeBytes 4).2) } } }) ∧
    (s.flag 18 .GLB_FUNC_READY_MGT = false → exec (.getSensorReading x) s = .next s) ∧
    answers (.getStateSensorReadings x) (body 0x0221 (natLe 2 x.toNat)) ∧
    answers (.getNumericEffecterValue x) (if x = Config.capEffecter then body 0x0232 (natLe 4 (s.getF 18 .PWR_CAP_WATTS))
      else [mcInvalidEffecter]) ∧
    answers .getFruRecordTableMetadata (body 0x0401 s.fru) ∧ answers .getFruRecordTable (body 0x0402 s.fru) ∧
    answers .queryDeviceIdentifiers (body 0x0501 s.fru) ∧
    answers .getFirmwareParameters (body 0x0502 (natLe 4 s.edge.fw.version.toNat ++ staged)) ∧
    answers .getStatus (body 0x051B [BitVec.ofNat 8 s.edge.mgmt.update, BitVec.ofNat 8 s.edge.mgmt.lastResult]) ∧
    answers .getVersion (body 0x0684 []) ∧ answers .getCapabilities (body 0x06E1 []) ∧
    answers (.negotiateAlgorithms bs) (body 0x06E3 bs) ∧ answers .getDigests (body 0x0681 []) ∧
    answers (.getCertificate a x y) (body 0x0682 (a :: natLe 2 x.toNat ++ natLe 2 y.toNat)) ∧
    answers (.challenge a bs) (body 0x0683 (a :: bs)) ∧ answers (.getMeasurements a) (mcOk :: s.digest a.toNat) ∧
    answers (.unsupportedManagementMessage a b) (if a = 0x05 then [0x7F, 0x07] else [mcUnsupported])) ∧
  (∀ (a : Byte) (addr : BitVec 7) (v : Word) (bs : List Byte) (n : Nat) (s : State), s.canonical = true →
    let m := s.edge.mgmt
    let is (m' : Mgmt) (t : State) : Prop := t = { s with edge := { s.edge with mgmt := m' } }
    (Completes (.i3cDynamicAddress addr) s (is { m with i3c := some addr })) ∧
    (s.flag 18 .GLB_FUNC_READY_MGT = true →
      Completes (.setEndpointId a) s (is { m with eid := a, out := [mcOk, 0, a, 0] }) ∧
      Completes (.setTid a) s (is { m with tid := a, out := [mcOk] }) ∧
      Completes (.setEventReceiver a) s (is { m with receiver := a, out := [mcOk] }) ∧
      (1500 ≤ v.toNat → v.toNat ≤ 6000 → Completes (.setNumericEffecterValue Config.capEffecter v) s fun t =>
        t.getF 18 .PWR_CAP_WATTS = v.toNat ∧ t.edge.mgmt.out = [mcOk]) ∧
      ((v.toNat < 1500 ∨ 6000 < v.toNat) → Completes (.setNumericEffecterValue Config.capEffecter v) s
        (is { m with out := [mcInvalidData] })) ∧
      (m.update = 0 → s.firmwareBusy = false → Completes .requestUpdate s (is { m with update := 1, image := [], size := 0, out := [mcOk] })) ∧
      (m.update ≠ 0 ∨ s.firmwareBusy = true → Completes .requestUpdate s (is { m with out := [mcInUpdate] })) ∧
      (m.update = 1 → Completes (.passComponentTable bs) s (is { m with update := 2, out := [mcOk] })) ∧
      (m.update = 2 → Completes (.updateComponent n) s (is { m with update := 3, size := n, image := [], out := [mcOk] })) ∧
      (m.update = 3 → m.image.length + bs.length < m.size → Completes (.firmwareDataResponse m.image.length bs) s
        (is { m with image := m.image ++ bs })) ∧
      (m.update = 3 → m.image.length + bs.length = m.size → s.imageGood (m.image ++ bs) = true →
        Completes (.firmwareDataResponse m.image.length bs) s fun t => t.edge.fw.staged = some (m.image ++ bs) ∧
          t.edge.mgmt.update = 4 ∧ t.edge.mgmt.lastResult = 0) ∧
      (m.update = 3 → m.image.length + bs.length = m.size → s.imageGood (m.image ++ bs) = false →
        Completes (.firmwareDataResponse m.image.length bs) s (is { m with image := [], update := 2, lastResult := 1 })) ∧
      (n ≠ m.image.length → exec (.firmwareDataResponse n bs) s = .next s) ∧
      (m.update = 4 → s.flag 18 .GLB_FUNC_READY_TWIN = true → Completes (.activateFirmware false) s fun t =>
        t.edge.mgmt = { m with update := 5, out := [mcOk] } ∧ t.edge.fw.stage = 1 ∧ t.flag 18 .GLB_FUNC_READY_TWIN = false) ∧
      (m.update = 4 → s.flag 18 .GLB_FUNC_READY_TWIN = true → Completes (.activateFirmware true) s
        (is { m with update := 0, lastResult := 2, out := [mcOk] })) ∧
      (m.update = 3 ∨ m.update = 4 → Completes .cancelUpdateComponent s (is { m with update := 2, image := [], out := [mcOk] })) ∧
      (m.update ≠ 0 → m.update ≠ 5 → Completes .cancelUpdate s (is { m with update := 0, image := [], out := [mcOk] })) ∧
      (m.update = 0 → ∀ i ∈ [Instr.passComponentTable bs, .updateComponent n, .activateFirmware false, .cancelUpdateComponent, .cancelUpdate],
        Completes i s (is { m with out := [mcNotInUpdate] })) ∧
      (m.update = 5 → ∀ i ∈ [Instr.passComponentTable bs, .updateComponent n, .activateFirmware false, .cancelUpdateComponent, .cancelUpdate],
        Completes i s (is { m with out := [mcInvalidState] })))) ∧
  (∀ (i : Instr) (x : TapInstr) (s : State),
    [(Instr.samplePreload, TapInstr.samplePreload), (.extest, .extest), (.clamp, .clamp), (.highz, .highz)].contains (i, x) = true →
    let is (t' : Tap) (t : State) : Prop := t = { s with edge := { s.edge with tap := t' } }
    let tap := s.edge.tap
    let id : BitVec 32 := BitVec.ofNat 4 s.inv.stepping ++ 0x4820#16 ++ 0x2B9#11 ++ 1#1
    Completes .idcode s (is { tap with ir := .idcode, reset := false, dr := id }) ∧
    Completes .bypass s (is { tap with ir := .bypass, reset := false, dr := 0 }) ∧
    (s.edge.pins.modResetN = false → s.edge.pins.regulators = true → Completes i s (is { tap with ir := x, reset := false, dr := 0 })) ∧
    (s.edge.pins.modResetN = true ∨ s.edge.pins.regulators = false →
      Completes i s (is { tap with ir := .bypass, reset := false, dr := 0 })) ∧
    Completes .testLogicReset s (is { tap with ir := .idcode, reset := true }) ∧
    (Completes (.modrst false) s fun t => t.edge.tap = { tap with ir := .idcode, reset := true }) ∧
    Completes (.por false) s fun t => t.edge.tap = { tap with ir := .idcode, reset := true })

/-- The rows of the host links, channels, clocks, observation, management and TAP leave every byte of memory, every codeword,
every accumulator, every sprig with its scalar registers, queues and arrays, every engine, the job and the repair record as they
were. -/
def Obligations.RowsApartFromTheSprigsKeepThem : Prop :=
  ∀ (i : Instr) (s : State), apart i = true → Completes i s fun t =>
    t.mem = s.mem ∧ t.ecc = s.ecc ∧ t.acc = s.acc ∧ t.sprigs = s.sprigs ∧ t.engines = s.engines ∧ t.job = s.job ∧
    t.repair = s.repair ∧ t.gov = s.gov ∧ t.cache = s.cache ∧ t.barriers = s.barriers
end

