-- ==== Sys2Proof/Laws/Store.lean ====
section
/-! SUPPORT. What a sparse store does: a read after a write, and the canonical form that every operation keeps. -/

namespace Sys2Proof.Machine

variable {β : Type}

theorem Store.above_mono {lo lo' : Nat} (h : lo' ≤ lo) : ∀ {m : Store β}, Store.above lo m = true → Store.above lo' m = true
  | [], _ => rfl
  | (a, v) :: t, hm => by
    simp only [Store.above, Bool.and_eq_true, decide_eq_true_eq] at hm ⊢
    exact ⟨by omega, hm.2⟩

theorem Store.sorted_of_above {lo : Nat} : ∀ {m : Store β}, Store.above lo m = true → Store.sorted m = true
  | [], _ => rfl
  | (a, v) :: t, hm => by
    simp only [Store.above, Bool.and_eq_true, decide_eq_true_eq] at hm
    exact hm.2

theorem Store.sorted_tail {x : Nat × β} {t : Store β} (h : Store.sorted (x :: t) = true) : Store.sorted t = true :=
  Store.sorted_of_above h

/-- A key at or below the bound of a store is not listed. -/
theorem Store.get_above (d : β) {lo k : Nat} (h : k ≤ lo) : ∀ {m : Store β}, Store.above lo m = true → Store.get d m k = d
  | [], _ => rfl
  | (a, v) :: t, hm => by
    simp only [Store.above, Bool.and_eq_true, decide_eq_true_eq] at hm
    have h1 : a ≠ k := by omega
    have h2 : k < a := by omega
    simp [Store.get, h1, h2]

theorem Store.del_above {lo k : Nat} : ∀ {m : Store β}, Store.above lo m = true → Store.above lo (Store.del m k) = true
  | [], _ => rfl
  | (a, v) :: t, hm => by
    simp only [Store.above, Bool.and_eq_true, decide_eq_true_eq] at hm
    simp only [Store.del]
    split
    · exact Store.above_mono (by omega) hm.2
    · split
      · simp [Store.above, hm]
      · simp only [Store.above, Bool.and_eq_true, decide_eq_true_eq]
        exact ⟨hm.1, Store.del_above hm.2⟩

theorem Store.ins_above {lo k : Nat} {v : β} (hk : lo < k) :
    ∀ {m : Store β}, Store.above lo m = true → Store.above lo (Store.ins m k v) = true
  | [], _ => by simp [Store.ins, Store.above, hk]
  | (a, w) :: t, hm => by
    simp only [Store.above, Bool.and_eq_true, decide_eq_true_eq] at hm
    simp only [Store.ins]
    split
    · rename_i h; subst h
      simp [Store.above, hm]
    · split
      · simp [Store.above, hm.2, *]
      · simp only [Store.above, Bool.and_eq_true, decide_eq_true_eq]
        exact ⟨hm.1, Store.ins_above (by omega) hm.2⟩

theorem Store.sorted_del {k : Nat} : ∀ {m : Store β}, Store.sorted m = true → Store.sorted (Store.del m k) = true
  | [], _ => rfl
  | (a, v) :: t, hm => by
    simp only [Store.del]
    split
    · exact Store.sorted_of_above hm
    · split
      · exact hm
      · exact Store.del_above (m := t) hm

theorem Store.sorted_ins {k : Nat} {v : β} : ∀ {m : Store β}, Store.sorted m = true → Store.sorted (Store.ins m k v) = true
  | [], _ => rfl
  | (a, w) :: t, hm => by
    simp only [Store.ins]
    split
    · rename_i h; subst h; exact hm
    · split
      · rename_i h; simp only [Store.sorted, Store.above, Bool.and_eq_true, decide_eq_true_eq]; exact ⟨h, hm⟩
      · exact Store.ins_above (m := t) (by omega) hm

/-- A filter keeps the order of keys. -/
theorem Store.above_filter (q : Nat × β → Bool) {lo : Nat} : ∀ {m : Store β}, Store.above lo m = true →
    Store.above lo (m.filter q) = true
  | [], _ => rfl
  | (a, v) :: t, hm => by
    simp only [Store.above, Bool.and_eq_true, decide_eq_true_eq] at hm
    simp only [List.filter]
    split
    · simp only [Store.above, Bool.and_eq_true, decide_eq_true_eq]
      exact ⟨hm.1, Store.above_filter q hm.2⟩
    · exact Store.above_mono (by omega) (Store.above_filter q hm.2)

theorem Store.sorted_filter (q : Nat × β → Bool) : ∀ {m : Store β}, Store.sorted m = true → Store.sorted (m.filter q) = true
  | [], _ => rfl
  | (a, v) :: t, hm => by
    simp only [List.filter]
    split
    · exact Store.above_filter q (m := t) hm
    · exact Store.sorted_of_above (Store.above_filter q (m := t) hm)

theorem Store.sorted_clear {m : Store β} (lo hi : Nat) (h : Store.sorted m = true) : Store.sorted (m.clear lo hi) = true :=
  Store.sorted_filter _ h

/-- A map that keeps each key keeps the order. -/
theorem Store.above_map {γ : Type} (f : Nat × β → Nat × γ) (hf : ∀ x, (f x).1 = x.1) {lo : Nat} : ∀ {m : Store β},
    Store.above lo m = true → Store.above lo (m.map f) = true
  | [], _ => rfl
  | (a, v) :: t, hm => by
    have ha : (f (a, v)).1 = a := hf (a, v)
    simp only [Store.above, Bool.and_eq_true, decide_eq_true_eq] at hm
    simp only [List.map_cons, Store.above, Bool.and_eq_true, decide_eq_true_eq, ha]
    exact ⟨hm.1, Store.above_map f hf hm.2⟩

theorem Store.sorted_map {γ : Type} (f : Nat × β → Nat × γ) (hf : ∀ x, (f x).1 = x.1) {m : Store β}
    (h : Store.sorted m = true) : Store.sorted (m.map f) = true := by
  cases m with
  | nil => rfl
  | cons x t =>
    simp only [List.map_cons, Store.sorted, hf]
    exact Store.above_map f hf h

/-! Reads after writes. -/

theorem Store.get_ins_self (d : β) (k : Nat) (v : β) : ∀ m : Store β, Store.get d (Store.ins m k v) k = v
  | [] => by simp [Store.ins, Store.get]
  | (a, w) :: t => by
    simp only [Store.ins]
    split
    · simp [Store.get]
    · split
      · simp [Store.get]
      · simp [Store.get, *, Store.get_ins_self d k v t]

theorem Store.get_del_self (d : β) (k : Nat) : ∀ {m : Store β}, Store.sorted m = true → Store.get d (Store.del m k) k = d
  | [], _ => rfl
  | (a, w) :: t, hm => by
    simp only [Store.del]
    split
    · rename_i h; subst h; exact Store.get_above d (Nat.le_refl _) hm
    · split
      · simp [Store.get, *]
      · simp [Store.get, *, Store.get_del_self d k (Store.sorted_tail hm)]

theorem Store.get_ins_ne (d : β) {k k' : Nat} (v : β) (h : k' ≠ k) : ∀ m : Store β,
    Store.get d (Store.ins m k v) k' = Store.get d m k'
  | [] => by simp [Store.ins, Store.get, Ne.symm h]
  | (a, w) :: t => by
    simp only [Store.ins]
    split
    · rename_i e; subst e; simp [Store.get, Ne.symm h]
    · split
      · rename_i h1 h2
        simp only [Store.get, Ne.symm h, if_false]
        split
        · have : a ≠ k' := by omega
          have : k' < a := by omega
          simp [*]
        · rfl
      · simp only [Store.get, Store.get_ins_ne d v h t]

theorem Store.get_del_ne (d : β) {k k' : Nat} (h : k' ≠ k) : ∀ {m : Store β}, Store.sorted m = true →
    Store.get d (Store.del m k) k' = Store.get d m k'
  | [], _ => rfl
  | (a, w) :: t, hm => by
    simp only [Store.del]
    split
    · rename_i e; subst e
      simp only [Store.get, Ne.symm h, if_false]
      split
      · exact Store.get_above d (by omega) hm
      · rfl
    · split
      · rfl
      · simp only [Store.get, Store.get_del_ne d h (Store.sorted_tail hm)]

theorem Store.mem_del {x : Nat × β} {k : Nat} : ∀ {m : Store β}, x ∈ Store.del m k → x ∈ m
  | [], h => h
  | (a, w) :: t, h => by
    simp only [Store.del] at h
    split at h
    · exact List.mem_cons_of_mem _ h
    · split at h
      · exact h
      · rcases List.mem_cons.mp h with h | h
        · rw [h]; exact List.mem_cons_self
        · exact List.mem_cons_of_mem _ (Store.mem_del h)

theorem Store.mem_ins {x : Nat × β} {k : Nat} {v : β} : ∀ {m : Store β}, x ∈ Store.ins m k v → x = (k, v) ∨ x ∈ m
  | [], h => by simp [Store.ins] at h; exact .inl h
  | (a, w) :: t, h => by
    simp only [Store.ins] at h
    split at h
    · rcases List.mem_cons.mp h with h | h
      · exact .inl h
      · exact .inr (List.mem_cons_of_mem _ h)
    · split at h
      · rcases List.mem_cons.mp h with h | h
        · exact .inl h
        · exact .inr h
      · rcases List.mem_cons.mp h with h | h
        · rw [h]; exact .inr List.mem_cons_self
        · rcases Store.mem_ins h with h | h
          · exact .inl h
          · exact .inr (List.mem_cons_of_mem _ h)

/-- A listed key lies above the bound. -/
theorem Store.lt_of_mem {a : Nat} {x : Nat × β} : ∀ {m : Store β}, Store.above a m = true → x ∈ m → a < x.1
  | (b, w) :: t, hs, h => by
    simp only [Store.above, Bool.and_eq_true, decide_eq_true_eq] at hs
    rcases List.mem_cons.mp h with h | h
    · subst h; exact hs.1
    · exact Nat.lt_trans hs.1 (Store.lt_of_mem hs.2 h)

/-- A listed entry is what its key reads as. -/
theorem Store.get_of_mem (d : β) {x : Nat × β} : ∀ {m : Store β}, Store.sorted m = true → x ∈ m → Store.get d m x.1 = x.2
  | [], _, h => by cases h
  | (a, w) :: t, hs, h => by
    rcases List.mem_cons.mp h with h | h
    · subst h; simp [Store.get]
    · have hx : a < x.1 := Store.lt_of_mem hs h
      have h1 : a ≠ x.1 := by omega
      have h2 : ¬ x.1 < a := by omega
      simp [Store.get, h1, h2, Store.get_of_mem d (Store.sorted_tail hs) h]

section
variable [DecidableEq β]

theorem Store.sorted_set (d : β) {m : Store β} (k : Nat) (v : β) (h : Store.sorted m = true) :
    Store.sorted (Store.set d m k v) = true := by
  unfold Store.set; split
  · exact Store.sorted_del h
  · exact Store.sorted_ins h

/-- A read after a write to the same key gives the value written. -/
theorem Store.get_set_self (d : β) {m : Store β} (k : Nat) (v : β) (h : Store.sorted m = true) :
    Store.get d (Store.set d m k v) k = v := by
  unfold Store.set; split
  · rename_i e; rw [e]; exact Store.get_del_self d k h
  · exact Store.get_ins_self d k v m

/-- A write leaves every other key alone, whatever an unlisted key is taken to read as. -/
theorem Store.get_set_ne' (d d' : β) {m : Store β} {k k' : Nat} (v : β) (h : Store.sorted m = true) (hk : k' ≠ k) :
    Store.get d' (Store.set d m k v) k' = Store.get d' m k' := by
  unfold Store.set; split
  · exact Store.get_del_ne d' hk h
  · exact Store.get_ins_ne d' v hk m

theorem Store.get_set_ne (d : β) {m : Store β} {k k' : Nat} (v : β) (h : Store.sorted m = true) (hk : k' ≠ k) :
    Store.get d (Store.set d m k v) k' = Store.get d m k' := Store.get_set_ne' d d v h hk

theorem Store.get_set (d : β) {m : Store β} (k k' : Nat) (v : β) (h : Store.sorted m = true) :
    Store.get d (Store.set d m k v) k' = if k' = k then v else Store.get d m k' := by
  split
  · rename_i e; rw [e]; exact Store.get_set_self d k v h
  · rename_i e; exact Store.get_set_ne d v h e

/-- What is listed after a write: the new entry, or an old one. -/
theorem Store.mem_set {d : β} {x : Nat × β} {k : Nat} {v : β} {m : Store β} (h : x ∈ Store.set d m k v) :
    (x = (k, v) ∧ v ≠ d) ∨ x ∈ m := by
  unfold Store.set at h
  split at h
  · exact .inr (Store.mem_del h)
  · rename_i e
    rcases Store.mem_ins h with h | h
    · exact .inl ⟨h, e⟩
    · exact .inr h

/-- A write keeps the canonical form. -/
theorem Store.wf_set {d : β} {m : Store β} (k : Nat) (v : β) (h : Store.wf d m = true) : Store.wf d (Store.set d m k v) = true := by
  simp only [Store.wf, Bool.and_eq_true, List.all_eq_true, decide_eq_true_eq] at h ⊢
  refine ⟨Store.sorted_set d k v h.1, fun x hx => ?_⟩
  rcases Store.mem_set hx with ⟨rfl, hv⟩ | hm
  · exact hv
  · exact h.2 x hm

theorem Store.wf_filter {d : β} {m : Store β} (q : Nat × β → Bool) (h : Store.wf d m = true) : Store.wf d (m.filter q) = true := by
  simp only [Store.wf, Bool.and_eq_true, List.all_eq_true, decide_eq_true_eq] at h ⊢
  exact ⟨Store.sorted_filter q h.1, fun x hx => h.2 x (List.mem_filter.mp hx).1⟩

theorem Store.wf_clear {d : β} {m : Store β} (lo hi : Nat) (h : Store.wf d m = true) : Store.wf d (m.clear lo hi) = true :=
  Store.wf_filter _ h

theorem Store.wf_nil (d : β) : Store.wf d ([] : Store β) = true := rfl

theorem Store.sorted_of_wf {d : β} {m : Store β} (h : Store.wf d m = true) : Store.sorted m = true := by
  simp only [Store.wf, Bool.and_eq_true] at h; exact h.1

end

end Sys2Proof.Machine
end

