-- ==== Sys2Proof/Laws/Bits.lean ====
section
/-! SUPPORT. Bit fields: what a field reads as after a write to it, to another field, to another register. -/

namespace Sys2Proof.Machine

/-- A bit of a word whose field was replaced. -/
theorem getLsbD_setBits {n : Nat} (w : BitVec n) {hi lo v i : Nat} (hl : lo ≤ hi) (hi' : i < n) :
    (setBits w hi lo v).getLsbD i = if lo ≤ i ∧ i ≤ hi then v.testBit (i - lo) else w.getLsbD i := by
  simp only [setBits, BitVec.getLsbD_or, BitVec.getLsbD_and, BitVec.getLsbD_not, BitVec.getLsbD_ofNat, hi', decide_true,
    Bool.true_and, Nat.testBit_shiftLeft, Nat.testBit_two_pow_sub_one]
  by_cases h1 : lo ≤ i
  · by_cases h2 : i ≤ hi
    · have h3 : i - lo < hi + 1 - lo := by omega
      simp [h1, h2, h3]
    · have h3 : ¬ i - lo < hi + 1 - lo := by omega
      simp [h1, h2, h3]
  · simp [h1]

/-- A bit of a field. -/
theorem testBit_bits {n : Nat} (w : BitVec n) (hi lo i : Nat) :
    (bits w hi lo).testBit i = (decide (i < hi + 1 - lo) && w.getLsbD (lo + i)) := by
  simp only [bits, Nat.testBit_mod_two_pow, Nat.testBit_shiftRight, BitVec.testBit_toNat]

/-- A field reads back what was written to it, cut to its width. -/
theorem bits_setBits_self {n : Nat} (w : BitVec n) {hi lo : Nat} (v : Nat) (hl : lo ≤ hi) (hn : hi < n) :
    bits (setBits w hi lo v) hi lo = v % 2 ^ (hi + 1 - lo) := by
  apply Nat.eq_of_testBit_eq
  intro i
  rw [testBit_bits, Nat.testBit_mod_two_pow]
  by_cases h : i < hi + 1 - lo
  · rw [getLsbD_setBits w hl (by omega)]
    have h1 : lo ≤ lo + i ∧ lo + i ≤ hi := by omega
    simp [h, h1]
  · simp [h]

/-- A field keeps its value when a field apart from it is written. -/
theorem bits_setBits_apart {n : Nat} (w : BitVec n) {hi lo hi' lo' : Nat} (v : Nat) (hl : lo ≤ hi) (hn : hi' < n)
    (h : hi < lo' ∨ hi' < lo) : bits (setBits w hi lo v) hi' lo' = bits w hi' lo' := by
  apply Nat.eq_of_testBit_eq
  intro i
  rw [testBit_bits, testBit_bits]
  by_cases h1 : i < hi' + 1 - lo'
  · rw [getLsbD_setBits w hl (by omega)]
    have h2 : ¬ (lo ≤ lo' + i ∧ lo' + i ≤ hi) := by omega
    simp [h2]
  · simp [h1]

/-- A field of a register reads back what was written to it. -/
theorem State.getF_setF_self {s : State} (d : Nat) (f : Fld) (v : Nat) (hs : Store.sorted s.regs = true) (hl : f.lo ≤ f.hi)
    (hn : f.hi < 32) : (s.setF d f v).getF d f = v % 2 ^ (f.hi + 1 - f.lo) := by
  have : (s.setF d f v).reg d f.off = setBits (s.reg d f.off) f.hi f.lo v := Store.get_set_self _ _ _ hs
  unfold State.getF
  rw [this]
  exact bits_setBits_self _ _ hl hn

/-- A write of one register leaves the fields of the others alone. -/
theorem State.getF_setReg_ne {s : State} {d off d' : Nat} {f : Fld} (v : Word) (hs : Store.sorted s.regs = true)
    (hk : regKey d' f.off ≠ regKey d off) : (s.setReg d off v).getF d' f = s.getF d' f := by
  have : (s.setReg d off v).reg d' f.off = s.reg d' f.off := Store.get_set_ne' _ _ _ hs hk
  unfold State.getF
  rw [this]

theorem State.getF_setF_ne {s : State} {d d' : Nat} {f g : Fld} (v : Nat) (hs : Store.sorted s.regs = true)
    (hk : regKey d' g.off ≠ regKey d f.off) : (s.setF d f v).getF d' g = s.getF d' g :=
  State.getF_setReg_ne _ hs hk

/-- A write of one field leaves the fields apart from it alone. -/
theorem State.getF_setF_apart {s : State} {d : Nat} {f g : Fld} (v : Nat) (hs : Store.sorted s.regs = true)
    (ho : g.off = f.off) (hl : f.lo ≤ f.hi) (hn : g.hi < 32) (h : f.hi < g.lo ∨ g.hi < f.lo) :
    (s.setF d f v).getF d g = s.getF d g := by
  have : (s.setF d f v).reg d f.off = setBits (s.reg d f.off) f.hi f.lo v := Store.get_set_self _ _ _ hs
  unfold State.getF
  rw [ho, this]
  exact bits_setBits_apart _ _ hl hn h

/-- The control dies show one value of a shared register (R27). -/
theorem State.reg_twin (s : State) {off : Nat} (h : twinShared off = true) : s.reg 19 off = s.reg 18 off := by
  simp [State.reg, regKey, regHome, h]

end Sys2Proof.Machine
end

