-- ==== Sys2Proof/Laws/State.lean ====
section
/-! SUPPORT. What each update of State leaves: one lemma for each field that it does not change. -/

namespace Sys2Proof.Machine

variable (s : State)

/-! setReg -/

@[simp] theorem State.setReg_pending (d off : Nat) (v : Word) : (s.setReg d off v).pending = s.pending := rfl
@[simp] theorem State.setReg_fresh (d off : Nat) (v : Word) : (s.setReg d off v).fresh = s.fresh := rfl
@[simp] theorem State.setReg_now (d off : Nat) (v : Word) : (s.setReg d off v).now = s.now := rfl
@[simp] theorem State.setReg_counters (d off : Nat) (v : Word) : (s.setReg d off v).counters = s.counters := rfl
@[simp] theorem State.setReg_holds (d off : Nat) (v : Word) : (s.setReg d off v).holds = s.holds := rfl
@[simp] theorem State.setReg_mem (d off : Nat) (v : Word) : (s.setReg d off v).mem = s.mem := rfl
@[simp] theorem State.setReg_acc (d off : Nat) (v : Word) : (s.setReg d off v).acc = s.acc := rfl
@[simp] theorem State.setReg_ecc (d off : Nat) (v : Word) : (s.setReg d off v).ecc = s.ecc := rfl
@[simp] theorem State.setReg_inv (d off : Nat) (v : Word) : (s.setReg d off v).inv = s.inv := rfl
@[simp] theorem State.setReg_outbox (d off : Nat) (v : Word) : (s.setReg d off v).outbox = s.outbox := rfl
@[simp] theorem State.setReg_sprigs (d off : Nat) (v : Word) : (s.setReg d off v).sprigs = s.sprigs := rfl
@[simp] theorem State.setReg_engines (d off : Nat) (v : Word) : (s.setReg d off v).engines = s.engines := rfl
@[simp] theorem State.setReg_fwInbox (d off : Nat) (v : Word) : (s.setReg d off v).fwInbox = s.fwInbox := rfl
@[simp] theorem State.setReg_supIrq (d off : Nat) (v : Word) : (s.setReg d off v).supIrq = s.supIrq := rfl
@[simp] theorem State.setReg_parts (d off : Nat) (v : Word) : (s.setReg d off v).parts = s.parts := rfl
@[simp] theorem State.setReg_unprotected (d off : Nat) (v : Word) : (s.setReg d off v).unprotected = s.unprotected := rfl
@[simp] theorem State.setReg_deltas (d off : Nat) (v : Word) : (s.setReg d off v).deltas = s.deltas := rfl
@[simp] theorem State.setReg_chvSeen (d off : Nat) (v : Word) : (s.setReg d off v).chvSeen = s.chvSeen := rfl
@[simp] theorem State.setReg_ortho (d off : Nat) (v : Word) : (s.setReg d off v).ortho = s.ortho := rfl
@[simp] theorem State.setReg_embPois (d off : Nat) (v : Word) : (s.setReg d off v).embPois = s.embPois := rfl
@[simp] theorem State.setReg_repair (d off : Nat) (v : Word) : (s.setReg d off v).repair = s.repair := rfl
@[simp] theorem State.setReg_wires (d off : Nat) (v : Word) : (s.setReg d off v).wires = s.wires := rfl
@[simp] theorem State.setReg_retired (d off : Nat) (v : Word) : (s.setReg d off v).retired = s.retired := rfl
@[simp] theorem State.setReg_lostDies (d off : Nat) (v : Word) : (s.setReg d off v).lostDies = s.lostDies := rfl
@[simp] theorem State.setReg_lostMods (d off : Nat) (v : Word) : (s.setReg d off v).lostMods = s.lostMods := rfl
@[simp] theorem State.setReg_detours (d off : Nat) (v : Word) : (s.setReg d off v).detours = s.detours := rfl
@[simp] theorem State.setReg_job (d off : Nat) (v : Word) : (s.setReg d off v).job = s.job := rfl
@[simp] theorem State.setReg_cache (d off : Nat) (v : Word) : (s.setReg d off v).cache = s.cache := rfl
@[simp] theorem State.setReg_cacheClock (d off : Nat) (v : Word) : (s.setReg d off v).cacheClock = s.cacheClock := rfl
@[simp] theorem State.setReg_barriers (d off : Nat) (v : Word) : (s.setReg d off v).barriers = s.barriers := rfl
@[simp] theorem State.setReg_chans (d off : Nat) (v : Word) : (s.setReg d off v).chans = s.chans := rfl
@[simp] theorem State.setReg_evMask (d off : Nat) (v : Word) : (s.setReg d off v).evMask = s.evMask := rfl
@[simp] theorem State.setReg_longs (d off : Nat) (v : Word) : (s.setReg d off v).longs = s.longs := rfl
@[simp] theorem State.setReg_nextTag (d off : Nat) (v : Word) : (s.setReg d off v).nextTag = s.nextTag := rfl
@[simp] theorem State.setReg_msix (d off : Nat) (v : Word) : (s.setReg d off v).msix = s.msix := rfl
@[simp] theorem State.setReg_d3 (d off : Nat) (v : Word) : (s.setReg d off v).d3 = s.d3 := rfl
@[simp] theorem State.setReg_journal (d off : Nat) (v : Word) : (s.setReg d off v).journal = s.journal := rfl
@[simp] theorem State.setReg_banks (d off : Nat) (v : Word) : (s.setReg d off v).banks = s.banks := rfl
@[simp] theorem State.setReg_gov (d off : Nat) (v : Word) : (s.setReg d off v).gov = s.gov := rfl
@[simp] theorem State.setReg_stop (d off : Nat) (v : Word) : (s.setReg d off v).stop = s.stop := rfl
@[simp] theorem State.setReg_edge (d off : Nat) (v : Word) : (s.setReg d off v).edge = s.edge := rfl

/-! setF -/

@[simp] theorem State.setF_pending (d : Nat) (f : Fld) (v : Nat) : (s.setF d f v).pending = s.pending := rfl
@[simp] theorem State.setF_fresh (d : Nat) (f : Fld) (v : Nat) : (s.setF d f v).fresh = s.fresh := rfl
@[simp] theorem State.setF_now (d : Nat) (f : Fld) (v : Nat) : (s.setF d f v).now = s.now := rfl
@[simp] theorem State.setF_counters (d : Nat) (f : Fld) (v : Nat) : (s.setF d f v).counters = s.counters := rfl
@[simp] theorem State.setF_holds (d : Nat) (f : Fld) (v : Nat) : (s.setF d f v).holds = s.holds := rfl
@[simp] theorem State.setF_mem (d : Nat) (f : Fld) (v : Nat) : (s.setF d f v).mem = s.mem := rfl
@[simp] theorem State.setF_acc (d : Nat) (f : Fld) (v : Nat) : (s.setF d f v).acc = s.acc := rfl
@[simp] theorem State.setF_ecc (d : Nat) (f : Fld) (v : Nat) : (s.setF d f v).ecc = s.ecc := rfl
@[simp] theorem State.setF_inv (d : Nat) (f : Fld) (v : Nat) : (s.setF d f v).inv = s.inv := rfl
@[simp] theorem State.setF_outbox (d : Nat) (f : Fld) (v : Nat) : (s.setF d f v).outbox = s.outbox := rfl
@[simp] theorem State.setF_sprigs (d : Nat) (f : Fld) (v : Nat) : (s.setF d f v).sprigs = s.sprigs := rfl
@[simp] theorem State.setF_engines (d : Nat) (f : Fld) (v : Nat) : (s.setF d f v).engines = s.engines := rfl
@[simp] theorem State.setF_fwInbox (d : Nat) (f : Fld) (v : Nat) : (s.setF d f v).fwInbox = s.fwInbox := rfl
@[simp] theorem State.setF_supIrq (d : Nat) (f : Fld) (v : Nat) : (s.setF d f v).supIrq = s.supIrq := rfl
@[simp] theorem State.setF_parts (d : Nat) (f : Fld) (v : Nat) : (s.setF d f v).parts = s.parts := rfl
@[simp] theorem State.setF_unprotected (d : Nat) (f : Fld) (v : Nat) : (s.setF d f v).unprotected = s.unprotected := rfl
@[simp] theorem State.setF_deltas (d : Nat) (f : Fld) (v : Nat) : (s.setF d f v).deltas = s.deltas := rfl
@[simp] theorem State.setF_chvSeen (d : Nat) (f : Fld) (v : Nat) : (s.setF d f v).chvSeen = s.chvSeen := rfl
@[simp] theorem State.setF_ortho (d : Nat) (f : Fld) (v : Nat) : (s.setF d f v).ortho = s.ortho := rfl
@[simp] theorem State.setF_embPois (d : Nat) (f : Fld) (v : Nat) : (s.setF d f v).embPois = s.embPois := rfl
@[simp] theorem State.setF_repair (d : Nat) (f : Fld) (v : Nat) : (s.setF d f v).repair = s.repair := rfl
@[simp] theorem State.setF_wires (d : Nat) (f : Fld) (v : Nat) : (s.setF d f v).wires = s.wires := rfl
@[simp] theorem State.setF_retired (d : Nat) (f : Fld) (v : Nat) : (s.setF d f v).retired = s.retired := rfl
@[simp] theorem State.setF_lostDies (d : Nat) (f : Fld) (v : Nat) : (s.setF d f v).lostDies = s.lostDies := rfl
@[simp] theorem State.setF_lostMods (d : Nat) (f : Fld) (v : Nat) : (s.setF d f v).lostMods = s.lostMods := rfl
@[simp] theorem State.setF_detours (d : Nat) (f : Fld) (v : Nat) : (s.setF d f v).detours = s.detours := rfl
@[simp] theorem State.setF_job (d : Nat) (f : Fld) (v : Nat) : (s.setF d f v).job = s.job := rfl
@[simp] theorem State.setF_cache (d : Nat) (f : Fld) (v : Nat) : (s.setF d f v).cache = s.cache := rfl
@[simp] theorem State.setF_cacheClock (d : Nat) (f : Fld) (v : Nat) : (s.setF d f v).cacheClock = s.cacheClock := rfl
@[simp] theorem State.setF_barriers (d : Nat) (f : Fld) (v : Nat) : (s.setF d f v).barriers = s.barriers := rfl
@[simp] theorem State.setF_chans (d : Nat) (f : Fld) (v : Nat) : (s.setF d f v).chans = s.chans := rfl
@[simp] theorem State.setF_evMask (d : Nat) (f : Fld) (v : Nat) : (s.setF d f v).evMask = s.evMask := rfl
@[simp] theorem State.setF_longs (d : Nat) (f : Fld) (v : Nat) : (s.setF d f v).longs = s.longs := rfl
@[simp] theorem State.setF_nextTag (d : Nat) (f : Fld) (v : Nat) : (s.setF d f v).nextTag = s.nextTag := rfl
@[simp] theorem State.setF_msix (d : Nat) (f : Fld) (v : Nat) : (s.setF d f v).msix = s.msix := rfl
@[simp] theorem State.setF_d3 (d : Nat) (f : Fld) (v : Nat) : (s.setF d f v).d3 = s.d3 := rfl
@[simp] theorem State.setF_journal (d : Nat) (f : Fld) (v : Nat) : (s.setF d f v).journal = s.journal := rfl
@[simp] theorem State.setF_banks (d : Nat) (f : Fld) (v : Nat) : (s.setF d f v).banks = s.banks := rfl
@[simp] theorem State.setF_gov (d : Nat) (f : Fld) (v : Nat) : (s.setF d f v).gov = s.gov := rfl
@[simp] theorem State.setF_stop (d : Nat) (f : Fld) (v : Nat) : (s.setF d f v).stop = s.stop := rfl
@[simp] theorem State.setF_edge (d : Nat) (f : Fld) (v : Nat) : (s.setF d f v).edge = s.edge := rfl

/-! setCtr -/

@[simp] theorem State.setCtr_pending (d off : Nat) (v : BitVec 64) : (s.setCtr d off v).pending = s.pending := rfl
@[simp] theorem State.setCtr_fresh (d off : Nat) (v : BitVec 64) : (s.setCtr d off v).fresh = s.fresh := rfl
@[simp] theorem State.setCtr_now (d off : Nat) (v : BitVec 64) : (s.setCtr d off v).now = s.now := rfl
@[simp] theorem State.setCtr_regs (d off : Nat) (v : BitVec 64) : (s.setCtr d off v).regs = s.regs := rfl
@[simp] theorem State.setCtr_holds (d off : Nat) (v : BitVec 64) : (s.setCtr d off v).holds = s.holds := rfl
@[simp] theorem State.setCtr_mem (d off : Nat) (v : BitVec 64) : (s.setCtr d off v).mem = s.mem := rfl
@[simp] theorem State.setCtr_acc (d off : Nat) (v : BitVec 64) : (s.setCtr d off v).acc = s.acc := rfl
@[simp] theorem State.setCtr_ecc (d off : Nat) (v : BitVec 64) : (s.setCtr d off v).ecc = s.ecc := rfl
@[simp] theorem State.setCtr_inv (d off : Nat) (v : BitVec 64) : (s.setCtr d off v).inv = s.inv := rfl
@[simp] theorem State.setCtr_outbox (d off : Nat) (v : BitVec 64) : (s.setCtr d off v).outbox = s.outbox := rfl
@[simp] theorem State.setCtr_sprigs (d off : Nat) (v : BitVec 64) : (s.setCtr d off v).sprigs = s.sprigs := rfl
@[simp] theorem State.setCtr_engines (d off : Nat) (v : BitVec 64) : (s.setCtr d off v).engines = s.engines := rfl
@[simp] theorem State.setCtr_fwInbox (d off : Nat) (v : BitVec 64) : (s.setCtr d off v).fwInbox = s.fwInbox := rfl
@[simp] theorem State.setCtr_supIrq (d off : Nat) (v : BitVec 64) : (s.setCtr d off v).supIrq = s.supIrq := rfl
@[simp] theorem State.setCtr_parts (d off : Nat) (v : BitVec 64) : (s.setCtr d off v).parts = s.parts := rfl
@[simp] theorem State.setCtr_unprotected (d off : Nat) (v : BitVec 64) : (s.setCtr d off v).unprotected = s.unprotected := rfl
@[simp] theorem State.setCtr_deltas (d off : Nat) (v : BitVec 64) : (s.setCtr d off v).deltas = s.deltas := rfl
@[simp] theorem State.setCtr_chvSeen (d off : Nat) (v : BitVec 64) : (s.setCtr d off v).chvSeen = s.chvSeen := rfl
@[simp] theorem State.setCtr_ortho (d off : Nat) (v : BitVec 64) : (s.setCtr d off v).ortho = s.ortho := rfl
@[simp] theorem State.setCtr_embPois (d off : Nat) (v : BitVec 64) : (s.setCtr d off v).embPois = s.embPois := rfl
@[simp] theorem State.setCtr_repair (d off : Nat) (v : BitVec 64) : (s.setCtr d off v).repair = s.repair := rfl
@[simp] theorem State.setCtr_wires (d off : Nat) (v : BitVec 64) : (s.setCtr d off v).wires = s.wires := rfl
@[simp] theorem State.setCtr_retired (d off : Nat) (v : BitVec 64) : (s.setCtr d off v).retired = s.retired := rfl
@[simp] theorem State.setCtr_lostDies (d off : Nat) (v : BitVec 64) : (s.setCtr d off v).lostDies = s.lostDies := rfl
@[simp] theorem State.setCtr_lostMods (d off : Nat) (v : BitVec 64) : (s.setCtr d off v).lostMods = s.lostMods := rfl
@[simp] theorem State.setCtr_detours (d off : Nat) (v : BitVec 64) : (s.setCtr d off v).detours = s.detours := rfl
@[simp] theorem State.setCtr_job (d off : Nat) (v : BitVec 64) : (s.setCtr d off v).job = s.job := rfl
@[simp] theorem State.setCtr_cache (d off : Nat) (v : BitVec 64) : (s.setCtr d off v).cache = s.cache := rfl
@[simp] theorem State.setCtr_cacheClock (d off : Nat) (v : BitVec 64) : (s.setCtr d off v).cacheClock = s.cacheClock := rfl
@[simp] theorem State.setCtr_barriers (d off : Nat) (v : BitVec 64) : (s.setCtr d off v).barriers = s.barriers := rfl
@[simp] theorem State.setCtr_chans (d off : Nat) (v : BitVec 64) : (s.setCtr d off v).chans = s.chans := rfl
@[simp] theorem State.setCtr_evMask (d off : Nat) (v : BitVec 64) : (s.setCtr d off v).evMask = s.evMask := rfl
@[simp] theorem State.setCtr_longs (d off : Nat) (v : BitVec 64) : (s.setCtr d off v).longs = s.longs := rfl
@[simp] theorem State.setCtr_nextTag (d off : Nat) (v : BitVec 64) : (s.setCtr d off v).nextTag = s.nextTag := rfl
@[simp] theorem State.setCtr_msix (d off : Nat) (v : BitVec 64) : (s.setCtr d off v).msix = s.msix := rfl
@[simp] theorem State.setCtr_d3 (d off : Nat) (v : BitVec 64) : (s.setCtr d off v).d3 = s.d3 := rfl
@[simp] theorem State.setCtr_journal (d off : Nat) (v : BitVec 64) : (s.setCtr d off v).journal = s.journal := rfl
@[simp] theorem State.setCtr_banks (d off : Nat) (v : BitVec 64) : (s.setCtr d off v).banks = s.banks := rfl
@[simp] theorem State.setCtr_gov (d off : Nat) (v : BitVec 64) : (s.setCtr d off v).gov = s.gov := rfl
@[simp] theorem State.setCtr_stop (d off : Nat) (v : BitVec 64) : (s.setCtr d off v).stop = s.stop := rfl
@[simp] theorem State.setCtr_edge (d off : Nat) (v : BitVec 64) : (s.setCtr d off v).edge = s.edge := rfl

/-! count -/

@[simp] theorem State.count_pending (d off n : Nat) : (s.count d off n).pending = s.pending := rfl
@[simp] theorem State.count_fresh (d off n : Nat) : (s.count d off n).fresh = s.fresh := rfl
@[simp] theorem State.count_now (d off n : Nat) : (s.count d off n).now = s.now := rfl
@[simp] theorem State.count_regs (d off n : Nat) : (s.count d off n).regs = s.regs := rfl
@[simp] theorem State.count_holds (d off n : Nat) : (s.count d off n).holds = s.holds := rfl
@[simp] theorem State.count_mem (d off n : Nat) : (s.count d off n).mem = s.mem := rfl
@[simp] theorem State.count_acc (d off n : Nat) : (s.count d off n).acc = s.acc := rfl
@[simp] theorem State.count_ecc (d off n : Nat) : (s.count d off n).ecc = s.ecc := rfl
@[simp] theorem State.count_inv (d off n : Nat) : (s.count d off n).inv = s.inv := rfl
@[simp] theorem State.count_outbox (d off n : Nat) : (s.count d off n).outbox = s.outbox := rfl
@[simp] theorem State.count_sprigs (d off n : Nat) : (s.count d off n).sprigs = s.sprigs := rfl
@[simp] theorem State.count_engines (d off n : Nat) : (s.count d off n).engines = s.engines := rfl
@[simp] theorem State.count_fwInbox (d off n : Nat) : (s.count d off n).fwInbox = s.fwInbox := rfl
@[simp] theorem State.count_supIrq (d off n : Nat) : (s.count d off n).supIrq = s.supIrq := rfl
@[simp] theorem State.count_parts (d off n : Nat) : (s.count d off n).parts = s.parts := rfl
@[simp] theorem State.count_unprotected (d off n : Nat) : (s.count d off n).unprotected = s.unprotected := rfl
@[simp] theorem State.count_deltas (d off n : Nat) : (s.count d off n).deltas = s.deltas := rfl
@[simp] theorem State.count_chvSeen (d off n : Nat) : (s.count d off n).chvSeen = s.chvSeen := rfl
@[simp] theorem State.count_ortho (d off n : Nat) : (s.count d off n).ortho = s.ortho := rfl
@[simp] theorem State.count_embPois (d off n : Nat) : (s.count d off n).embPois = s.embPois := rfl
@[simp] theorem State.count_repair (d off n : Nat) : (s.count d off n).repair = s.repair := rfl
@[simp] theorem State.count_wires (d off n : Nat) : (s.count d off n).wires = s.wires := rfl
@[simp] theorem State.count_retired (d off n : Nat) : (s.count d off n).retired = s.retired := rfl
@[simp] theorem State.count_lostDies (d off n : Nat) : (s.count d off n).lostDies = s.lostDies := rfl
@[simp] theorem State.count_lostMods (d off n : Nat) : (s.count d off n).lostMods = s.lostMods := rfl
@[simp] theorem State.count_detours (d off n : Nat) : (s.count d off n).detours = s.detours := rfl
@[simp] theorem State.count_job (d off n : Nat) : (s.count d off n).job = s.job := rfl
@[simp] theorem State.count_cache (d off n : Nat) : (s.count d off n).cache = s.cache := rfl
@[simp] theorem State.count_cacheClock (d off n : Nat) : (s.count d off n).cacheClock = s.cacheClock := rfl
@[simp] theorem State.count_barriers (d off n : Nat) : (s.count d off n).barriers = s.barriers := rfl
@[simp] theorem State.count_chans (d off n : Nat) : (s.count d off n).chans = s.chans := rfl
@[simp] theorem State.count_evMask (d off n : Nat) : (s.count d off n).evMask = s.evMask := rfl
@[simp] theorem State.count_longs (d off n : Nat) : (s.count d off n).longs = s.longs := rfl
@[simp] theorem State.count_nextTag (d off n : Nat) : (s.count d off n).nextTag = s.nextTag := rfl
@[simp] theorem State.count_msix (d off n : Nat) : (s.count d off n).msix = s.msix := rfl
@[simp] theorem State.count_d3 (d off n : Nat) : (s.count d off n).d3 = s.d3 := rfl
@[simp] theorem State.count_journal (d off n : Nat) : (s.count d off n).journal = s.journal := rfl
@[simp] theorem State.count_banks (d off n : Nat) : (s.count d off n).banks = s.banks := rfl
@[simp] theorem State.count_gov (d off n : Nat) : (s.count d off n).gov = s.gov := rfl
@[simp] theorem State.count_stop (d off n : Nat) : (s.count d off n).stop = s.stop := rfl
@[simp] theorem State.count_edge (d off n : Nat) : (s.count d off n).edge = s.edge := rfl

/-! countK -/

@[simp] theorem State.countK_pending (k n : Nat) : (s.countK k n).pending = s.pending := rfl
@[simp] theorem State.countK_fresh (k n : Nat) : (s.countK k n).fresh = s.fresh := rfl
@[simp] theorem State.countK_now (k n : Nat) : (s.countK k n).now = s.now := rfl
@[simp] theorem State.countK_regs (k n : Nat) : (s.countK k n).regs = s.regs := rfl
@[simp] theorem State.countK_holds (k n : Nat) : (s.countK k n).holds = s.holds := rfl
@[simp] theorem State.countK_mem (k n : Nat) : (s.countK k n).mem = s.mem := rfl
@[simp] theorem State.countK_acc (k n : Nat) : (s.countK k n).acc = s.acc := rfl
@[simp] theorem State.countK_ecc (k n : Nat) : (s.countK k n).ecc = s.ecc := rfl
@[simp] theorem State.countK_inv (k n : Nat) : (s.countK k n).inv = s.inv := rfl
@[simp] theorem State.countK_outbox (k n : Nat) : (s.countK k n).outbox = s.outbox := rfl
@[simp] theorem State.countK_sprigs (k n : Nat) : (s.countK k n).sprigs = s.sprigs := rfl
@[simp] theorem State.countK_engines (k n : Nat) : (s.countK k n).engines = s.engines := rfl
@[simp] theorem State.countK_fwInbox (k n : Nat) : (s.countK k n).fwInbox = s.fwInbox := rfl
@[simp] theorem State.countK_supIrq (k n : Nat) : (s.countK k n).supIrq = s.supIrq := rfl
@[simp] theorem State.countK_parts (k n : Nat) : (s.countK k n).parts = s.parts := rfl
@[simp] theorem State.countK_unprotected (k n : Nat) : (s.countK k n).unprotected = s.unprotected := rfl
@[simp] theorem State.countK_deltas (k n : Nat) : (s.countK k n).deltas = s.deltas := rfl
@[simp] theorem State.countK_chvSeen (k n : Nat) : (s.countK k n).chvSeen = s.chvSeen := rfl
@[simp] theorem State.countK_ortho (k n : Nat) : (s.countK k n).ortho = s.ortho := rfl
@[simp] theorem State.countK_embPois (k n : Nat) : (s.countK k n).embPois = s.embPois := rfl
@[simp] theorem State.countK_repair (k n : Nat) : (s.countK k n).repair = s.repair := rfl
@[simp] theorem State.countK_wires (k n : Nat) : (s.countK k n).wires = s.wires := rfl
@[simp] theorem State.countK_retired (k n : Nat) : (s.countK k n).retired = s.retired := rfl
@[simp] theorem State.countK_lostDies (k n : Nat) : (s.countK k n).lostDies = s.lostDies := rfl
@[simp] theorem State.countK_lostMods (k n : Nat) : (s.countK k n).lostMods = s.lostMods := rfl
@[simp] theorem State.countK_detours (k n : Nat) : (s.countK k n).detours = s.detours := rfl
@[simp] theorem State.countK_job (k n : Nat) : (s.countK k n).job = s.job := rfl
@[simp] theorem State.countK_cache (k n : Nat) : (s.countK k n).cache = s.cache := rfl
@[simp] theorem State.countK_cacheClock (k n : Nat) : (s.countK k n).cacheClock = s.cacheClock := rfl
@[simp] theorem State.countK_barriers (k n : Nat) : (s.countK k n).barriers = s.barriers := rfl
@[simp] theorem State.countK_chans (k n : Nat) : (s.countK k n).chans = s.chans := rfl
@[simp] theorem State.countK_evMask (k n : Nat) : (s.countK k n).evMask = s.evMask := rfl
@[simp] theorem State.countK_longs (k n : Nat) : (s.countK k n).longs = s.longs := rfl
@[simp] theorem State.countK_nextTag (k n : Nat) : (s.countK k n).nextTag = s.nextTag := rfl
@[simp] theorem State.countK_msix (k n : Nat) : (s.countK k n).msix = s.msix := rfl
@[simp] theorem State.countK_d3 (k n : Nat) : (s.countK k n).d3 = s.d3 := rfl
@[simp] theorem State.countK_journal (k n : Nat) : (s.countK k n).journal = s.journal := rfl
@[simp] theorem State.countK_banks (k n : Nat) : (s.countK k n).banks = s.banks := rfl
@[simp] theorem State.countK_gov (k n : Nat) : (s.countK k n).gov = s.gov := rfl
@[simp] theorem State.countK_stop (k n : Nat) : (s.countK k n).stop = s.stop := rfl
@[simp] theorem State.countK_edge (k n : Nat) : (s.countK k n).edge = s.edge := rfl

/-! resetRegs -/

@[simp] theorem State.resetRegs_pending (d lo hi : Nat) : (s.resetRegs d lo hi).pending = s.pending := rfl
@[simp] theorem State.resetRegs_fresh (d lo hi : Nat) : (s.resetRegs d lo hi).fresh = s.fresh := rfl
@[simp] theorem State.resetRegs_now (d lo hi : Nat) : (s.resetRegs d lo hi).now = s.now := rfl
@[simp] theorem State.resetRegs_counters (d lo hi : Nat) : (s.resetRegs d lo hi).counters = s.counters := rfl
@[simp] theorem State.resetRegs_holds (d lo hi : Nat) : (s.resetRegs d lo hi).holds = s.holds := rfl
@[simp] theorem State.resetRegs_mem (d lo hi : Nat) : (s.resetRegs d lo hi).mem = s.mem := rfl
@[simp] theorem State.resetRegs_acc (d lo hi : Nat) : (s.resetRegs d lo hi).acc = s.acc := rfl
@[simp] theorem State.resetRegs_ecc (d lo hi : Nat) : (s.resetRegs d lo hi).ecc = s.ecc := rfl
@[simp] theorem State.resetRegs_inv (d lo hi : Nat) : (s.resetRegs d lo hi).inv = s.inv := rfl
@[simp] theorem State.resetRegs_outbox (d lo hi : Nat) : (s.resetRegs d lo hi).outbox = s.outbox := rfl
@[simp] theorem State.resetRegs_sprigs (d lo hi : Nat) : (s.resetRegs d lo hi).sprigs = s.sprigs := rfl
@[simp] theorem State.resetRegs_engines (d lo hi : Nat) : (s.resetRegs d lo hi).engines = s.engines := rfl
@[simp] theorem State.resetRegs_fwInbox (d lo hi : Nat) : (s.resetRegs d lo hi).fwInbox = s.fwInbox := rfl
@[simp] theorem State.resetRegs_supIrq (d lo hi : Nat) : (s.resetRegs d lo hi).supIrq = s.supIrq := rfl
@[simp] theorem State.resetRegs_parts (d lo hi : Nat) : (s.resetRegs d lo hi).parts = s.parts := rfl
@[simp] theorem State.resetRegs_unprotected (d lo hi : Nat) : (s.resetRegs d lo hi).unprotected = s.unprotected := rfl
@[simp] theorem State.resetRegs_deltas (d lo hi : Nat) : (s.resetRegs d lo hi).deltas = s.deltas := rfl
@[simp] theorem State.resetRegs_chvSeen (d lo hi : Nat) : (s.resetRegs d lo hi).chvSeen = s.chvSeen := rfl
@[simp] theorem State.resetRegs_ortho (d lo hi : Nat) : (s.resetRegs d lo hi).ortho = s.ortho := rfl
@[simp] theorem State.resetRegs_embPois (d lo hi : Nat) : (s.resetRegs d lo hi).embPois = s.embPois := rfl
@[simp] theorem State.resetRegs_repair (d lo hi : Nat) : (s.resetRegs d lo hi).repair = s.repair := rfl
@[simp] theorem State.resetRegs_wires (d lo hi : Nat) : (s.resetRegs d lo hi).wires = s.wires := rfl
@[simp] theorem State.resetRegs_retired (d lo hi : Nat) : (s.resetRegs d lo hi).retired = s.retired := rfl
@[simp] theorem State.resetRegs_lostDies (d lo hi : Nat) : (s.resetRegs d lo hi).lostDies = s.lostDies := rfl
@[simp] theorem State.resetRegs_lostMods (d lo hi : Nat) : (s.resetRegs d lo hi).lostMods = s.lostMods := rfl
@[simp] theorem State.resetRegs_detours (d lo hi : Nat) : (s.resetRegs d lo hi).detours = s.detours := rfl
@[simp] theorem State.resetRegs_job (d lo hi : Nat) : (s.resetRegs d lo hi).job = s.job := rfl
@[simp] theorem State.resetRegs_cache (d lo hi : Nat) : (s.resetRegs d lo hi).cache = s.cache := rfl
@[simp] theorem State.resetRegs_cacheClock (d lo hi : Nat) : (s.resetRegs d lo hi).cacheClock = s.cacheClock := rfl
@[simp] theorem State.resetRegs_barriers (d lo hi : Nat) : (s.resetRegs d lo hi).barriers = s.barriers := rfl
@[simp] theorem State.resetRegs_chans (d lo hi : Nat) : (s.resetRegs d lo hi).chans = s.chans := rfl
@[simp] theorem State.resetRegs_evMask (d lo hi : Nat) : (s.resetRegs d lo hi).evMask = s.evMask := rfl
@[simp] theorem State.resetRegs_longs (d lo hi : Nat) : (s.resetRegs d lo hi).longs = s.longs := rfl
@[simp] theorem State.resetRegs_nextTag (d lo hi : Nat) : (s.resetRegs d lo hi).nextTag = s.nextTag := rfl
@[simp] theorem State.resetRegs_msix (d lo hi : Nat) : (s.resetRegs d lo hi).msix = s.msix := rfl
@[simp] theorem State.resetRegs_d3 (d lo hi : Nat) : (s.resetRegs d lo hi).d3 = s.d3 := rfl
@[simp] theorem State.resetRegs_journal (d lo hi : Nat) : (s.resetRegs d lo hi).journal = s.journal := rfl
@[simp] theorem State.resetRegs_banks (d lo hi : Nat) : (s.resetRegs d lo hi).banks = s.banks := rfl
@[simp] theorem State.resetRegs_gov (d lo hi : Nat) : (s.resetRegs d lo hi).gov = s.gov := rfl
@[simp] theorem State.resetRegs_stop (d lo hi : Nat) : (s.resetRegs d lo hi).stop = s.stop := rfl
@[simp] theorem State.resetRegs_edge (d lo hi : Nat) : (s.resetRegs d lo hi).edge = s.edge := rfl

/-! setSpr -/

@[simp] theorem State.setSpr_pending (d p : Nat) (x : Sprig) : (s.setSpr d p x).pending = s.pending := rfl
@[simp] theorem State.setSpr_fresh (d p : Nat) (x : Sprig) : (s.setSpr d p x).fresh = s.fresh := rfl
@[simp] theorem State.setSpr_now (d p : Nat) (x : Sprig) : (s.setSpr d p x).now = s.now := rfl
@[simp] theorem State.setSpr_regs (d p : Nat) (x : Sprig) : (s.setSpr d p x).regs = s.regs := rfl
@[simp] theorem State.setSpr_counters (d p : Nat) (x : Sprig) : (s.setSpr d p x).counters = s.counters := rfl
@[simp] theorem State.setSpr_holds (d p : Nat) (x : Sprig) : (s.setSpr d p x).holds = s.holds := rfl
@[simp] theorem State.setSpr_mem (d p : Nat) (x : Sprig) : (s.setSpr d p x).mem = s.mem := rfl
@[simp] theorem State.setSpr_acc (d p : Nat) (x : Sprig) : (s.setSpr d p x).acc = s.acc := rfl
@[simp] theorem State.setSpr_ecc (d p : Nat) (x : Sprig) : (s.setSpr d p x).ecc = s.ecc := rfl
@[simp] theorem State.setSpr_inv (d p : Nat) (x : Sprig) : (s.setSpr d p x).inv = s.inv := rfl
@[simp] theorem State.setSpr_outbox (d p : Nat) (x : Sprig) : (s.setSpr d p x).outbox = s.outbox := rfl
@[simp] theorem State.setSpr_engines (d p : Nat) (x : Sprig) : (s.setSpr d p x).engines = s.engines := rfl
@[simp] theorem State.setSpr_fwInbox (d p : Nat) (x : Sprig) : (s.setSpr d p x).fwInbox = s.fwInbox := rfl
@[simp] theorem State.setSpr_supIrq (d p : Nat) (x : Sprig) : (s.setSpr d p x).supIrq = s.supIrq := rfl
@[simp] theorem State.setSpr_parts (d p : Nat) (x : Sprig) : (s.setSpr d p x).parts = s.parts := rfl
@[simp] theorem State.setSpr_unprotected (d p : Nat) (x : Sprig) : (s.setSpr d p x).unprotected = s.unprotected := rfl
@[simp] theorem State.setSpr_deltas (d p : Nat) (x : Sprig) : (s.setSpr d p x).deltas = s.deltas := rfl
@[simp] theorem State.setSpr_chvSeen (d p : Nat) (x : Sprig) : (s.setSpr d p x).chvSeen = s.chvSeen := rfl
@[simp] theorem State.setSpr_ortho (d p : Nat) (x : Sprig) : (s.setSpr d p x).ortho = s.ortho := rfl
@[simp] theorem State.setSpr_embPois (d p : Nat) (x : Sprig) : (s.setSpr d p x).embPois = s.embPois := rfl
@[simp] theorem State.setSpr_repair (d p : Nat) (x : Sprig) : (s.setSpr d p x).repair = s.repair := rfl
@[simp] theorem State.setSpr_wires (d p : Nat) (x : Sprig) : (s.setSpr d p x).wires = s.wires := rfl
@[simp] theorem State.setSpr_retired (d p : Nat) (x : Sprig) : (s.setSpr d p x).retired = s.retired := rfl
@[simp] theorem State.setSpr_lostDies (d p : Nat) (x : Sprig) : (s.setSpr d p x).lostDies = s.lostDies := rfl
@[simp] theorem State.setSpr_lostMods (d p : Nat) (x : Sprig) : (s.setSpr d p x).lostMods = s.lostMods := rfl
@[simp] theorem State.setSpr_detours (d p : Nat) (x : Sprig) : (s.setSpr d p x).detours = s.detours := rfl
@[simp] theorem State.setSpr_job (d p : Nat) (x : Sprig) : (s.setSpr d p x).job = s.job := rfl
@[simp] theorem State.setSpr_cache (d p : Nat) (x : Sprig) : (s.setSpr d p x).cache = s.cache := rfl
@[simp] theorem State.setSpr_cacheClock (d p : Nat) (x : Sprig) : (s.setSpr d p x).cacheClock = s.cacheClock := rfl
@[simp] theorem State.setSpr_barriers (d p : Nat) (x : Sprig) : (s.setSpr d p x).barriers = s.barriers := rfl
@[simp] theorem State.setSpr_chans (d p : Nat) (x : Sprig) : (s.setSpr d p x).chans = s.chans := rfl
@[simp] theorem State.setSpr_evMask (d p : Nat) (x : Sprig) : (s.setSpr d p x).evMask = s.evMask := rfl
@[simp] theorem State.setSpr_longs (d p : Nat) (x : Sprig) : (s.setSpr d p x).longs = s.longs := rfl
@[simp] theorem State.setSpr_nextTag (d p : Nat) (x : Sprig) : (s.setSpr d p x).nextTag = s.nextTag := rfl
@[simp] theorem State.setSpr_msix (d p : Nat) (x : Sprig) : (s.setSpr d p x).msix = s.msix := rfl
@[simp] theorem State.setSpr_d3 (d p : Nat) (x : Sprig) : (s.setSpr d p x).d3 = s.d3 := rfl
@[simp] theorem State.setSpr_journal (d p : Nat) (x : Sprig) : (s.setSpr d p x).journal = s.journal := rfl
@[simp] theorem State.setSpr_banks (d p : Nat) (x : Sprig) : (s.setSpr d p x).banks = s.banks := rfl
@[simp] theorem State.setSpr_gov (d p : Nat) (x : Sprig) : (s.setSpr d p x).gov = s.gov := rfl
@[simp] theorem State.setSpr_stop (d p : Nat) (x : Sprig) : (s.setSpr d p x).stop = s.stop := rfl
@[simp] theorem State.setSpr_edge (d p : Nat) (x : Sprig) : (s.setSpr d p x).edge = s.edge := rfl

/-! modSpr -/

@[simp] theorem State.modSpr_pending (d p : Nat) (f : Sprig → Sprig) : (s.modSpr d p f).pending = s.pending := rfl
@[simp] theorem State.modSpr_fresh (d p : Nat) (f : Sprig → Sprig) : (s.modSpr d p f).fresh = s.fresh := rfl
@[simp] theorem State.modSpr_now (d p : Nat) (f : Sprig → Sprig) : (s.modSpr d p f).now = s.now := rfl
@[simp] theorem State.modSpr_regs (d p : Nat) (f : Sprig → Sprig) : (s.modSpr d p f).regs = s.regs := rfl
@[simp] theorem State.modSpr_counters (d p : Nat) (f : Sprig → Sprig) : (s.modSpr d p f).counters = s.counters := rfl
@[simp] theorem State.modSpr_holds (d p : Nat) (f : Sprig → Sprig) : (s.modSpr d p f).holds = s.holds := rfl
@[simp] theorem State.modSpr_mem (d p : Nat) (f : Sprig → Sprig) : (s.modSpr d p f).mem = s.mem := rfl
@[simp] theorem State.modSpr_acc (d p : Nat) (f : Sprig → Sprig) : (s.modSpr d p f).acc = s.acc := rfl
@[simp] theorem State.modSpr_ecc (d p : Nat) (f : Sprig → Sprig) : (s.modSpr d p f).ecc = s.ecc := rfl
@[simp] theorem State.modSpr_inv (d p : Nat) (f : Sprig → Sprig) : (s.modSpr d p f).inv = s.inv := rfl
@[simp] theorem State.modSpr_outbox (d p : Nat) (f : Sprig → Sprig) : (s.modSpr d p f).outbox = s.outbox := rfl
@[simp] theorem State.modSpr_engines (d p : Nat) (f : Sprig → Sprig) : (s.modSpr d p f).engines = s.engines := rfl
@[simp] theorem State.modSpr_fwInbox (d p : Nat) (f : Sprig → Sprig) : (s.modSpr d p f).fwInbox = s.fwInbox := rfl
@[simp] theorem State.modSpr_supIrq (d p : Nat) (f : Sprig → Sprig) : (s.modSpr d p f).supIrq = s.supIrq := rfl
@[simp] theorem State.modSpr_parts (d p : Nat) (f : Sprig → Sprig) : (s.modSpr d p f).parts = s.parts := rfl
@[simp] theorem State.modSpr_unprotected (d p : Nat) (f : Sprig → Sprig) : (s.modSpr d p f).unprotected = s.unprotected := rfl
@[simp] theorem State.modSpr_deltas (d p : Nat) (f : Sprig → Sprig) : (s.modSpr d p f).deltas = s.deltas := rfl
@[simp] theorem State.modSpr_chvSeen (d p : Nat) (f : Sprig → Sprig) : (s.modSpr d p f).chvSeen = s.chvSeen := rfl
@[simp] theorem State.modSpr_ortho (d p : Nat) (f : Sprig → Sprig) : (s.modSpr d p f).ortho = s.ortho := rfl
@[simp] theorem State.modSpr_embPois (d p : Nat) (f : Sprig → Sprig) : (s.modSpr d p f).embPois = s.embPois := rfl
@[simp] theorem State.modSpr_repair (d p : Nat) (f : Sprig → Sprig) : (s.modSpr d p f).repair = s.repair := rfl
@[simp] theorem State.modSpr_wires (d p : Nat) (f : Sprig → Sprig) : (s.modSpr d p f).wires = s.wires := rfl
@[simp] theorem State.modSpr_retired (d p : Nat) (f : Sprig → Sprig) : (s.modSpr d p f).retired = s.retired := rfl
@[simp] theorem State.modSpr_lostDies (d p : Nat) (f : Sprig → Sprig) : (s.modSpr d p f).lostDies = s.lostDies := rfl
@[simp] theorem State.modSpr_lostMods (d p : Nat) (f : Sprig → Sprig) : (s.modSpr d p f).lostMods = s.lostMods := rfl
@[simp] theorem State.modSpr_detours (d p : Nat) (f : Sprig → Sprig) : (s.modSpr d p f).detours = s.detours := rfl
@[simp] theorem State.modSpr_job (d p : Nat) (f : Sprig → Sprig) : (s.modSpr d p f).job = s.job := rfl
@[simp] theorem State.modSpr_cache (d p : Nat) (f : Sprig → Sprig) : (s.modSpr d p f).cache = s.cache := rfl
@[simp] theorem State.modSpr_cacheClock (d p : Nat) (f : Sprig → Sprig) : (s.modSpr d p f).cacheClock = s.cacheClock := rfl
@[simp] theorem State.modSpr_barriers (d p : Nat) (f : Sprig → Sprig) : (s.modSpr d p f).barriers = s.barriers := rfl
@[simp] theorem State.modSpr_chans (d p : Nat) (f : Sprig → Sprig) : (s.modSpr d p f).chans = s.chans := rfl
@[simp] theorem State.modSpr_evMask (d p : Nat) (f : Sprig → Sprig) : (s.modSpr d p f).evMask = s.evMask := rfl
@[simp] theorem State.modSpr_longs (d p : Nat) (f : Sprig → Sprig) : (s.modSpr d p f).longs = s.longs := rfl
@[simp] theorem State.modSpr_nextTag (d p : Nat) (f : Sprig → Sprig) : (s.modSpr d p f).nextTag = s.nextTag := rfl
@[simp] theorem State.modSpr_msix (d p : Nat) (f : Sprig → Sprig) : (s.modSpr d p f).msix = s.msix := rfl
@[simp] theorem State.modSpr_d3 (d p : Nat) (f : Sprig → Sprig) : (s.modSpr d p f).d3 = s.d3 := rfl
@[simp] theorem State.modSpr_journal (d p : Nat) (f : Sprig → Sprig) : (s.modSpr d p f).journal = s.journal := rfl
@[simp] theorem State.modSpr_banks (d p : Nat) (f : Sprig → Sprig) : (s.modSpr d p f).banks = s.banks := rfl
@[simp] theorem State.modSpr_gov (d p : Nat) (f : Sprig → Sprig) : (s.modSpr d p f).gov = s.gov := rfl
@[simp] theorem State.modSpr_stop (d p : Nat) (f : Sprig → Sprig) : (s.modSpr d p f).stop = s.stop := rfl
@[simp] theorem State.modSpr_edge (d p : Nat) (f : Sprig → Sprig) : (s.modSpr d p f).edge = s.edge := rfl

/-! setArr -/

@[simp] theorem State.setArr_pending (d p a : Nat) (x : Arr) : (s.setArr d p a x).pending = s.pending := rfl
@[simp] theorem State.setArr_fresh (d p a : Nat) (x : Arr) : (s.setArr d p a x).fresh = s.fresh := rfl
@[simp] theorem State.setArr_now (d p a : Nat) (x : Arr) : (s.setArr d p a x).now = s.now := rfl
@[simp] theorem State.setArr_regs (d p a : Nat) (x : Arr) : (s.setArr d p a x).regs = s.regs := rfl
@[simp] theorem State.setArr_counters (d p a : Nat) (x : Arr) : (s.setArr d p a x).counters = s.counters := rfl
@[simp] theorem State.setArr_holds (d p a : Nat) (x : Arr) : (s.setArr d p a x).holds = s.holds := rfl
@[simp] theorem State.setArr_mem (d p a : Nat) (x : Arr) : (s.setArr d p a x).mem = s.mem := rfl
@[simp] theorem State.setArr_acc (d p a : Nat) (x : Arr) : (s.setArr d p a x).acc = s.acc := rfl
@[simp] theorem State.setArr_ecc (d p a : Nat) (x : Arr) : (s.setArr d p a x).ecc = s.ecc := rfl
@[simp] theorem State.setArr_inv (d p a : Nat) (x : Arr) : (s.setArr d p a x).inv = s.inv := rfl
@[simp] theorem State.setArr_outbox (d p a : Nat) (x : Arr) : (s.setArr d p a x).outbox = s.outbox := rfl
@[simp] theorem State.setArr_engines (d p a : Nat) (x : Arr) : (s.setArr d p a x).engines = s.engines := rfl
@[simp] theorem State.setArr_fwInbox (d p a : Nat) (x : Arr) : (s.setArr d p a x).fwInbox = s.fwInbox := rfl
@[simp] theorem State.setArr_supIrq (d p a : Nat) (x : Arr) : (s.setArr d p a x).supIrq = s.supIrq := rfl
@[simp] theorem State.setArr_parts (d p a : Nat) (x : Arr) : (s.setArr d p a x).parts = s.parts := rfl
@[simp] theorem State.setArr_unprotected (d p a : Nat) (x : Arr) : (s.setArr d p a x).unprotected = s.unprotected := rfl
@[simp] theorem State.setArr_deltas (d p a : Nat) (x : Arr) : (s.setArr d p a x).deltas = s.deltas := rfl
@[simp] theorem State.setArr_chvSeen (d p a : Nat) (x : Arr) : (s.setArr d p a x).chvSeen = s.chvSeen := rfl
@[simp] theorem State.setArr_ortho (d p a : Nat) (x : Arr) : (s.setArr d p a x).ortho = s.ortho := rfl
@[simp] theorem State.setArr_embPois (d p a : Nat) (x : Arr) : (s.setArr d p a x).embPois = s.embPois := rfl
@[simp] theorem State.setArr_repair (d p a : Nat) (x : Arr) : (s.setArr d p a x).repair = s.repair := rfl
@[simp] theorem State.setArr_wires (d p a : Nat) (x : Arr) : (s.setArr d p a x).wires = s.wires := rfl
@[simp] theorem State.setArr_retired (d p a : Nat) (x : Arr) : (s.setArr d p a x).retired = s.retired := rfl
@[simp] theorem State.setArr_lostDies (d p a : Nat) (x : Arr) : (s.setArr d p a x).lostDies = s.lostDies := rfl
@[simp] theorem State.setArr_lostMods (d p a : Nat) (x : Arr) : (s.setArr d p a x).lostMods = s.lostMods := rfl
@[simp] theorem State.setArr_detours (d p a : Nat) (x : Arr) : (s.setArr d p a x).detours = s.detours := rfl
@[simp] theorem State.setArr_job (d p a : Nat) (x : Arr) : (s.setArr d p a x).job = s.job := rfl
@[simp] theorem State.setArr_cache (d p a : Nat) (x : Arr) : (s.setArr d p a x).cache = s.cache := rfl
@[simp] theorem State.setArr_cacheClock (d p a : Nat) (x : Arr) : (s.setArr d p a x).cacheClock = s.cacheClock := rfl
@[simp] theorem State.setArr_barriers (d p a : Nat) (x : Arr) : (s.setArr d p a x).barriers = s.barriers := rfl
@[simp] theorem State.setArr_chans (d p a : Nat) (x : Arr) : (s.setArr d p a x).chans = s.chans := rfl
@[simp] theorem State.setArr_evMask (d p a : Nat) (x : Arr) : (s.setArr d p a x).evMask = s.evMask := rfl
@[simp] theorem State.setArr_longs (d p a : Nat) (x : Arr) : (s.setArr d p a x).longs = s.longs := rfl
@[simp] theorem State.setArr_nextTag (d p a : Nat) (x : Arr) : (s.setArr d p a x).nextTag = s.nextTag := rfl
@[simp] theorem State.setArr_msix (d p a : Nat) (x : Arr) : (s.setArr d p a x).msix = s.msix := rfl
@[simp] theorem State.setArr_d3 (d p a : Nat) (x : Arr) : (s.setArr d p a x).d3 = s.d3 := rfl
@[simp] theorem State.setArr_journal (d p a : Nat) (x : Arr) : (s.setArr d p a x).journal = s.journal := rfl
@[simp] theorem State.setArr_banks (d p a : Nat) (x : Arr) : (s.setArr d p a x).banks = s.banks := rfl
@[simp] theorem State.setArr_gov (d p a : Nat) (x : Arr) : (s.setArr d p a x).gov = s.gov := rfl
@[simp] theorem State.setArr_stop (d p a : Nat) (x : Arr) : (s.setArr d p a x).stop = s.stop := rfl
@[simp] theorem State.setArr_edge (d p a : Nat) (x : Arr) : (s.setArr d p a x).edge = s.edge := rfl

/-! setQue -/

@[simp] theorem State.setQue_pending (d p q : Nat) (x : Queue) : (s.setQue d p q x).pending = s.pending := rfl
@[simp] theorem State.setQue_fresh (d p q : Nat) (x : Queue) : (s.setQue d p q x).fresh = s.fresh := rfl
@[simp] theorem State.setQue_now (d p q : Nat) (x : Queue) : (s.setQue d p q x).now = s.now := rfl
@[simp] theorem State.setQue_regs (d p q : Nat) (x : Queue) : (s.setQue d p q x).regs = s.regs := rfl
@[simp] theorem State.setQue_counters (d p q : Nat) (x : Queue) : (s.setQue d p q x).counters = s.counters := rfl
@[simp] theorem State.setQue_holds (d p q : Nat) (x : Queue) : (s.setQue d p q x).holds = s.holds := rfl
@[simp] theorem State.setQue_mem (d p q : Nat) (x : Queue) : (s.setQue d p q x).mem = s.mem := rfl
@[simp] theorem State.setQue_acc (d p q : Nat) (x : Queue) : (s.setQue d p q x).acc = s.acc := rfl
@[simp] theorem State.setQue_ecc (d p q : Nat) (x : Queue) : (s.setQue d p q x).ecc = s.ecc := rfl
@[simp] theorem State.setQue_inv (d p q : Nat) (x : Queue) : (s.setQue d p q x).inv = s.inv := rfl
@[simp] theorem State.setQue_outbox (d p q : Nat) (x : Queue) : (s.setQue d p q x).outbox = s.outbox := rfl
@[simp] theorem State.setQue_engines (d p q : Nat) (x : Queue) : (s.setQue d p q x).engines = s.engines := rfl
@[simp] theorem State.setQue_fwInbox (d p q : Nat) (x : Queue) : (s.setQue d p q x).fwInbox = s.fwInbox := rfl
@[simp] theorem State.setQue_supIrq (d p q : Nat) (x : Queue) : (s.setQue d p q x).supIrq = s.supIrq := rfl
@[simp] theorem State.setQue_parts (d p q : Nat) (x : Queue) : (s.setQue d p q x).parts = s.parts := rfl
@[simp] theorem State.setQue_unprotected (d p q : Nat) (x : Queue) : (s.setQue d p q x).unprotected = s.unprotected := rfl
@[simp] theorem State.setQue_deltas (d p q : Nat) (x : Queue) : (s.setQue d p q x).deltas = s.deltas := rfl
@[simp] theorem State.setQue_chvSeen (d p q : Nat) (x : Queue) : (s.setQue d p q x).chvSeen = s.chvSeen := rfl
@[simp] theorem State.setQue_ortho (d p q : Nat) (x : Queue) : (s.setQue d p q x).ortho = s.ortho := rfl
@[simp] theorem State.setQue_embPois (d p q : Nat) (x : Queue) : (s.setQue d p q x).embPois = s.embPois := rfl
@[simp] theorem State.setQue_repair (d p q : Nat) (x : Queue) : (s.setQue d p q x).repair = s.repair := rfl
@[simp] theorem State.setQue_wires (d p q : Nat) (x : Queue) : (s.setQue d p q x).wires = s.wires := rfl
@[simp] theorem State.setQue_retired (d p q : Nat) (x : Queue) : (s.setQue d p q x).retired = s.retired := rfl
@[simp] theorem State.setQue_lostDies (d p q : Nat) (x : Queue) : (s.setQue d p q x).lostDies = s.lostDies := rfl
@[simp] theorem State.setQue_lostMods (d p q : Nat) (x : Queue) : (s.setQue d p q x).lostMods = s.lostMods := rfl
@[simp] theorem State.setQue_detours (d p q : Nat) (x : Queue) : (s.setQue d p q x).detours = s.detours := rfl
@[simp] theorem State.setQue_job (d p q : Nat) (x : Queue) : (s.setQue d p q x).job = s.job := rfl
@[simp] theorem State.setQue_cache (d p q : Nat) (x : Queue) : (s.setQue d p q x).cache = s.cache := rfl
@[simp] theorem State.setQue_cacheClock (d p q : Nat) (x : Queue) : (s.setQue d p q x).cacheClock = s.cacheClock := rfl
@[simp] theorem State.setQue_barriers (d p q : Nat) (x : Queue) : (s.setQue d p q x).barriers = s.barriers := rfl
@[simp] theorem State.setQue_chans (d p q : Nat) (x : Queue) : (s.setQue d p q x).chans = s.chans := rfl
@[simp] theorem State.setQue_evMask (d p q : Nat) (x : Queue) : (s.setQue d p q x).evMask = s.evMask := rfl
@[simp] theorem State.setQue_longs (d p q : Nat) (x : Queue) : (s.setQue d p q x).longs = s.longs := rfl
@[simp] theorem State.setQue_nextTag (d p q : Nat) (x : Queue) : (s.setQue d p q x).nextTag = s.nextTag := rfl
@[simp] theorem State.setQue_msix (d p q : Nat) (x : Queue) : (s.setQue d p q x).msix = s.msix := rfl
@[simp] theorem State.setQue_d3 (d p q : Nat) (x : Queue) : (s.setQue d p q x).d3 = s.d3 := rfl
@[simp] theorem State.setQue_journal (d p q : Nat) (x : Queue) : (s.setQue d p q x).journal = s.journal := rfl
@[simp] theorem State.setQue_banks (d p q : Nat) (x : Queue) : (s.setQue d p q x).banks = s.banks := rfl
@[simp] theorem State.setQue_gov (d p q : Nat) (x : Queue) : (s.setQue d p q x).gov = s.gov := rfl
@[simp] theorem State.setQue_stop (d p q : Nat) (x : Queue) : (s.setQue d p q x).stop = s.stop := rfl
@[simp] theorem State.setQue_edge (d p q : Nat) (x : Queue) : (s.setQue d p q x).edge = s.edge := rfl

/-! setEng -/

@[simp] theorem State.setEng_pending (d : Nat) (e : EngineId) (x : Engine) : (s.setEng d e x).pending = s.pending := rfl
@[simp] theorem State.setEng_fresh (d : Nat) (e : EngineId) (x : Engine) : (s.setEng d e x).fresh = s.fresh := rfl
@[simp] theorem State.setEng_now (d : Nat) (e : EngineId) (x : Engine) : (s.setEng d e x).now = s.now := rfl
@[simp] theorem State.setEng_regs (d : Nat) (e : EngineId) (x : Engine) : (s.setEng d e x).regs = s.regs := rfl
@[simp] theorem State.setEng_counters (d : Nat) (e : EngineId) (x : Engine) : (s.setEng d e x).counters = s.counters := rfl
@[simp] theorem State.setEng_holds (d : Nat) (e : EngineId) (x : Engine) : (s.setEng d e x).holds = s.holds := rfl
@[simp] theorem State.setEng_mem (d : Nat) (e : EngineId) (x : Engine) : (s.setEng d e x).mem = s.mem := rfl
@[simp] theorem State.setEng_acc (d : Nat) (e : EngineId) (x : Engine) : (s.setEng d e x).acc = s.acc := rfl
@[simp] theorem State.setEng_ecc (d : Nat) (e : EngineId) (x : Engine) : (s.setEng d e x).ecc = s.ecc := rfl
@[simp] theorem State.setEng_inv (d : Nat) (e : EngineId) (x : Engine) : (s.setEng d e x).inv = s.inv := rfl
@[simp] theorem State.setEng_outbox (d : Nat) (e : EngineId) (x : Engine) : (s.setEng d e x).outbox = s.outbox := rfl
@[simp] theorem State.setEng_sprigs (d : Nat) (e : EngineId) (x : Engine) : (s.setEng d e x).sprigs = s.sprigs := rfl
@[simp] theorem State.setEng_fwInbox (d : Nat) (e : EngineId) (x : Engine) : (s.setEng d e x).fwInbox = s.fwInbox := rfl
@[simp] theorem State.setEng_supIrq (d : Nat) (e : EngineId) (x : Engine) : (s.setEng d e x).supIrq = s.supIrq := rfl
@[simp] theorem State.setEng_parts (d : Nat) (e : EngineId) (x : Engine) : (s.setEng d e x).parts = s.parts := rfl
@[simp] theorem State.setEng_unprotected (d : Nat) (e : EngineId) (x : Engine) : (s.setEng d e x).unprotected = s.unprotected := rfl
@[simp] theorem State.setEng_deltas (d : Nat) (e : EngineId) (x : Engine) : (s.setEng d e x).deltas = s.deltas := rfl
@[simp] theorem State.setEng_chvSeen (d : Nat) (e : EngineId) (x : Engine) : (s.setEng d e x).chvSeen = s.chvSeen := rfl
@[simp] theorem State.setEng_ortho (d : Nat) (e : EngineId) (x : Engine) : (s.setEng d e x).ortho = s.ortho := rfl
@[simp] theorem State.setEng_embPois (d : Nat) (e : EngineId) (x : Engine) : (s.setEng d e x).embPois = s.embPois := rfl
@[simp] theorem State.setEng_repair (d : Nat) (e : EngineId) (x : Engine) : (s.setEng d e x).repair = s.repair := rfl
@[simp] theorem State.setEng_wires (d : Nat) (e : EngineId) (x : Engine) : (s.setEng d e x).wires = s.wires := rfl
@[simp] theorem State.setEng_retired (d : Nat) (e : EngineId) (x : Engine) : (s.setEng d e x).retired = s.retired := rfl
@[simp] theorem State.setEng_lostDies (d : Nat) (e : EngineId) (x : Engine) : (s.setEng d e x).lostDies = s.lostDies := rfl
@[simp] theorem State.setEng_lostMods (d : Nat) (e : EngineId) (x : Engine) : (s.setEng d e x).lostMods = s.lostMods := rfl
@[simp] theorem State.setEng_detours (d : Nat) (e : EngineId) (x : Engine) : (s.setEng d e x).detours = s.detours := rfl
@[simp] theorem State.setEng_job (d : Nat) (e : EngineId) (x : Engine) : (s.setEng d e x).job = s.job := rfl
@[simp] theorem State.setEng_cache (d : Nat) (e : EngineId) (x : Engine) : (s.setEng d e x).cache = s.cache := rfl
@[simp] theorem State.setEng_cacheClock (d : Nat) (e : EngineId) (x : Engine) : (s.setEng d e x).cacheClock = s.cacheClock := rfl
@[simp] theorem State.setEng_barriers (d : Nat) (e : EngineId) (x : Engine) : (s.setEng d e x).barriers = s.barriers := rfl
@[simp] theorem State.setEng_chans (d : Nat) (e : EngineId) (x : Engine) : (s.setEng d e x).chans = s.chans := rfl
@[simp] theorem State.setEng_evMask (d : Nat) (e : EngineId) (x : Engine) : (s.setEng d e x).evMask = s.evMask := rfl
@[simp] theorem State.setEng_longs (d : Nat) (e : EngineId) (x : Engine) : (s.setEng d e x).longs = s.longs := rfl
@[simp] theorem State.setEng_nextTag (d : Nat) (e : EngineId) (x : Engine) : (s.setEng d e x).nextTag = s.nextTag := rfl
@[simp] theorem State.setEng_msix (d : Nat) (e : EngineId) (x : Engine) : (s.setEng d e x).msix = s.msix := rfl
@[simp] theorem State.setEng_d3 (d : Nat) (e : EngineId) (x : Engine) : (s.setEng d e x).d3 = s.d3 := rfl
@[simp] theorem State.setEng_journal (d : Nat) (e : EngineId) (x : Engine) : (s.setEng d e x).journal = s.journal := rfl
@[simp] theorem State.setEng_banks (d : Nat) (e : EngineId) (x : Engine) : (s.setEng d e x).banks = s.banks := rfl
@[simp] theorem State.setEng_gov (d : Nat) (e : EngineId) (x : Engine) : (s.setEng d e x).gov = s.gov := rfl
@[simp] theorem State.setEng_stop (d : Nat) (e : EngineId) (x : Engine) : (s.setEng d e x).stop = s.stop := rfl
@[simp] theorem State.setEng_edge (d : Nat) (e : EngineId) (x : Engine) : (s.setEng d e x).edge = s.edge := rfl

/-! setChan -/

@[simp] theorem State.setChan_pending (l c : Nat) (x : Channel) : (s.setChan l c x).pending = s.pending := rfl
@[simp] theorem State.setChan_fresh (l c : Nat) (x : Channel) : (s.setChan l c x).fresh = s.fresh := rfl
@[simp] theorem State.setChan_now (l c : Nat) (x : Channel) : (s.setChan l c x).now = s.now := rfl
@[simp] theorem State.setChan_regs (l c : Nat) (x : Channel) : (s.setChan l c x).regs = s.regs := rfl
@[simp] theorem State.setChan_counters (l c : Nat) (x : Channel) : (s.setChan l c x).counters = s.counters := rfl
@[simp] theorem State.setChan_holds (l c : Nat) (x : Channel) : (s.setChan l c x).holds = s.holds := rfl
@[simp] theorem State.setChan_mem (l c : Nat) (x : Channel) : (s.setChan l c x).mem = s.mem := rfl
@[simp] theorem State.setChan_acc (l c : Nat) (x : Channel) : (s.setChan l c x).acc = s.acc := rfl
@[simp] theorem State.setChan_ecc (l c : Nat) (x : Channel) : (s.setChan l c x).ecc = s.ecc := rfl
@[simp] theorem State.setChan_inv (l c : Nat) (x : Channel) : (s.setChan l c x).inv = s.inv := rfl
@[simp] theorem State.setChan_outbox (l c : Nat) (x : Channel) : (s.setChan l c x).outbox = s.outbox := rfl
@[simp] theorem State.setChan_sprigs (l c : Nat) (x : Channel) : (s.setChan l c x).sprigs = s.sprigs := rfl
@[simp] theorem State.setChan_engines (l c : Nat) (x : Channel) : (s.setChan l c x).engines = s.engines := rfl
@[simp] theorem State.setChan_fwInbox (l c : Nat) (x : Channel) : (s.setChan l c x).fwInbox = s.fwInbox := rfl
@[simp] theorem State.setChan_supIrq (l c : Nat) (x : Channel) : (s.setChan l c x).supIrq = s.supIrq := rfl
@[simp] theorem State.setChan_parts (l c : Nat) (x : Channel) : (s.setChan l c x).parts = s.parts := rfl
@[simp] theorem State.setChan_unprotected (l c : Nat) (x : Channel) : (s.setChan l c x).unprotected = s.unprotected := rfl
@[simp] theorem State.setChan_deltas (l c : Nat) (x : Channel) : (s.setChan l c x).deltas = s.deltas := rfl
@[simp] theorem State.setChan_chvSeen (l c : Nat) (x : Channel) : (s.setChan l c x).chvSeen = s.chvSeen := rfl
@[simp] theorem State.setChan_ortho (l c : Nat) (x : Channel) : (s.setChan l c x).ortho = s.ortho := rfl
@[simp] theorem State.setChan_embPois (l c : Nat) (x : Channel) : (s.setChan l c x).embPois = s.embPois := rfl
@[simp] theorem State.setChan_repair (l c : Nat) (x : Channel) : (s.setChan l c x).repair = s.repair := rfl
@[simp] theorem State.setChan_wires (l c : Nat) (x : Channel) : (s.setChan l c x).wires = s.wires := rfl
@[simp] theorem State.setChan_retired (l c : Nat) (x : Channel) : (s.setChan l c x).retired = s.retired := rfl
@[simp] theorem State.setChan_lostDies (l c : Nat) (x : Channel) : (s.setChan l c x).lostDies = s.lostDies := rfl
@[simp] theorem State.setChan_lostMods (l c : Nat) (x : Channel) : (s.setChan l c x).lostMods = s.lostMods := rfl
@[simp] theorem State.setChan_detours (l c : Nat) (x : Channel) : (s.setChan l c x).detours = s.detours := rfl
@[simp] theorem State.setChan_job (l c : Nat) (x : Channel) : (s.setChan l c x).job = s.job := rfl
@[simp] theorem State.setChan_cache (l c : Nat) (x : Channel) : (s.setChan l c x).cache = s.cache := rfl
@[simp] theorem State.setChan_cacheClock (l c : Nat) (x : Channel) : (s.setChan l c x).cacheClock = s.cacheClock := rfl
@[simp] theorem State.setChan_barriers (l c : Nat) (x : Channel) : (s.setChan l c x).barriers = s.barriers := rfl
@[simp] theorem State.setChan_evMask (l c : Nat) (x : Channel) : (s.setChan l c x).evMask = s.evMask := rfl
@[simp] theorem State.setChan_longs (l c : Nat) (x : Channel) : (s.setChan l c x).longs = s.longs := rfl
@[simp] theorem State.setChan_nextTag (l c : Nat) (x : Channel) : (s.setChan l c x).nextTag = s.nextTag := rfl
@[simp] theorem State.setChan_msix (l c : Nat) (x : Channel) : (s.setChan l c x).msix = s.msix := rfl
@[simp] theorem State.setChan_d3 (l c : Nat) (x : Channel) : (s.setChan l c x).d3 = s.d3 := rfl
@[simp] theorem State.setChan_journal (l c : Nat) (x : Channel) : (s.setChan l c x).journal = s.journal := rfl
@[simp] theorem State.setChan_banks (l c : Nat) (x : Channel) : (s.setChan l c x).banks = s.banks := rfl
@[simp] theorem State.setChan_gov (l c : Nat) (x : Channel) : (s.setChan l c x).gov = s.gov := rfl
@[simp] theorem State.setChan_stop (l c : Nat) (x : Channel) : (s.setChan l c x).stop = s.stop := rfl
@[simp] theorem State.setChan_edge (l c : Nat) (x : Channel) : (s.setChan l c x).edge = s.edge := rfl

/-! setByte -/

@[simp] theorem State.setByte_pending (a : Nat) (v : Byte) : (s.setByte a v).pending = s.pending := rfl
@[simp] theorem State.setByte_fresh (a : Nat) (v : Byte) : (s.setByte a v).fresh = s.fresh := rfl
@[simp] theorem State.setByte_now (a : Nat) (v : Byte) : (s.setByte a v).now = s.now := rfl
@[simp] theorem State.setByte_regs (a : Nat) (v : Byte) : (s.setByte a v).regs = s.regs := rfl
@[simp] theorem State.setByte_counters (a : Nat) (v : Byte) : (s.setByte a v).counters = s.counters := rfl
@[simp] theorem State.setByte_holds (a : Nat) (v : Byte) : (s.setByte a v).holds = s.holds := rfl
@[simp] theorem State.setByte_acc (a : Nat) (v : Byte) : (s.setByte a v).acc = s.acc := rfl
@[simp] theorem State.setByte_ecc (a : Nat) (v : Byte) : (s.setByte a v).ecc = s.ecc := rfl
@[simp] theorem State.setByte_inv (a : Nat) (v : Byte) : (s.setByte a v).inv = s.inv := rfl
@[simp] theorem State.setByte_outbox (a : Nat) (v : Byte) : (s.setByte a v).outbox = s.outbox := rfl
@[simp] theorem State.setByte_sprigs (a : Nat) (v : Byte) : (s.setByte a v).sprigs = s.sprigs := rfl
@[simp] theorem State.setByte_engines (a : Nat) (v : Byte) : (s.setByte a v).engines = s.engines := rfl
@[simp] theorem State.setByte_fwInbox (a : Nat) (v : Byte) : (s.setByte a v).fwInbox = s.fwInbox := rfl
@[simp] theorem State.setByte_supIrq (a : Nat) (v : Byte) : (s.setByte a v).supIrq = s.supIrq := rfl
@[simp] theorem State.setByte_parts (a : Nat) (v : Byte) : (s.setByte a v).parts = s.parts := rfl
@[simp] theorem State.setByte_unprotected (a : Nat) (v : Byte) : (s.setByte a v).unprotected = s.unprotected := rfl
@[simp] theorem State.setByte_deltas (a : Nat) (v : Byte) : (s.setByte a v).deltas = s.deltas := rfl
@[simp] theorem State.setByte_chvSeen (a : Nat) (v : Byte) : (s.setByte a v).chvSeen = s.chvSeen := rfl
@[simp] theorem State.setByte_ortho (a : Nat) (v : Byte) : (s.setByte a v).ortho = s.ortho := rfl
@[simp] theorem State.setByte_embPois (a : Nat) (v : Byte) : (s.setByte a v).embPois = s.embPois := rfl
@[simp] theorem State.setByte_repair (a : Nat) (v : Byte) : (s.setByte a v).repair = s.repair := rfl
@[simp] theorem State.setByte_wires (a : Nat) (v : Byte) : (s.setByte a v).wires = s.wires := rfl
@[simp] theorem State.setByte_retired (a : Nat) (v : Byte) : (s.setByte a v).retired = s.retired := rfl
@[simp] theorem State.setByte_lostDies (a : Nat) (v : Byte) : (s.setByte a v).lostDies = s.lostDies := rfl
@[simp] theorem State.setByte_lostMods (a : Nat) (v : Byte) : (s.setByte a v).lostMods = s.lostMods := rfl
@[simp] theorem State.setByte_detours (a : Nat) (v : Byte) : (s.setByte a v).detours = s.detours := rfl
@[simp] theorem State.setByte_job (a : Nat) (v : Byte) : (s.setByte a v).job = s.job := rfl
@[simp] theorem State.setByte_cache (a : Nat) (v : Byte) : (s.setByte a v).cache = s.cache := rfl
@[simp] theorem State.setByte_cacheClock (a : Nat) (v : Byte) : (s.setByte a v).cacheClock = s.cacheClock := rfl
@[simp] theorem State.setByte_barriers (a : Nat) (v : Byte) : (s.setByte a v).barriers = s.barriers := rfl
@[simp] theorem State.setByte_chans (a : Nat) (v : Byte) : (s.setByte a v).chans = s.chans := rfl
@[simp] theorem State.setByte_evMask (a : Nat) (v : Byte) : (s.setByte a v).evMask = s.evMask := rfl
@[simp] theorem State.setByte_longs (a : Nat) (v : Byte) : (s.setByte a v).longs = s.longs := rfl
@[simp] theorem State.setByte_nextTag (a : Nat) (v : Byte) : (s.setByte a v).nextTag = s.nextTag := rfl
@[simp] theorem State.setByte_msix (a : Nat) (v : Byte) : (s.setByte a v).msix = s.msix := rfl
@[simp] theorem State.setByte_d3 (a : Nat) (v : Byte) : (s.setByte a v).d3 = s.d3 := rfl
@[simp] theorem State.setByte_journal (a : Nat) (v : Byte) : (s.setByte a v).journal = s.journal := rfl
@[simp] theorem State.setByte_banks (a : Nat) (v : Byte) : (s.setByte a v).banks = s.banks := rfl
@[simp] theorem State.setByte_gov (a : Nat) (v : Byte) : (s.setByte a v).gov = s.gov := rfl
@[simp] theorem State.setByte_stop (a : Nat) (v : Byte) : (s.setByte a v).stop = s.stop := rfl
@[simp] theorem State.setByte_edge (a : Nat) (v : Byte) : (s.setByte a v).edge = s.edge := rfl

/-! setDev -/

@[simp] theorem State.setDev_pending (a : Nat) (x : Deviation) : (s.setDev a x).pending = s.pending := rfl
@[simp] theorem State.setDev_fresh (a : Nat) (x : Deviation) : (s.setDev a x).fresh = s.fresh := rfl
@[simp] theorem State.setDev_now (a : Nat) (x : Deviation) : (s.setDev a x).now = s.now := rfl
@[simp] theorem State.setDev_regs (a : Nat) (x : Deviation) : (s.setDev a x).regs = s.regs := rfl
@[simp] theorem State.setDev_counters (a : Nat) (x : Deviation) : (s.setDev a x).counters = s.counters := rfl
@[simp] theorem State.setDev_holds (a : Nat) (x : Deviation) : (s.setDev a x).holds = s.holds := rfl
@[simp] theorem State.setDev_mem (a : Nat) (x : Deviation) : (s.setDev a x).mem = s.mem := rfl
@[simp] theorem State.setDev_acc (a : Nat) (x : Deviation) : (s.setDev a x).acc = s.acc := rfl
@[simp] theorem State.setDev_inv (a : Nat) (x : Deviation) : (s.setDev a x).inv = s.inv := rfl
@[simp] theorem State.setDev_outbox (a : Nat) (x : Deviation) : (s.setDev a x).outbox = s.outbox := rfl
@[simp] theorem State.setDev_sprigs (a : Nat) (x : Deviation) : (s.setDev a x).sprigs = s.sprigs := rfl
@[simp] theorem State.setDev_engines (a : Nat) (x : Deviation) : (s.setDev a x).engines = s.engines := rfl
@[simp] theorem State.setDev_fwInbox (a : Nat) (x : Deviation) : (s.setDev a x).fwInbox = s.fwInbox := rfl
@[simp] theorem State.setDev_supIrq (a : Nat) (x : Deviation) : (s.setDev a x).supIrq = s.supIrq := rfl
@[simp] theorem State.setDev_parts (a : Nat) (x : Deviation) : (s.setDev a x).parts = s.parts := rfl
@[simp] theorem State.setDev_unprotected (a : Nat) (x : Deviation) : (s.setDev a x).unprotected = s.unprotected := rfl
@[simp] theorem State.setDev_deltas (a : Nat) (x : Deviation) : (s.setDev a x).deltas = s.deltas := rfl
@[simp] theorem State.setDev_chvSeen (a : Nat) (x : Deviation) : (s.setDev a x).chvSeen = s.chvSeen := rfl
@[simp] theorem State.setDev_ortho (a : Nat) (x : Deviation) : (s.setDev a x).ortho = s.ortho := rfl
@[simp] theorem State.setDev_embPois (a : Nat) (x : Deviation) : (s.setDev a x).embPois = s.embPois := rfl
@[simp] theorem State.setDev_repair (a : Nat) (x : Deviation) : (s.setDev a x).repair = s.repair := rfl
@[simp] theorem State.setDev_wires (a : Nat) (x : Deviation) : (s.setDev a x).wires = s.wires := rfl
@[simp] theorem State.setDev_retired (a : Nat) (x : Deviation) : (s.setDev a x).retired = s.retired := rfl
@[simp] theorem State.setDev_lostDies (a : Nat) (x : Deviation) : (s.setDev a x).lostDies = s.lostDies := rfl
@[simp] theorem State.setDev_lostMods (a : Nat) (x : Deviation) : (s.setDev a x).lostMods = s.lostMods := rfl
@[simp] theorem State.setDev_detours (a : Nat) (x : Deviation) : (s.setDev a x).detours = s.detours := rfl
@[simp] theorem State.setDev_job (a : Nat) (x : Deviation) : (s.setDev a x).job = s.job := rfl
@[simp] theorem State.setDev_cache (a : Nat) (x : Deviation) : (s.setDev a x).cache = s.cache := rfl
@[simp] theorem State.setDev_cacheClock (a : Nat) (x : Deviation) : (s.setDev a x).cacheClock = s.cacheClock := rfl
@[simp] theorem State.setDev_barriers (a : Nat) (x : Deviation) : (s.setDev a x).barriers = s.barriers := rfl
@[simp] theorem State.setDev_chans (a : Nat) (x : Deviation) : (s.setDev a x).chans = s.chans := rfl
@[simp] theorem State.setDev_evMask (a : Nat) (x : Deviation) : (s.setDev a x).evMask = s.evMask := rfl
@[simp] theorem State.setDev_longs (a : Nat) (x : Deviation) : (s.setDev a x).longs = s.longs := rfl
@[simp] theorem State.setDev_nextTag (a : Nat) (x : Deviation) : (s.setDev a x).nextTag = s.nextTag := rfl
@[simp] theorem State.setDev_msix (a : Nat) (x : Deviation) : (s.setDev a x).msix = s.msix := rfl
@[simp] theorem State.setDev_d3 (a : Nat) (x : Deviation) : (s.setDev a x).d3 = s.d3 := rfl
@[simp] theorem State.setDev_journal (a : Nat) (x : Deviation) : (s.setDev a x).journal = s.journal := rfl
@[simp] theorem State.setDev_banks (a : Nat) (x : Deviation) : (s.setDev a x).banks = s.banks := rfl
@[simp] theorem State.setDev_gov (a : Nat) (x : Deviation) : (s.setDev a x).gov = s.gov := rfl
@[simp] theorem State.setDev_stop (a : Nat) (x : Deviation) : (s.setDev a x).stop = s.stop := rfl
@[simp] theorem State.setDev_edge (a : Nat) (x : Deviation) : (s.setDev a x).edge = s.edge := rfl

/-! setEdge -/

@[simp] theorem State.setEdge_pending (f : Edge → Edge) : (s.setEdge f).pending = s.pending := rfl
@[simp] theorem State.setEdge_fresh (f : Edge → Edge) : (s.setEdge f).fresh = s.fresh := rfl
@[simp] theorem State.setEdge_now (f : Edge → Edge) : (s.setEdge f).now = s.now := rfl
@[simp] theorem State.setEdge_regs (f : Edge → Edge) : (s.setEdge f).regs = s.regs := rfl
@[simp] theorem State.setEdge_counters (f : Edge → Edge) : (s.setEdge f).counters = s.counters := rfl
@[simp] theorem State.setEdge_holds (f : Edge → Edge) : (s.setEdge f).holds = s.holds := rfl
@[simp] theorem State.setEdge_mem (f : Edge → Edge) : (s.setEdge f).mem = s.mem := rfl
@[simp] theorem State.setEdge_acc (f : Edge → Edge) : (s.setEdge f).acc = s.acc := rfl
@[simp] theorem State.setEdge_ecc (f : Edge → Edge) : (s.setEdge f).ecc = s.ecc := rfl
@[simp] theorem State.setEdge_inv (f : Edge → Edge) : (s.setEdge f).inv = s.inv := rfl
@[simp] theorem State.setEdge_outbox (f : Edge → Edge) : (s.setEdge f).outbox = s.outbox := rfl
@[simp] theorem State.setEdge_sprigs (f : Edge → Edge) : (s.setEdge f).sprigs = s.sprigs := rfl
@[simp] theorem State.setEdge_engines (f : Edge → Edge) : (s.setEdge f).engines = s.engines := rfl
@[simp] theorem State.setEdge_fwInbox (f : Edge → Edge) : (s.setEdge f).fwInbox = s.fwInbox := rfl
@[simp] theorem State.setEdge_supIrq (f : Edge → Edge) : (s.setEdge f).supIrq = s.supIrq := rfl
@[simp] theorem State.setEdge_parts (f : Edge → Edge) : (s.setEdge f).parts = s.parts := rfl
@[simp] theorem State.setEdge_unprotected (f : Edge → Edge) : (s.setEdge f).unprotected = s.unprotected := rfl
@[simp] theorem State.setEdge_deltas (f : Edge → Edge) : (s.setEdge f).deltas = s.deltas := rfl
@[simp] theorem State.setEdge_chvSeen (f : Edge → Edge) : (s.setEdge f).chvSeen = s.chvSeen := rfl
@[simp] theorem State.setEdge_ortho (f : Edge → Edge) : (s.setEdge f).ortho = s.ortho := rfl
@[simp] theorem State.setEdge_embPois (f : Edge → Edge) : (s.setEdge f).embPois = s.embPois := rfl
@[simp] theorem State.setEdge_repair (f : Edge → Edge) : (s.setEdge f).repair = s.repair := rfl
@[simp] theorem State.setEdge_wires (f : Edge → Edge) : (s.setEdge f).wires = s.wires := rfl
@[simp] theorem State.setEdge_retired (f : Edge → Edge) : (s.setEdge f).retired = s.retired := rfl
@[simp] theorem State.setEdge_lostDies (f : Edge → Edge) : (s.setEdge f).lostDies = s.lostDies := rfl
@[simp] theorem State.setEdge_lostMods (f : Edge → Edge) : (s.setEdge f).lostMods = s.lostMods := rfl
@[simp] theorem State.setEdge_detours (f : Edge → Edge) : (s.setEdge f).detours = s.detours := rfl
@[simp] theorem State.setEdge_job (f : Edge → Edge) : (s.setEdge f).job = s.job := rfl
@[simp] theorem State.setEdge_cache (f : Edge → Edge) : (s.setEdge f).cache = s.cache := rfl
@[simp] theorem State.setEdge_cacheClock (f : Edge → Edge) : (s.setEdge f).cacheClock = s.cacheClock := rfl
@[simp] theorem State.setEdge_barriers (f : Edge → Edge) : (s.setEdge f).barriers = s.barriers := rfl
@[simp] theorem State.setEdge_chans (f : Edge → Edge) : (s.setEdge f).chans = s.chans := rfl
@[simp] theorem State.setEdge_evMask (f : Edge → Edge) : (s.setEdge f).evMask = s.evMask := rfl
@[simp] theorem State.setEdge_longs (f : Edge → Edge) : (s.setEdge f).longs = s.longs := rfl
@[simp] theorem State.setEdge_nextTag (f : Edge → Edge) : (s.setEdge f).nextTag = s.nextTag := rfl
@[simp] theorem State.setEdge_msix (f : Edge → Edge) : (s.setEdge f).msix = s.msix := rfl
@[simp] theorem State.setEdge_d3 (f : Edge → Edge) : (s.setEdge f).d3 = s.d3 := rfl
@[simp] theorem State.setEdge_journal (f : Edge → Edge) : (s.setEdge f).journal = s.journal := rfl
@[simp] theorem State.setEdge_banks (f : Edge → Edge) : (s.setEdge f).banks = s.banks := rfl
@[simp] theorem State.setEdge_gov (f : Edge → Edge) : (s.setEdge f).gov = s.gov := rfl
@[simp] theorem State.setEdge_stop (f : Edge → Edge) : (s.setEdge f).stop = s.stop := rfl

/-! advanceTo -/

@[simp] theorem State.advanceTo_pending (t : Nat) : (s.advanceTo t).pending = s.pending := rfl
@[simp] theorem State.advanceTo_fresh (t : Nat) : (s.advanceTo t).fresh = s.fresh := rfl
@[simp] theorem State.advanceTo_regs (t : Nat) : (s.advanceTo t).regs = s.regs := rfl
@[simp] theorem State.advanceTo_counters (t : Nat) : (s.advanceTo t).counters = s.counters := rfl
@[simp] theorem State.advanceTo_holds (t : Nat) : (s.advanceTo t).holds = s.holds := rfl
@[simp] theorem State.advanceTo_mem (t : Nat) : (s.advanceTo t).mem = s.mem := rfl
@[simp] theorem State.advanceTo_acc (t : Nat) : (s.advanceTo t).acc = s.acc := rfl
@[simp] theorem State.advanceTo_ecc (t : Nat) : (s.advanceTo t).ecc = s.ecc := rfl
@[simp] theorem State.advanceTo_inv (t : Nat) : (s.advanceTo t).inv = s.inv := rfl
@[simp] theorem State.advanceTo_outbox (t : Nat) : (s.advanceTo t).outbox = s.outbox := rfl
@[simp] theorem State.advanceTo_sprigs (t : Nat) : (s.advanceTo t).sprigs = s.sprigs := rfl
@[simp] theorem State.advanceTo_engines (t : Nat) : (s.advanceTo t).engines = s.engines := rfl
@[simp] theorem State.advanceTo_fwInbox (t : Nat) : (s.advanceTo t).fwInbox = s.fwInbox := rfl
@[simp] theorem State.advanceTo_supIrq (t : Nat) : (s.advanceTo t).supIrq = s.supIrq := rfl
@[simp] theorem State.advanceTo_parts (t : Nat) : (s.advanceTo t).parts = s.parts := rfl
@[simp] theorem State.advanceTo_unprotected (t : Nat) : (s.advanceTo t).unprotected = s.unprotected := rfl
@[simp] theorem State.advanceTo_deltas (t : Nat) : (s.advanceTo t).deltas = s.deltas := rfl
@[simp] theorem State.advanceTo_chvSeen (t : Nat) : (s.advanceTo t).chvSeen = s.chvSeen := rfl
@[simp] theorem State.advanceTo_ortho (t : Nat) : (s.advanceTo t).ortho = s.ortho := rfl
@[simp] theorem State.advanceTo_embPois (t : Nat) : (s.advanceTo t).embPois = s.embPois := rfl
@[simp] theorem State.advanceTo_repair (t : Nat) : (s.advanceTo t).repair = s.repair := rfl
@[simp] theorem State.advanceTo_wires (t : Nat) : (s.advanceTo t).wires = s.wires := rfl
@[simp] theorem State.advanceTo_retired (t : Nat) : (s.advanceTo t).retired = s.retired := rfl
@[simp] theorem State.advanceTo_lostDies (t : Nat) : (s.advanceTo t).lostDies = s.lostDies := rfl
@[simp] theorem State.advanceTo_lostMods (t : Nat) : (s.advanceTo t).lostMods = s.lostMods := rfl
@[simp] theorem State.advanceTo_detours (t : Nat) : (s.advanceTo t).detours = s.detours := rfl
@[simp] theorem State.advanceTo_job (t : Nat) : (s.advanceTo t).job = s.job := rfl
@[simp] theorem State.advanceTo_cache (t : Nat) : (s.advanceTo t).cache = s.cache := rfl
@[simp] theorem State.advanceTo_cacheClock (t : Nat) : (s.advanceTo t).cacheClock = s.cacheClock := rfl
@[simp] theorem State.advanceTo_barriers (t : Nat) : (s.advanceTo t).barriers = s.barriers := rfl
@[simp] theorem State.advanceTo_chans (t : Nat) : (s.advanceTo t).chans = s.chans := rfl
@[simp] theorem State.advanceTo_evMask (t : Nat) : (s.advanceTo t).evMask = s.evMask := rfl
@[simp] theorem State.advanceTo_longs (t : Nat) : (s.advanceTo t).longs = s.longs := rfl
@[simp] theorem State.advanceTo_nextTag (t : Nat) : (s.advanceTo t).nextTag = s.nextTag := rfl
@[simp] theorem State.advanceTo_msix (t : Nat) : (s.advanceTo t).msix = s.msix := rfl
@[simp] theorem State.advanceTo_d3 (t : Nat) : (s.advanceTo t).d3 = s.d3 := rfl
@[simp] theorem State.advanceTo_journal (t : Nat) : (s.advanceTo t).journal = s.journal := rfl
@[simp] theorem State.advanceTo_banks (t : Nat) : (s.advanceTo t).banks = s.banks := rfl
@[simp] theorem State.advanceTo_gov (t : Nat) : (s.advanceTo t).gov = s.gov := rfl
@[simp] theorem State.advanceTo_stop (t : Nat) : (s.advanceTo t).stop = s.stop := rfl
@[simp] theorem State.advanceTo_edge (t : Nat) : (s.advanceTo t).edge = s.edge := rfl

/-! signal -/

@[simp] theorem State.signal_pending (l v : Nat) : (s.signal l v).pending = s.pending := rfl
@[simp] theorem State.signal_fresh (l v : Nat) : (s.signal l v).fresh = s.fresh := rfl
@[simp] theorem State.signal_now (l v : Nat) : (s.signal l v).now = s.now := rfl
@[simp] theorem State.signal_regs (l v : Nat) : (s.signal l v).regs = s.regs := rfl
@[simp] theorem State.signal_counters (l v : Nat) : (s.signal l v).counters = s.counters := rfl
@[simp] theorem State.signal_holds (l v : Nat) : (s.signal l v).holds = s.holds := rfl
@[simp] theorem State.signal_mem (l v : Nat) : (s.signal l v).mem = s.mem := rfl
@[simp] theorem State.signal_acc (l v : Nat) : (s.signal l v).acc = s.acc := rfl
@[simp] theorem State.signal_ecc (l v : Nat) : (s.signal l v).ecc = s.ecc := rfl
@[simp] theorem State.signal_inv (l v : Nat) : (s.signal l v).inv = s.inv := rfl
@[simp] theorem State.signal_outbox (l v : Nat) : (s.signal l v).outbox = s.outbox := rfl
@[simp] theorem State.signal_sprigs (l v : Nat) : (s.signal l v).sprigs = s.sprigs := rfl
@[simp] theorem State.signal_engines (l v : Nat) : (s.signal l v).engines = s.engines := rfl
@[simp] theorem State.signal_fwInbox (l v : Nat) : (s.signal l v).fwInbox = s.fwInbox := rfl
@[simp] theorem State.signal_supIrq (l v : Nat) : (s.signal l v).supIrq = s.supIrq := rfl
@[simp] theorem State.signal_parts (l v : Nat) : (s.signal l v).parts = s.parts := rfl
@[simp] theorem State.signal_unprotected (l v : Nat) : (s.signal l v).unprotected = s.unprotected := rfl
@[simp] theorem State.signal_deltas (l v : Nat) : (s.signal l v).deltas = s.deltas := rfl
@[simp] theorem State.signal_chvSeen (l v : Nat) : (s.signal l v).chvSeen = s.chvSeen := rfl
@[simp] theorem State.signal_ortho (l v : Nat) : (s.signal l v).ortho = s.ortho := rfl
@[simp] theorem State.signal_embPois (l v : Nat) : (s.signal l v).embPois = s.embPois := rfl
@[simp] theorem State.signal_repair (l v : Nat) : (s.signal l v).repair = s.repair := rfl
@[simp] theorem State.signal_wires (l v : Nat) : (s.signal l v).wires = s.wires := rfl
@[simp] theorem State.signal_retired (l v : Nat) : (s.signal l v).retired = s.retired := rfl
@[simp] theorem State.signal_lostDies (l v : Nat) : (s.signal l v).lostDies = s.lostDies := rfl
@[simp] theorem State.signal_lostMods (l v : Nat) : (s.signal l v).lostMods = s.lostMods := rfl
@[simp] theorem State.signal_detours (l v : Nat) : (s.signal l v).detours = s.detours := rfl
@[simp] theorem State.signal_job (l v : Nat) : (s.signal l v).job = s.job := rfl
@[simp] theorem State.signal_cache (l v : Nat) : (s.signal l v).cache = s.cache := rfl
@[simp] theorem State.signal_cacheClock (l v : Nat) : (s.signal l v).cacheClock = s.cacheClock := rfl
@[simp] theorem State.signal_barriers (l v : Nat) : (s.signal l v).barriers = s.barriers := rfl
@[simp] theorem State.signal_chans (l v : Nat) : (s.signal l v).chans = s.chans := rfl
@[simp] theorem State.signal_evMask (l v : Nat) : (s.signal l v).evMask = s.evMask := rfl
@[simp] theorem State.signal_longs (l v : Nat) : (s.signal l v).longs = s.longs := rfl
@[simp] theorem State.signal_nextTag (l v : Nat) : (s.signal l v).nextTag = s.nextTag := rfl
@[simp] theorem State.signal_d3 (l v : Nat) : (s.signal l v).d3 = s.d3 := rfl
@[simp] theorem State.signal_journal (l v : Nat) : (s.signal l v).journal = s.journal := rfl
@[simp] theorem State.signal_banks (l v : Nat) : (s.signal l v).banks = s.banks := rfl
@[simp] theorem State.signal_gov (l v : Nat) : (s.signal l v).gov = s.gov := rfl
@[simp] theorem State.signal_stop (l v : Nat) : (s.signal l v).stop = s.stop := rfl
@[simp] theorem State.signal_edge (l v : Nat) : (s.signal l v).edge = s.edge := rfl

/-! interrupt -/

@[simp] theorem State.interrupt_pending (d : Nat) : (s.interrupt d).pending = s.pending := rfl
@[simp] theorem State.interrupt_fresh (d : Nat) : (s.interrupt d).fresh = s.fresh := rfl
@[simp] theorem State.interrupt_now (d : Nat) : (s.interrupt d).now = s.now := rfl
@[simp] theorem State.interrupt_regs (d : Nat) : (s.interrupt d).regs = s.regs := rfl
@[simp] theorem State.interrupt_counters (d : Nat) : (s.interrupt d).counters = s.counters := rfl
@[simp] theorem State.interrupt_holds (d : Nat) : (s.interrupt d).holds = s.holds := rfl
@[simp] theorem State.interrupt_mem (d : Nat) : (s.interrupt d).mem = s.mem := rfl
@[simp] theorem State.interrupt_acc (d : Nat) : (s.interrupt d).acc = s.acc := rfl
@[simp] theorem State.interrupt_ecc (d : Nat) : (s.interrupt d).ecc = s.ecc := rfl
@[simp] theorem State.interrupt_inv (d : Nat) : (s.interrupt d).inv = s.inv := rfl
@[simp] theorem State.interrupt_outbox (d : Nat) : (s.interrupt d).outbox = s.outbox := rfl
@[simp] theorem State.interrupt_sprigs (d : Nat) : (s.interrupt d).sprigs = s.sprigs := rfl
@[simp] theorem State.interrupt_engines (d : Nat) : (s.interrupt d).engines = s.engines := rfl
@[simp] theorem State.interrupt_fwInbox (d : Nat) : (s.interrupt d).fwInbox = s.fwInbox := rfl
@[simp] theorem State.interrupt_parts (d : Nat) : (s.interrupt d).parts = s.parts := rfl
@[simp] theorem State.interrupt_unprotected (d : Nat) : (s.interrupt d).unprotected = s.unprotected := rfl
@[simp] theorem State.interrupt_deltas (d : Nat) : (s.interrupt d).deltas = s.deltas := rfl
@[simp] theorem State.interrupt_chvSeen (d : Nat) : (s.interrupt d).chvSeen = s.chvSeen := rfl
@[simp] theorem State.interrupt_ortho (d : Nat) : (s.interrupt d).ortho = s.ortho := rfl
@[simp] theorem State.interrupt_embPois (d : Nat) : (s.interrupt d).embPois = s.embPois := rfl
@[simp] theorem State.interrupt_repair (d : Nat) : (s.interrupt d).repair = s.repair := rfl
@[simp] theorem State.interrupt_wires (d : Nat) : (s.interrupt d).wires = s.wires := rfl
@[simp] theorem State.interrupt_retired (d : Nat) : (s.interrupt d).retired = s.retired := rfl
@[simp] theorem State.interrupt_lostDies (d : Nat) : (s.interrupt d).lostDies = s.lostDies := rfl
@[simp] theorem State.interrupt_lostMods (d : Nat) : (s.interrupt d).lostMods = s.lostMods := rfl
@[simp] theorem State.interrupt_detours (d : Nat) : (s.interrupt d).detours = s.detours := rfl
@[simp] theorem State.interrupt_job (d : Nat) : (s.interrupt d).job = s.job := rfl
@[simp] theorem State.interrupt_cache (d : Nat) : (s.interrupt d).cache = s.cache := rfl
@[simp] theorem State.interrupt_cacheClock (d : Nat) : (s.interrupt d).cacheClock = s.cacheClock := rfl
@[simp] theorem State.interrupt_barriers (d : Nat) : (s.interrupt d).barriers = s.barriers := rfl
@[simp] theorem State.interrupt_chans (d : Nat) : (s.interrupt d).chans = s.chans := rfl
@[simp] theorem State.interrupt_evMask (d : Nat) : (s.interrupt d).evMask = s.evMask := rfl
@[simp] theorem State.interrupt_longs (d : Nat) : (s.interrupt d).longs = s.longs := rfl
@[simp] theorem State.interrupt_nextTag (d : Nat) : (s.interrupt d).nextTag = s.nextTag := rfl
@[simp] theorem State.interrupt_msix (d : Nat) : (s.interrupt d).msix = s.msix := rfl
@[simp] theorem State.interrupt_d3 (d : Nat) : (s.interrupt d).d3 = s.d3 := rfl
@[simp] theorem State.interrupt_journal (d : Nat) : (s.interrupt d).journal = s.journal := rfl
@[simp] theorem State.interrupt_banks (d : Nat) : (s.interrupt d).banks = s.banks := rfl
@[simp] theorem State.interrupt_gov (d : Nat) : (s.interrupt d).gov = s.gov := rfl
@[simp] theorem State.interrupt_stop (d : Nat) : (s.interrupt d).stop = s.stop := rfl
@[simp] theorem State.interrupt_edge (d : Nat) : (s.interrupt d).edge = s.edge := rfl

/-! setPart -/

@[simp] theorem State.setPart_pending (h c : Nat) (x : StgPart) : (s.setPart h c x).pending = s.pending := rfl
@[simp] theorem State.setPart_fresh (h c : Nat) (x : StgPart) : (s.setPart h c x).fresh = s.fresh := rfl
@[simp] theorem State.setPart_now (h c : Nat) (x : StgPart) : (s.setPart h c x).now = s.now := rfl
@[simp] theorem State.setPart_regs (h c : Nat) (x : StgPart) : (s.setPart h c x).regs = s.regs := rfl
@[simp] theorem State.setPart_counters (h c : Nat) (x : StgPart) : (s.setPart h c x).counters = s.counters := rfl
@[simp] theorem State.setPart_holds (h c : Nat) (x : StgPart) : (s.setPart h c x).holds = s.holds := rfl
@[simp] theorem State.setPart_mem (h c : Nat) (x : StgPart) : (s.setPart h c x).mem = s.mem := rfl
@[simp] theorem State.setPart_acc (h c : Nat) (x : StgPart) : (s.setPart h c x).acc = s.acc := rfl
@[simp] theorem State.setPart_ecc (h c : Nat) (x : StgPart) : (s.setPart h c x).ecc = s.ecc := rfl
@[simp] theorem State.setPart_inv (h c : Nat) (x : StgPart) : (s.setPart h c x).inv = s.inv := rfl
@[simp] theorem State.setPart_outbox (h c : Nat) (x : StgPart) : (s.setPart h c x).outbox = s.outbox := rfl
@[simp] theorem State.setPart_sprigs (h c : Nat) (x : StgPart) : (s.setPart h c x).sprigs = s.sprigs := rfl
@[simp] theorem State.setPart_engines (h c : Nat) (x : StgPart) : (s.setPart h c x).engines = s.engines := rfl
@[simp] theorem State.setPart_fwInbox (h c : Nat) (x : StgPart) : (s.setPart h c x).fwInbox = s.fwInbox := rfl
@[simp] theorem State.setPart_supIrq (h c : Nat) (x : StgPart) : (s.setPart h c x).supIrq = s.supIrq := rfl
@[simp] theorem State.setPart_unprotected (h c : Nat) (x : StgPart) : (s.setPart h c x).unprotected = s.unprotected := rfl
@[simp] theorem State.setPart_deltas (h c : Nat) (x : StgPart) : (s.setPart h c x).deltas = s.deltas := rfl
@[simp] theorem State.setPart_chvSeen (h c : Nat) (x : StgPart) : (s.setPart h c x).chvSeen = s.chvSeen := rfl
@[simp] theorem State.setPart_ortho (h c : Nat) (x : StgPart) : (s.setPart h c x).ortho = s.ortho := rfl
@[simp] theorem State.setPart_embPois (h c : Nat) (x : StgPart) : (s.setPart h c x).embPois = s.embPois := rfl
@[simp] theorem State.setPart_repair (h c : Nat) (x : StgPart) : (s.setPart h c x).repair = s.repair := rfl
@[simp] theorem State.setPart_wires (h c : Nat) (x : StgPart) : (s.setPart h c x).wires = s.wires := rfl
@[simp] theorem State.setPart_retired (h c : Nat) (x : StgPart) : (s.setPart h c x).retired = s.retired := rfl
@[simp] theorem State.setPart_lostDies (h c : Nat) (x : StgPart) : (s.setPart h c x).lostDies = s.lostDies := rfl
@[simp] theorem State.setPart_lostMods (h c : Nat) (x : StgPart) : (s.setPart h c x).lostMods = s.lostMods := rfl
@[simp] theorem State.setPart_detours (h c : Nat) (x : StgPart) : (s.setPart h c x).detours = s.detours := rfl
@[simp] theorem State.setPart_job (h c : Nat) (x : StgPart) : (s.setPart h c x).job = s.job := rfl
@[simp] theorem State.setPart_cache (h c : Nat) (x : StgPart) : (s.setPart h c x).cache = s.cache := rfl
@[simp] theorem State.setPart_cacheClock (h c : Nat) (x : StgPart) : (s.setPart h c x).cacheClock = s.cacheClock := rfl
@[simp] theorem State.setPart_barriers (h c : Nat) (x : StgPart) : (s.setPart h c x).barriers = s.barriers := rfl
@[simp] theorem State.setPart_chans (h c : Nat) (x : StgPart) : (s.setPart h c x).chans = s.chans := rfl
@[simp] theorem State.setPart_evMask (h c : Nat) (x : StgPart) : (s.setPart h c x).evMask = s.evMask := rfl
@[simp] theorem State.setPart_longs (h c : Nat) (x : StgPart) : (s.setPart h c x).longs = s.longs := rfl
@[simp] theorem State.setPart_nextTag (h c : Nat) (x : StgPart) : (s.setPart h c x).nextTag = s.nextTag := rfl
@[simp] theorem State.setPart_msix (h c : Nat) (x : StgPart) : (s.setPart h c x).msix = s.msix := rfl
@[simp] theorem State.setPart_d3 (h c : Nat) (x : StgPart) : (s.setPart h c x).d3 = s.d3 := rfl
@[simp] theorem State.setPart_journal (h c : Nat) (x : StgPart) : (s.setPart h c x).journal = s.journal := rfl
@[simp] theorem State.setPart_banks (h c : Nat) (x : StgPart) : (s.setPart h c x).banks = s.banks := rfl
@[simp] theorem State.setPart_gov (h c : Nat) (x : StgPart) : (s.setPart h c x).gov = s.gov := rfl
@[simp] theorem State.setPart_stop (h c : Nat) (x : StgPart) : (s.setPart h c x).stop = s.stop := rfl
@[simp] theorem State.setPart_edge (h c : Nat) (x : StgPart) : (s.setPart h c x).edge = s.edge := rfl

end Sys2Proof.Machine
end

