-- ==== Sys2Proof/Laws/Canonical.lean ====
section
/-! SUPPORT. The canonical form: what it says of each store, and that every update keeps it. -/

namespace Sys2Proof.Machine

variable {s : State}

theorem State.canonical_iff : s.canonical = true ↔
    Memory.wf s.mem = true ∧ Store.wf 0 s.counters = true ∧ Store.wf 0 s.repair = true ∧ Store.sorted s.regs = true ∧
    Store.sorted s.acc = true ∧ Store.sorted s.ecc = true ∧ Store.sorted s.sprigs = true ∧
    (s.sprigs.all fun y => y.2.canonical) = true ∧ Store.sorted s.engines = true ∧ Store.sorted s.chans = true ∧
    Store.sorted s.evMask = true ∧ Store.sorted s.msix = true ∧ Store.sorted s.supIrq = true ∧ Store.sorted s.parts = true ∧
    Store.sorted s.wires = true ∧ Store.sorted s.edge.ports = true ∧ Store.sorted s.edge.dieSamples = true ∧
    s.edgeCanonical = true := by
  simp only [State.canonical, Bool.and_eq_true, and_assoc]

/-- A state whose stores are those of a canonical state is canonical. -/
theorem State.canonical_of_eq {t : State} (h : s.canonical = true) (h1 : t.mem = s.mem) (h2 : t.counters = s.counters)
    (h3 : t.repair = s.repair) (h4 : t.regs = s.regs) (h5 : t.acc = s.acc) (h6 : t.ecc = s.ecc) (h7 : t.sprigs = s.sprigs)
    (h8 : t.engines = s.engines) (h9 : t.chans = s.chans) (h10 : t.evMask = s.evMask) (h11 : t.msix = s.msix)
    (h12 : t.supIrq = s.supIrq) (h13 : t.parts = s.parts) (h14 : t.wires = s.wires) (h15 : t.edge.ports = s.edge.ports)
    (h16 : t.edge.dieSamples = s.edge.dieSamples) (h17 : t.edgeCanonical = s.edgeCanonical) : t.canonical = true := by
  simp only [State.canonical, h1, h2, h3, h4, h5, h6, h7, h8, h9, h10, h11, h12, h13, h14, h15, h16, h17] at h ⊢
  exact h

theorem State.sorted_regs (h : s.canonical = true) : Store.sorted s.regs = true := (State.canonical_iff.mp h).2.2.2.1
theorem State.sorted_counters (h : s.canonical = true) : Store.sorted s.counters = true :=
  Store.sorted_of_wf (State.canonical_iff.mp h).2.1
theorem State.sorted_mem (h : s.canonical = true) : Store.sorted s.mem = true :=
  Store.sorted_of_wf (State.canonical_iff.mp h).1
theorem State.sorted_sprigs (h : s.canonical = true) : Store.sorted s.sprigs = true :=
  (State.canonical_iff.mp h).2.2.2.2.2.2.1
theorem State.sorted_engines (h : s.canonical = true) : Store.sorted s.engines = true :=
  (State.canonical_iff.mp h).2.2.2.2.2.2.2.2.1
theorem State.sorted_chans (h : s.canonical = true) : Store.sorted s.chans = true :=
  (State.canonical_iff.mp h).2.2.2.2.2.2.2.2.2.1
theorem State.sorted_ports (h : s.canonical = true) : Store.sorted s.edge.ports = true :=
  (State.canonical_iff.mp h).2.2.2.2.2.2.2.2.2.2.2.2.2.2.2.1

/-! Registers and counters. -/

theorem State.setReg_canonical (d off : Nat) (v : Word) (h : s.canonical = true) : (s.setReg d off v).canonical = true := by
  simp only [State.canonical_iff] at h ⊢
  obtain ⟨a1, a2, a3, a4, a5⟩ := h
  exact ⟨a1, a2, a3, Store.sorted_set _ _ _ a4, a5⟩

theorem State.setF_canonical (d : Nat) (f : Fld) (v : Nat) (h : s.canonical = true) : (s.setF d f v).canonical = true :=
  State.setReg_canonical d f.off _ h

theorem State.setFs_canonical (f : Fld) (v : Nat) : ∀ (ds : List Nat) {s : State}, s.canonical = true →
    (s.setFs ds f v).canonical = true
  | [], _, h => h
  | d :: ds, _, h => State.setFs_canonical f v ds (State.setF_canonical d f v h)

theorem State.resetRegs_canonical (d lo hi : Nat) (h : s.canonical = true) : (s.resetRegs d lo hi).canonical = true := by
  simp only [State.canonical_iff] at h ⊢
  obtain ⟨a1, a2, a3, a4, a5⟩ := h
  exact ⟨a1, a2, a3, Store.sorted_clear _ _ a4, a5⟩

theorem State.setCtr_canonical (d off : Nat) (v : BitVec 64) (h : s.canonical = true) :
    (s.setCtr d off v).canonical = true := by
  simp only [State.canonical_iff] at h ⊢
  obtain ⟨a1, a2, a3⟩ := h
  exact ⟨a1, Store.wf_set _ _ a2, a3⟩

theorem State.count_canonical (d off n : Nat) (h : s.canonical = true) : (s.count d off n).canonical = true :=
  State.setCtr_canonical d off _ h

theorem State.countK_canonical (k n : Nat) (h : s.canonical = true) : (s.countK k n).canonical = true :=
  State.count_canonical _ _ _ h

theorem State.countF_canonical (d off n : Nat) (hdr : List Byte) (h : s.canonical = true) :
    (s.countF d off n hdr).canonical = true := by
  unfold State.countF; split
  · exact State.count_canonical _ _ _ h
  · exact h

/-- A register reads back what was written to it. -/
theorem State.reg_setReg_self (d off : Nat) (v : Word) (h : s.canonical = true) : (s.setReg d off v).reg d off = v :=
  Store.get_set_self _ _ _ (State.sorted_regs h)

/-- A write of a register leaves the others alone. -/
theorem State.reg_setReg_ne {d off d' off' : Nat} (v : Word) (h : s.canonical = true) (hk : regKey d' off' ≠ regKey d off) :
    (s.setReg d off v).reg d' off' = s.reg d' off' :=
  Store.get_set_ne' _ _ _ (State.sorted_regs h) hk

theorem State.ctr_setCtr_self (d off : Nat) (v : BitVec 64) (h : s.canonical = true) : (s.setCtr d off v).ctr d off = v :=
  Store.get_set_self _ _ _ (State.sorted_counters h)

theorem State.ctr_setCtr_ne {d off d' off' : Nat} (v : BitVec 64) (h : s.canonical = true)
    (hk : regKey d' off' ≠ regKey d off) : (s.setCtr d off v).ctr d' off' = s.ctr d' off' :=
  Store.get_set_ne _ _ (State.sorted_counters h) hk

/-! Sprigs. -/

theorem Sprig.fresh_canonical : Sprig.fresh.canonical = true := rfl

/-- A sprig of a canonical state is canonical. -/
theorem State.spr_canonical (h : s.canonical = true) (d p : Nat) : (s.spr d p).canonical = true := by
  have ha := (State.canonical_iff.mp h).2.2.2.2.2.2.2.1
  unfold State.spr
  generalize d * 272 + p = k
  generalize s.sprigs = m at ha
  induction m with
  | nil => rfl
  | cons x t ih =>
    obtain ⟨a, v⟩ := x
    simp only [List.all_cons, Bool.and_eq_true] at ha
    simp only [Store.get]
    split
    · exact ha.1
    · split
      · rfl
      · exact ih ha.2

theorem State.setSpr_canonical (d p : Nat) {x : Sprig} (hx : x.canonical = true) (h : s.canonical = true) :
    (s.setSpr d p x).canonical = true := by
  simp only [State.canonical_iff] at h ⊢
  obtain ⟨a1, a2, a3, a4, a5, a6, a7, a8, a9⟩ := h
  refine ⟨a1, a2, a3, a4, a5, a6, Store.sorted_set _ _ _ a7, ?_, a9⟩
  rw [List.all_eq_true] at a8 ⊢
  intro y hy
  rcases Store.mem_set hy with ⟨rfl, _⟩ | hm
  · exact hx
  · exact a8 y hm

theorem State.modSpr_canonical (d p : Nat) {f : Sprig → Sprig} (hf : ∀ x, x.canonical = true → (f x).canonical = true)
    (h : s.canonical = true) : (s.modSpr d p f).canonical = true :=
  State.setSpr_canonical d p (hf _ (State.spr_canonical h d p)) h

theorem State.spr_setSpr_self (d p : Nat) (x : Sprig) (h : s.canonical = true) : (s.setSpr d p x).spr d p = x :=
  Store.get_set_self _ _ _ (State.sorted_sprigs h)

theorem State.spr_modSpr_self (d p : Nat) (f : Sprig → Sprig) (h : s.canonical = true) :
    (s.modSpr d p f).spr d p = f (s.spr d p) := State.spr_setSpr_self d p _ h

theorem State.spr_setSpr_ne {d p d' p' : Nat} (x : Sprig) (h : s.canonical = true) (hk : d' * 272 + p' ≠ d * 272 + p) :
    (s.setSpr d p x).spr d' p' = s.spr d' p' :=
  Store.get_set_ne _ _ (State.sorted_sprigs h) hk

theorem Sprig.canonical_iff {x : Sprig} : x.canonical = true ↔
    Store.sorted x.gprs = true ∧ Store.sorted x.queues = true ∧ Store.sorted x.arrs = true ∧
    (x.arrs.all fun y => y.2.canonical) = true ∧ (x.cmds.all fun c => decide (c.id < x.nextCmd)) = true := by
  simp only [Sprig.canonical, Bool.and_eq_true, and_assoc]

theorem Sprig.setQue_canonical {x : Sprig} (q : Nat) (r : Queue) (h : x.canonical = true) : (x.setQue q r).canonical = true := by
  rw [Sprig.canonical_iff] at h ⊢
  exact ⟨h.1, Store.sorted_set _ _ _ h.2.1, h.2.2⟩

theorem Sprig.setGpr_canonical {x : Sprig} (i : Nat) (v : BitVec 64) (h : x.canonical = true) :
    (x.setGpr i v).canonical = true := by
  rw [Sprig.canonical_iff] at h ⊢
  exact ⟨Store.sorted_set _ _ _ h.1, h.2⟩

theorem Sprig.setArr_canonical {x : Sprig} (a : Nat) {r : Arr} (hr : r.canonical = true) (h : x.canonical = true) :
    (x.setArr a r).canonical = true := by
  rw [Sprig.canonical_iff] at h ⊢
  refine ⟨h.1, h.2.1, Store.sorted_set _ _ _ h.2.2.1, ?_, h.2.2.2.2⟩
  have h4 := h.2.2.2.1
  rw [List.all_eq_true] at h4 ⊢
  intro y hy
  rcases Store.mem_set hy with ⟨rfl, _⟩ | hm
  · exact hr
  · exact h4 y hm

/-- An array of a canonical sprig is canonical. -/
theorem Sprig.arr_canonical {x : Sprig} (h : x.canonical = true) (a : Nat) : (x.arr a).canonical = true := by
  have ha := (Sprig.canonical_iff.mp h).2.2.2.1
  unfold Sprig.arr
  generalize x.arrs = m at ha
  induction m with
  | nil => rfl
  | cons y t ih =>
    obtain ⟨b, v⟩ := y
    simp only [List.all_cons, Bool.and_eq_true] at ha
    simp only [Store.get]
    split
    · exact ha.1
    · split
      · rfl
      · exact ih ha.2

theorem State.setArr_canonical (d p a : Nat) {r : Arr} (hr : r.canonical = true) (h : s.canonical = true) :
    (s.setArr d p a r).canonical = true :=
  State.modSpr_canonical d p (fun _ hx => Sprig.setArr_canonical a hr hx) h

theorem State.setQue_canonical (d p q : Nat) (r : Queue) (h : s.canonical = true) : (s.setQue d p q r).canonical = true :=
  State.modSpr_canonical d p (fun _ hx => Sprig.setQue_canonical q r hx) h

theorem State.arr_canonical (h : s.canonical = true) (d p a : Nat) : (s.arr d p a).canonical = true :=
  Sprig.arr_canonical (State.spr_canonical h d p) a

theorem State.arr_setArr_self (d p a : Nat) (r : Arr) (h : s.canonical = true) : (s.setArr d p a r).arr d p a = r := by
  unfold State.arr State.setArr
  rw [State.spr_modSpr_self d p _ h]
  exact Store.get_set_self _ _ _ (Sprig.canonical_iff.mp (State.spr_canonical h d p)).2.2.1

theorem State.que_setQue_self (d p q : Nat) (r : Queue) (h : s.canonical = true) : (s.setQue d p q r).que d p q = r := by
  unfold State.que State.setQue
  rw [State.spr_modSpr_self d p _ h]
  exact Store.get_set_self _ _ _ (Sprig.canonical_iff.mp (State.spr_canonical h d p)).2.1

/-! Engines, channels, memory, codewords, the edge. -/

theorem State.setEng_canonical (d : Nat) (e : EngineId) (x : Engine) (h : s.canonical = true) :
    (s.setEng d e x).canonical = true := by
  simp only [State.canonical_iff] at h ⊢
  obtain ⟨a1, a2, a3, a4, a5, a6, a7, a8, a9, a10⟩ := h
  exact ⟨a1, a2, a3, a4, a5, a6, a7, a8, Store.sorted_set _ _ _ a9, a10⟩

theorem State.eng_setEng_self (d : Nat) (e : EngineId) (x : Engine) (h : s.canonical = true) : (s.setEng d e x).eng d e = x :=
  Store.get_set_self _ _ _ (State.sorted_engines h)

theorem State.setChan_canonical (l c : Nat) (x : Channel) (h : s.canonical = true) : (s.setChan l c x).canonical = true := by
  simp only [State.canonical_iff] at h ⊢
  obtain ⟨a1, a2, a3, a4, a5, a6, a7, a8, a9, a10, a11⟩ := h
  exact ⟨a1, a2, a3, a4, a5, a6, a7, a8, a9, Store.sorted_set _ _ _ a10, a11⟩

theorem State.chan_setChan_self (l c : Nat) (x : Channel) (h : s.canonical = true) : (s.setChan l c x).chan l c = x :=
  Store.get_set_self _ _ _ (State.sorted_chans h)

theorem State.signal_canonical (l v : Nat) (h : s.canonical = true) : (s.signal l v).canonical = true := by
  unfold State.signal
  simp only [State.canonical_iff] at h ⊢
  obtain ⟨a1, a2, a3, a4, a5, a6, a7, a8, a9, a10, a11, a12, a13⟩ := h
  exact ⟨a1, a2, a3, a4, a5, a6, a7, a8, a9, a10, a11, Store.sorted_set _ _ _ a12, a13⟩

theorem State.interrupt_canonical (d : Nat) (h : s.canonical = true) : (s.interrupt d).canonical = true := by
  unfold State.interrupt
  simp only [State.canonical_iff] at h ⊢
  obtain ⟨a1, a2, a3, a4, a5, a6, a7, a8, a9, a10, a11, a12, a13, a14⟩ := h
  exact ⟨a1, a2, a3, a4, a5, a6, a7, a8, a9, a10, a11, a12, Store.sorted_set _ _ _ a13, a14⟩

theorem State.setPart_canonical (h' c : Nat) (x : StgPart) (h : s.canonical = true) : (s.setPart h' c x).canonical = true := by
  simp only [State.canonical_iff] at h ⊢
  obtain ⟨a1, a2, a3, a4, a5, a6, a7, a8, a9, a10, a11, a12, a13, a14, a15⟩ := h
  exact ⟨a1, a2, a3, a4, a5, a6, a7, a8, a9, a10, a11, a12, a13, Store.sorted_set _ _ _ a14, a15⟩

theorem State.setByte_canonical (a : Nat) (v : Byte) (h : s.canonical = true) : (s.setByte a v).canonical = true := by
  simp only [State.canonical_iff] at h ⊢
  obtain ⟨a1, a2⟩ := h
  exact ⟨Store.wf_set _ _ a1, a2⟩

theorem State.poke_canonical : ∀ (bs : List Byte) (a : Nat) {s : State}, s.canonical = true → (s.poke a bs).canonical = true
  | [], _, _, h => h
  | b :: bs, a, _, h => State.poke_canonical bs (a + 1) (State.setByte_canonical a b h)

theorem State.setDev_canonical (a : Nat) (x : Deviation) (h : s.canonical = true) : (s.setDev a x).canonical = true := by
  simp only [State.canonical_iff] at h ⊢
  obtain ⟨a1, a2, a3, a4, a5, a6, a7⟩ := h
  exact ⟨a1, a2, a3, a4, a5, Store.sorted_set _ _ _ a6, a7⟩

theorem State.setEdge_canonical {f : Edge → Edge} (h1 : Store.sorted (f s.edge).ports = true)
    (h2 : Store.sorted (f s.edge).dieSamples = true) (h3 : (s.setEdge f).edgeCanonical = true) (h : s.canonical = true) : (s.setEdge f).canonical = true := by
  simp only [State.canonical_iff] at h ⊢
  obtain ⟨a1, a2, a3, a4, a5, a6, a7, a8, a9, a10, a11, a12, a13, a14, a15, _, _, _⟩ := h
  exact ⟨a1, a2, a3, a4, a5, a6, a7, a8, a9, a10, a11, a12, a13, a14, a15, h1, h2, h3⟩

theorem State.advanceTo_canonical (t : Nat) (h : s.canonical = true) : (s.advanceTo t).canonical = true := h

/-- A byte reads back what was written to it. -/
theorem State.byte_setByte_self (a : Nat) (v : Byte) (h : s.canonical = true) : (s.setByte a v).byte a = v :=
  Store.get_set_self _ _ _ (State.sorted_mem h)

theorem State.byte_setByte_ne {a b : Nat} (v : Byte) (h : s.canonical = true) (hb : b ≠ a) :
    (s.setByte a v).byte b = s.byte b := Store.get_set_ne _ _ (State.sorted_mem h) hb

/-- Bytes placed outside an address leave it alone. -/
theorem State.byte_poke_out {b : Nat} : ∀ (bs : List Byte) (a : Nat) {s : State}, s.canonical = true →
    (b < a ∨ a + bs.length ≤ b) → (s.poke a bs).byte b = s.byte b
  | [], _, _, _, _ => rfl
  | x :: bs, a, s, h, hb => by
    have hb' : b < a + 1 ∨ a + 1 + bs.length ≤ b := by simp at hb; omega
    have hne : b ≠ a := by simp at hb; omega
    exact (State.byte_poke_out bs (a + 1) (State.setByte_canonical a x h) hb').trans (State.byte_setByte_ne x h hne)

theorem State.poke_cons (s : State) (a : Nat) (b : Byte) (bs : List Byte) : s.poke a (b :: bs) = (s.setByte a b).poke (a + 1) bs := rfl

/-- Bytes placed at an address are there. -/
theorem State.byte_poke_in (bs : List Byte) : ∀ (a i : Nat) {s : State}, s.canonical = true → i < bs.length →
    (s.poke a bs).byte (a + i) = bs.getD i 0 := by
  induction bs with
  | nil => intro a i s _ hi; simp at hi
  | cons x bs ih =>
    intro a i s h hi
    rw [State.poke_cons]
    have hc := State.setByte_canonical a x h
    cases i with
    | zero => exact (State.byte_poke_out bs (a + 1) hc (by omega)).trans (State.byte_setByte_self a x h)
    | succ i =>
      rw [show a + (i + 1) = a + 1 + i by omega, ih (a + 1) i hc (by simpa using hi)]
      rfl

end Sys2Proof.Machine
end

