-- ==== Sys2Proof/Laws/Events.lean ====
section
/-! SUPPORT. What an event, a change of readiness and a fault report touch: registers, counters, mailbox queues, signalled
vectors, the open journal record or what waits for one, and the fault pin's latch, and nothing else of the state. -/

namespace Sys2Proof.Machine

theorem State.countK_form (s : State) (k n : Nat) : ∃ c, s.countK k n = { s with counters := c } := ⟨_, rfl⟩

theorem State.enqueue_form (s : State) (l : Nat) (r : List Word) :
    ∃ ch c, s.enqueue l r = { s with chans := ch, counters := c } := by
  unfold State.enqueue
  extract_lets c ch qs
  rcases em (qs.length < 128 ∨ c = 24) with h | h
  · exact ⟨_, s.counters, if_pos h⟩
  · exact ⟨_, _, if_neg h⟩

/-- An event touches mailbox queues and counters alone. -/
theorem State.event_form (s : State) (cls code : Nat) (p : List Word) :
    ∃ ch c, s.event cls code p = { s with chans := ch, counters := c } := by
  unfold State.event
  simp only [List.foldl]
  have step (u : State) (l : Nat) (r : List Word) :
      ∃ ch c, (if u.linkTakes l cls then u.enqueue l r else u) = { u with chans := ch, counters := c } := by
    split
    · exact State.enqueue_form u l r
    · exact ⟨u.chans, u.counters, rfl⟩
  obtain ⟨a, b, h⟩ := step s 0 (s.record cls code p)
  rw [h]
  obtain ⟨a', b', h'⟩ := step { s with chans := a, counters := b } 1 (s.record cls code p)
  exact ⟨a', b', h'⟩

theorem State.journalFault_form (s : State) (r : List Word) :
    ∃ rg j w, s.journalFault r = { s with regs := rg, journal := j, edge := { s.edge with waits := w } } := by
  unfold State.journalFault
  split
  · exact ⟨s.regs, s.journal, _, rfl⟩
  · split
    · exact ⟨s.regs, _, s.edge.waits, rfl⟩
    · exact ⟨_, _, s.edge.waits, rfl⟩

/-- A fault report touches registers, counters, mailbox queues, the journal record or
the entries that wait for one, and the fault pin's latch alone. -/
theorem State.fault_form (s : State) (code die unit mod drops d6 d7 how : Nat) :
    ∃ rg c ch j w, s.fault code die unit mod drops d6 d7 how =
      { s with regs := rg, counters := c, chans := ch, journal := j, edge :=
        { s.edge with waits := w, pins := { s.edge.pins with fault := s.edge.pins.fault || decide (how ≠ 0) } } } := by
  unfold State.fault
  extract_lets p u w z v
  obtain ⟨rg, j, wt, h⟩ := State.journalFault_form s (s.record 5 code p)
  have hu : ∃ c, u = { s with regs := rg, journal := j, counters := c, edge := { s.edge with waits := wt } } := ⟨_, by
    show State.countK _ _ _ = _
    rw [h]; rfl⟩
  obtain ⟨c, hc⟩ := hu
  obtain ⟨ch, c', h'⟩ := State.event_form v 5 code p
  refine ⟨rg, c', ch, j, wt, ?_⟩
  rw [h']
  simp only [v, w, z, hc]
  rfl

theorem State.ownFault_form (s : State) (code die unit drops d6 d7 how : Nat) :
    ∃ rg c ch j w, s.ownFault code die unit drops d6 d7 how =
      { s with regs := rg, counters := c, chans := ch, journal := j, edge :=
        { s.edge with waits := w, pins := { s.edge.pins with fault := s.edge.pins.fault || decide (how ≠ 0) } } } :=
  State.fault_form s code die unit s.modIx drops d6 d7 how

/-- A change of readiness touches registers, counters, mailbox queues and signalled vectors alone. -/
theorem State.setReady_form (s : State) (w h : Word) :
    ∃ rg c ch m, s.setReady w h = { s with regs := rg, counters := c, chans := ch, msix := m } := by
  unfold State.setReady
  simp only
  split
  · exact ⟨s.regs, s.counters, s.chans, s.msix, rfl⟩
  · generalize hu : State.signal _ 1 32 = u
    have hu' : ∃ rg m, u = { s with regs := rg, msix := m } := ⟨_, _, hu.symm⟩
    obtain ⟨rg, m, rfl⟩ := hu'
    obtain ⟨ch, c, h'⟩ := State.event_form { s with regs := rg, msix := m } 3 0
      [w, h, w ^^^ s.reg 18 Reg.GLB_FUNC_READY, h ^^^ s.reg 18 Reg.GLB_FUNC_READY_HI]
    exact ⟨rg, c, ch, m, h'⟩

theorem State.setReadyBit_form (s : State) (i : Nat) (v : Bool) :
    ∃ rg c ch m, s.setReadyBit i v = { s with regs := rg, counters := c, chans := ch, msix := m } := State.setReady_form s _ _

/-! They keep the canonical form. -/

theorem State.enqueue_canonical {s : State} (l : Nat) (r : List Word) (h : s.canonical = true) :
    (s.enqueue l r).canonical = true := by
  unfold State.enqueue
  extract_lets c ch qs
  rcases em (qs.length < 128 ∨ c = 24) with hc | hc
  · rw [if_pos hc]; exact State.setChan_canonical _ _ _ h
  · rw [if_neg hc]; exact State.countK_canonical _ _ (State.setChan_canonical _ _ _ h)

theorem State.event_canonical {s : State} (cls code : Nat) (p : List Word) (h : s.canonical = true) :
    (s.event cls code p).canonical = true := by
  unfold State.event
  simp only [List.foldl]
  have step (u : State) (l : Nat) (r : List Word) (hu : u.canonical = true) :
      (if u.linkTakes l cls then u.enqueue l r else u).canonical = true := by
    split
    · exact State.enqueue_canonical l r hu
    · exact hu
  exact step _ 1 _ (step s 0 _ h)

theorem State.journalFault_canonical {s : State} (r : List Word) (h : s.canonical = true) :
    (s.journalFault r).canonical = true := by
  unfold State.journalFault
  split
  · exact h
  · split
    · exact h
    · exact State.setF_canonical _ _ _ h

theorem State.fault_canonical {s : State} (code die unit mod drops d6 d7 how : Nat) (h : s.canonical = true) :
    (s.fault code die unit mod drops d6 d7 how).canonical = true := by
  unfold State.fault
  extract_lets p u w z v
  have hu : u.canonical = true := State.countK_canonical _ _ (State.journalFault_canonical _ h)
  exact State.event_canonical _ _ _ (show v.canonical = true from hu)

theorem State.ownFault_canonical {s : State} (code die unit drops d6 d7 how : Nat) (h : s.canonical = true) :
    (s.ownFault code die unit drops d6 d7 how).canonical = true := State.fault_canonical _ _ _ _ _ _ _ _ h

theorem State.setReady_canonical {s : State} (w w' : Word) (h : s.canonical = true) : (s.setReady w w').canonical = true := by
  unfold State.setReady
  simp only
  split
  · exact h
  · apply State.event_canonical
    exact State.signal_canonical _ _ (State.signal_canonical _ _ (State.setReg_canonical _ _ _ (State.setReg_canonical _ _ _ h)))

theorem State.setReadyBit_canonical {s : State} (i : Nat) (v : Bool) (h : s.canonical = true) :
    (s.setReadyBit i v).canonical = true := State.setReady_canonical _ _ h

end Sys2Proof.Machine
end

