-- ==== Sys2Proof/Machine/Operators.lean ====
section
/-! DEFINITION. What operators that run as programs of the scalar cores and of the attention stream compute, element by element: ELTWISE,
XENT, and where the placer may split a MATMUL (R269, R270, R297). The programs themselves are the placer's (VARIANT_BUILD). -/

namespace Sys2Proof.Machine

/-- maximumNumber(x, 0) in binary32. -/
def relu32 (x : Nat) : Nat := (b32.minMax true x 0).1

/-- The functions of Table 10.8 in binary32, left to right, each operation rounded to nearest even; `c`: the attribute C. -/
def eltFunc (func c x y : Nat) : Option Nat :=
  match func with
  | 1 => some (fadd32 x y)
  | 2 => some (fmul32 x y)
  | 3 => some (fmul32 c x)
  | 4 => some (relu32 x)
  | 5 => some (fmul32 (relu32 x) (relu32 x))
  | 6 => some (fmul32 (fmul32 (toB32 2) (relu32 x)) y)
  | _ => none

/-- An ELTWISE output element (R269): each input, given by its format, scale word and code, is converted once with RNE; the result is
converted once with the consumer's rounding. -/
def eltwise (o : OperRec) (x y : Nat × Nat × Nat) (fmt scale : Nat) (rnd : Rnd) : Option Stored :=
  (eltFunc (fld o.attr 0 1) (fld o.attr 4 4) (elemB32 x.1 x.2.1 x.2.2).1 (elemB32 y.1 y.2.1 y.2.2).1).map (storeB32 fmt scale rnd)

/-- SEGLOG of an XENT's attention request: the smallest that holds VOCAB (R270, Table 7.3). -/
def xentSegLog (vocab : Nat) : Nat := (((List.range 14).map (· + 10)).find? fun k => vocab ≤ 2 ^ k).getD 23

/-- A logit's gradient from its P (R270): 1.0 less at the target index, in binary32 with RNE. -/
def xentGrad (p : Nat) (target : Bool) : Nat := if target then fsub32 p 0x3F800000 else p

/-- The placer may split a MATMUL's reduction dimension at k: only at a multiple of SEGK; one segment where SEGK is 0 (R297). -/
def splitAt (o : OperRec) (k : Nat) : Bool := fld o.attr 4 4 != 0 && k % fld o.attr 4 4 == 0

end Sys2Proof.Machine
end

