-- ==== Sys2Proof/WellFormed.lean ====
section
/-! DEFINITION. Which commands are well formed: what comes with a command from outside has the size that its row's
rules give. A command that is not well formed spells no event of the block; exec gives it no meaning of its own. -/

namespace Sys2Proof

/-- A symbol of a codeword: 36 in DRAM and SRAM, 31 in accumulator codewords (R244, R247). -/
def Upset.wf (symbols : Nat) (u : Upset) : Bool := u.all fun x => decide (x.1 < symbols)

def MemSpace.symbols : MemSpace → Nat
  | .acc _ => 31
  | _ => 36

/-- A Thyme or link frame: 512 bytes (R302). -/
def frameWf (f : List Byte) : Bool := decide (f.length = 512)

/-- An access of a host: 1 to 4096 bytes, and the data of a write has its length (R340). -/
def accessWf (wr : Option (List Byte)) (len : Nat) : Bool :=
  decide (0 < len ∧ len ≤ 4096) && match wr with
    | none => true
    | some b => decide (b.length = len)

/-- A template command: 64 bytes (R153); a side word has its reserved bits zero (R293). -/
def TemplateCmd.wf (c : TemplateCmd) : Bool := decide (c.bytes.length = 64) && decide (c.side.toNat < 128)

/-- A part's commands are well formed, and its slots name templates of the part (R293). -/
def VariantPart.wf (v : VariantPart) : Bool :=
  (v.templates.all fun t => t.all TemplateCmd.wf) &&
    (v.slots.all fun e => decide (e.tmpl < v.templates.length ∧ e.tmpl < 65536)) &&
    v.routines.all fun x => (x.n8.all fun b => decide (b.length = 64)) && x.m16.all TemplateCmd.wf

/-- Well-formed commands. -/
def Instr.wf : Instr → Bool
  | .memoryRead _ sp _ u => Upset.wf sp.symbols u
  | .partialWrite _ sp _ _ u => Upset.wf sp.symbols u
  | .scrubBurst _ us => us.all fun x => Upset.wf 36 x.2
  | .sramScrubBurst _ us => us.all fun x => Upset.wf 36 x.2
  | .parityRegeneration first last => decide (first ≤ last)
  | .bar4Access _ _ wr len => accessWf wr len
  | .bar0Access _ _ wr len _ => accessWf wr len
  | .idleFrame _ f _ => frameWf f
  | .dataFrame _ f _ _ => frameWf f
  | .thymeSyncFrame _ f _ _ => frameWf f
  | .barrierFrame _ f _ _ => frameWf f
  | .stopFrame _ f _ _ _ => frameWf f
  | .laneRepairFrame _ f _ _ _ => frameWf f
  | .variantBuild _ parts => parts.all VariantPart.wf
  | .challenge _ nonce => decide (nonce.length = 32)
  | .dma _ _ descs _ => decide (descs.length % 32 = 0)
  | _ => true

end Sys2Proof
end

