-- ==== Sys2Proof/Tests/Slice0.lean ====
section
/-! SUPPORT. Tests: an ill-formed term for each check of WellFormed, one-step tests whose expected results come from the spec's
rules and tables, and a state that meets each statement's hypotheses. -/

namespace Sys2Proof.Tests

open Sys2Proof Sys2Proof.Machine

set_option maxRecDepth 30000
set_option Elab.async false

/-- The state that a command answers, or the state itself where it answers none. -/
def after (i : Instr) (s : State) : State := match exec i s with | .next t => t | _ => s

/-- A command answers the state unchanged. -/
def idles (i : Instr) (s : State) : Bool := match exec i s with | .next t => decide (t = s) | _ => false

/-- A word from fields at their lowest bits. -/
def fields (l : List (Nat × Nat)) : Nat := (l.map fun x => x.2 * 2 ^ x.1).foldl (· + ·) 0

/-- The module in service: every readiness bit set, the release over. -/
def live0 : State :=
  { (State.reset.setReg 18 Reg.GLB_FUNC_READY 0xFFFF03FF#32).setReg 18 Reg.GLB_FUNC_READY_HI 0x0000FFFF#32 with
    edge := { Edge.fresh with release := none } }

/-! Well-formedness: an ill-formed term for each check. -/

theorem test_wf_refuses_upset_symbol : (Instr.memoryRead 0 .dram 0 [(36, 1#16)]).wf = false := by decide
theorem test_wf_refuses_accumulator_symbol : (Instr.partialWrite 0 (.acc 0) 0 [] [(31, 1#16)]).wf = false := by decide
theorem test_wf_refuses_scrub_symbol : (Instr.scrubBurst 0 [(0, [(36, 1#16)])]).wf = false := by decide
theorem test_wf_refuses_sram_scrub_symbol : (Instr.sramScrubBurst 0 [(0, [(36, 1#16)])]).wf = false := by decide
theorem test_wf_refuses_row_order : (Instr.parityRegeneration 2 1).wf = false := by decide
theorem test_wf_refuses_bar4_length : (Instr.bar4Access 0 0 none 0).wf = false := by decide
theorem test_wf_refuses_bar4_data : (Instr.bar4Access 0 0 (some [1, 2]) 3).wf = false := by decide
theorem test_wf_refuses_bar0_length : (Instr.bar0Access 0 0 none 4097 true).wf = false := by decide
theorem test_wf_refuses_idle_frame : (Instr.idleFrame 0 [] true).wf = false := by decide
theorem test_wf_refuses_data_frame : (Instr.dataFrame 0 [] true 0).wf = false := by decide
theorem test_wf_refuses_sync_frame : (Instr.thymeSyncFrame 0 [] true none).wf = false := by decide
theorem test_wf_refuses_barrier_frame : (Instr.barrierFrame 0 [] true (.abort 0)).wf = false := by decide
theorem test_wf_refuses_stop_frame : (Instr.stopFrame 0 [] true 0 0).wf = false := by decide
theorem test_wf_refuses_lane_repair_frame : (Instr.laneRepairFrame 0 [] true 0 0).wf = false := by decide
theorem test_wf_refuses_template_command :
    (Instr.variantBuild [] [⟨0, 0, [[⟨[], 0⟩]], [], [], []⟩]).wf = false := by decide
theorem test_wf_refuses_slot_template : (Instr.variantBuild [] [⟨0, 0, [], [⟨0, 0, 0, 0⟩], [], []⟩]).wf = false := by decide
theorem test_wf_refuses_nonce : (Instr.challenge 0 [1]).wf = false := by decide
theorem test_wf_refuses_descriptor_bytes : (Instr.dma 0 0 [1] []).wf = false := by decide
theorem test_wf_accepts_whole_row : (Instr.parityRegeneration 1 1).wf = true := by decide

/-! Steps and the queue. -/

theorem test_step_takes_the_front : (match step { live0 with pending := [.setTid 5, .getTid] } with
    | .next t => decide (t.pending = [.getTid] ∧ t.edge.mgmt.tid = 5)
    | _ => false) = true := by decide +kernel

/-- R262, log 109: on an empty queue each arbiter grants its oldest urgent request, unless the module is stopped. -/
theorem test_empty_queue_grants :
    let r (n t : Nat) (u : Bool) : ArbWait := { req := { requester := n, low := true }, since := t, urgent := u }
    let s : State := { live0 with now := 9, edge := { live0.edge with arbs := [(.bridge 0 1, [r 1 5 true, r 2 2 true, r 3 1 false])] } }
    s.frozen = false ∧ (match step s with
      | .next t => decide (t.edge.arbs.map (·.2) = [[r 1 5 true, r 3 1 false, r 2 10 false]])
      | _ => false) = true := by decide +kernel

theorem test_empty_queue_advances_thyme : (match step live0 with
    | .next t => decide (t.now = 1)
    | _ => false) = true := by decide +kernel

theorem test_reset_is_canonical : State.reset.canonical = true := by decide +kernel

theorem witness_step_keeps_canonical : ({ live0 with pending := [Instr.getTid] }).canonical = true := by decide +kernel

/-! Registers (chapter 0). -/

/-- Table 0.5: QUE_CTL of queue 0 of sprig 0; the reset columns of three registers. -/
theorem test_reset_columns : State.reset.reg 3 Reg.CLK_STRETCH_CFG = 0x80000082#32 ∧ State.reset.reg 18 Reg.PWR_FREQ = 0xA550#32 ∧
    State.reset.reg 5 Reg.RST_CAUSE = 1 ∧ State.reset.reg 19 Reg.GLB_ROLE = 1 := by decide +kernel

theorem witness_reset_register : (regRow 3 Reg.CLK_STRETCH_CFG).isSome = true ∧ Reg.CLK_STRETCH_CFG ≠ Reg.GLB_ROLE ∧
    Reg.CLK_STRETCH_CFG ≠ Reg.RST_CAUSE ∧ twinShared Reg.CLK_STRETCH_CFG = false := by decide +kernel

theorem test_control_dies_share : ((live0.setReg 18 Reg.SAGE_THR 7).reg 19 Reg.SAGE_THR) = 7 := by decide +kernel

theorem witness_register_write : plainAt 3 Reg.CLK_STRETCH_CFG = true ∧ Reg.CLK_STRETCH_CFG % 4 = 0 ∧
    live0.canonical = true := by decide +kernel

/-- An RW field with a legal range (R11): WATTS 7000 is reserved and keeps 5400 or what stood. -/
theorem test_reserved_encoding_keeps : ((after (.registerWrite (.host 0) 18 (BitVec.ofNat 28 Reg.PWR_CAP) 7000 ⟨0, none⟩ 0) live0).getF 18
    .PWR_CAP_WATTS) = live0.getF 18 .PWR_CAP_WATTS := by decide +kernel

/-- R10: a W1C bit that hardware sets in the cycle in which a write clears it ends set. -/
theorem test_w1c_set_wins : (after (.registerWrite (.ctl 0 0) 3 (BitVec.ofNat 28 Reg.MEM_ERR) 0xFFFFFFFF
    ⟨BitVec.ofNat 32 (2 ^ Fld.MEM_ERR_UNMAPPED.lo), none⟩ 0) (live0.setF 3 .MEM_ERR_UNMAPPED 1)).getF 3 .MEM_ERR_UNMAPPED = 1 := by
  decide +kernel

/-- R264: a capture loses VALID and MORE with the clearing write, or records the event it meets in that cycle with MORE clear. -/
theorem test_capture_meets_its_clearing_write :
    let s := live0.setReg 3 Reg.ECC_LOG0 0xC0000005#32
    let t := after (.registerWrite (.ctl 0 0) 3 (BitVec.ofNat 28 Reg.ECC_LOG0) 0x80000000 ⟨0, none⟩ 0) s
    let u := after (.registerWrite (.ctl 0 0) 3 (BitVec.ofNat 28 Reg.ECC_LOG0) 0x80000000 ⟨0, some (7, 8, 9)⟩ 0) s
    s.canonical = true ∧ bit (s.reg 3 Reg.ECC_LOG0) 31 = true ∧ bits (t.reg 3 Reg.ECC_LOG0) 31 30 = 0 ∧
      u.reg 3 Reg.ECC_LOG0 = 0x80000007#32 ∧ u.reg 3 (Reg.ECC_LOG0 + 4) = 8 ∧ u.reg 3 (Reg.ECC_LOG0 + 8) = 9 := by decide +kernel

theorem test_w1c_clears : (after (.registerWrite (.ctl 0 0) 3 (BitVec.ofNat 28 Reg.MEM_ERR) 0xFFFFFFFF ⟨0, none⟩ 0)
    (live0.setF 3 .MEM_ERR_UNMAPPED 1)).getF 3 .MEM_ERR_UNMAPPED = 0 := by decide +kernel

/-- R12: the counter reads 2^32 + 5; the lower read latches 1, the counter goes on, the upper read answers 1 and empties. -/
theorem test_counter_latch :
    let s := live0.setCtr 3 Reg.PWR_ENERGY_LO 0x100000005#64
    let a := after (.counterLowerRead (.host 0) 3 (BitVec.ofNat 28 Reg.PWR_ENERGY_LO)) s
    let b := after (.counterUpperRead (.host 0) 3 (BitVec.ofNat 28 (Reg.PWR_ENERGY_LO + 4))) (a.setCtr 3 Reg.PWR_ENERGY_LO 0x700000000#64)
    let c := after (.counterUpperRead (.host 0) 3 (BitVec.ofNat 28 (Reg.PWR_ENERGY_LO + 4))) b
    counterPair 3 Reg.PWR_ENERGY_LO = some Reg.PWR_ENERGY_LO ∧ a.edge.answer = .data [5, 0, 0, 0] ∧
      b.edge.answer = .data [1, 0, 0, 0] ∧ b.holds = [] ∧
      c.edge.answer = .data (natLe 4 ((b.pairValue 3 Reg.PWR_ENERGY_LO).toNat / 2 ^ 32)) := by decide +kernel

theorem witness_counter_upper : counterPair 3 (Reg.PWR_ENERGY_LO + 4) = some Reg.PWR_ENERGY_LO ∧ live0.holds = [] := by decide +kernel

/-! Bridges (chapter 1). -/

/-- R19: four spare wires carry failed wires; the fifth failure retires the group. -/
theorem test_fifth_wire_retires :
    let s := [3, 7, 9, 100].foldl (fun s w => after (.bridgeWireFail 2 true 5 w) s) live0
    s.retired = [] ∧ (after (.bridgeWireFail 2 true 5 11) s).retired = [2 * 128 + 64 + 5] ∧
      idles (.bridgeWireFail 2 true 5 7) s = true ∧ s.canonical = true := by decide +kernel

/-! Host accesses (chapters 9 and 12). -/

theorem test_bar0_own_register :
    (after (.bar0Access 0 (BitVec.ofNat 26 Reg.PWR_CAP) (some [0xD0, 0x07, 0, 0]) 4 true) live0).getF 18 .PWR_CAP_WATTS = 2000 ∧
      live0.linkUp 0 = true ∧ live0.d3 = [] := by decide +kernel

/-- R343: the window to C3 without authorization discards the write and sets GLB_ERR.DENIED; a read is served. -/
theorem test_bar0_window_denied :
    let s := live0.setF 18 .GLB_BAR0_WIN_DIE 3
    let t := after (.bar0Access 0 (0x1000000 + BitVec.ofNat 26 Reg.CLK_STRETCH_CFG) (some [0, 0, 0, 0]) 4 true) s
    let r := after (.bar0Access 0 (0x1000000 + BitVec.ofNat 26 Reg.CLK_STRETCH_CFG) none 4 true) s
    s.authHeld = false ∧ t.getF 18 .GLB_ERR_DENIED = 1 ∧ t.reg 3 Reg.CLK_STRETCH_CFG = 0x80000082#32 ∧
      r.edge.answer = .data [0x82, 0, 0, 0x80] ∧ s.canonical = true := by decide +kernel

theorem test_bar0_window_authorized :
    let s := (live0.setF 18 .GLB_BAR0_WIN_DIE 3).setF 18 .DBG_AUTH_STATUS_HELD 1
    (after (.bar0Access 1 (0x1000000 + BitVec.ofNat 26 Reg.CLK_STRETCH_CFG) (some [0, 0, 0, 0]) 4 true) s).flag 3
      .CLK_STRETCH_CFG_EN = false := by decide +kernel

theorem test_bar0_odd_access_is_unmapped :
    let t := after (.bar0Access 0 2 none 4 true) live0
    t.flag 18 .MEM_ERR_UNMAPPED = true ∧ t.edge.answer = .unsupported := by decide +kernel

/-- R240: slot 1 of link 0 maps BASE 0; its offset 0x40 is DPA 0x40. -/
theorem test_bar4_slot :
    let s := live0.setF 18 (.MEM_AP_SLOT_EN 1) 1
    let t := after (.bar4Access 0 (0x400000040#38) (some [1, 2, 3]) 3) s
    s.flag 18 (.MEM_AP_SLOT_RDONLY 1) = false ∧ s.hostRange true 0x40 3 = true ∧ s.touchesParity 0x40 3 = false ∧
      s.clean 0x40 3 = true ∧ t.byte 0x41 = 2 ∧ t.byte 0x43 = 0 ∧
      (after (.bar4Access 0 (0x400000040#38) none 3) t).edge.answer = .data [1, 2, 3] := by decide +kernel

theorem test_bar4_disabled_slot :
    let s := live0.setF 18 (.MEM_AP_SLOT_EN 2) 0
    let t := after (.bar4Access 0 (0x800000000#38) none 4) s
    t.flag 18 .MEM_ERR_UNMAPPED = true ∧ t.edge.answer = .unsupported ∧ t.mem = [] := by decide +kernel

theorem test_bar4_read_only_slot :
    let s := (live0.setF 18 (.MEM_AP_SLOT_EN 1) 1).setF 18 (.MEM_AP_SLOT_RDONLY 1) 1
    let t := after (.bar4Access 0 (0x400000040#38) (some [1]) 1) s
    t.mem = [] ∧ t.flag 18 .MEM_ERR_UNMAPPED = true := by decide +kernel

theorem test_config_before_and_after_link_up :
    (after (.configRequest 0 .deviceId) State.reset).edge.answer = .retry ∧
      (after (.configRequest 0 .deviceId) live0).edge.answer = .data [0x20, 0x48] ∧
      (after (.configRequest 1 .classCode) live0).edge.answer = .data [0, 0, 0x12] ∧
      (after (.configRequest 1 (.setPowerState true)) live0).d3 = [1] := by decide +kernel

/-! Arrays (chapter 3): words written from Tables 3.4 to 3.6. -/

/-- ARR_LDS of an N8 tile, K = N = 32, from location 0 with a column stride of 32 bytes. -/
def ldsN8 : BitVec 128 := BitVec.ofNat 128 (fields [(122, 1), (108, 31), (103, 31), (48, 1)])
/-- ARR_MM in N8: 8 rows of 32, INIT, slot 0, from location 64. -/
def mmN8 : BitVec 128 := BitVec.ofNat 128 (fields [(122, 2), (108, 1), (101, 7), (96, 31), (91, 31), (48, 1), (32, 64)])
def arrWord (op : Nat) (l : List (Nat × Nat)) : BitVec 128 := BitVec.ofNat 128 (fields ((122, op) :: l))
def ins (w : BitVec 128) : AInst := { cmd := 0, ord := 0, w := w }
def withArr (x : Arr) : State := live0.setArr 0 0 0 x
def queued (w : BitVec 128) : State := withArr { Arr.fresh with iq := [ins w] }
def loading (pos : Nat) : AJob := { ins := ins ldsN8, seq := 0, started := true, pos := pos, bad := false, exc := false, stag := [] }
def passing : AJob := { ins := ins mmN8, seq := 0, started := true, pos := 0, bad := false, exc := false, stag := [] }
def arr0 (s : State) : Arr := s.arr 0 0 0

theorem witness_sprig_is_live : live0.live 0 0 = true ∧ live0.arrLive 0 0 0 = true ∧ live0.canonical = true := by decide +kernel

theorem test_issue_unit_places :
    let s := withArr { Arr.fresh with job := some { cmd := 4, a := some mmN8, b := none, cnt := 1, da := 0, db := 0, initFirst := false, next := 0 } }
    ((arr0 (after (.issueUnitPlace 0 0 0) s)).iq.map fun i => i.w) = [mmN8] ∧
      (arr0 (after (.issueUnitPlace 0 0 0) s)).job = none ∧ s.canonical = true := by decide +kernel

theorem test_lds_accepted :
    let s := queued ldsN8
    let t := after (.arrLds 0 0 0) s
    wordIllegal ldsN8 false = false ∧ (arr0 t).iq = [] ∧ (arr0 t).accepted.length = 1 ∧ s.canonical = true := by decide +kernel

theorem test_mm_opens_its_slot :
    let s := queued mmN8
    let t := after (.arrMm 0 0 0) s
    wordIllegal mmN8 false = false ∧ (arr0 s).feederFree = true ∧ (arr0 t).iq = [] ∧ ((arr0 t).tag 3).isOpen = true ∧
      ((arr0 t).tag 4).isOpen = false ∧ (arr0 t).ramp = 1 ∧ t.acc = [] := by decide +kernel

theorem test_drain_marks_slots :
    let w := arrWord 3 [(110, 2), (105, 1)]
    let t := after (.arrDrain 0 0 0) (queued w)
    wordIllegal w false = false ∧ ((arr0 t).tag 2).draining = true ∧ ((arr0 t).tag 3).draining = true ∧
      ((arr0 t).tag 4).draining = false ∧ (arr0 t).accepted.length = 1 := by decide +kernel

/-- R73: N8 with more rows than the mode allows is illegal. -/
theorem test_illegal_words_are_discarded :
    let bad := arrWord 3 [(110, 31), (105, 1)]
    let t := after (.arrDrain 0 0 0) (queued bad)
    wordIllegal bad false = true ∧ t.flag 0 (.ARR_ERR_ILLEGAL 0 0) = true ∧ (arr0 t).iq = [] ∧ (arr0 t).accepted = [] := by
  decide +kernel

theorem witness_illegal_words :
    [arrWord 1 [(0, 1)], arrWord 2 [(0, 1)], arrWord 3 [(0, 1)], arrWord 4 [(114, 1), (0, 1)], arrWord 5 [(0, 1)], arrWord 6 [(0, 1)],
      arrWord 8 [(0, 1)], arrWord 9 [(0, 1)], arrWord 7 []].all (fun w => wordIllegal w false) = true ∧
      wordIllegal (arrWord 9 [(0, 1)]) (storeWide Arr.fresh (arrWord 9 [(0, 1)])) = true := by decide +kernel

theorem test_reserved_opcode_is_discarded :
    (after (.arrMm 0 0 0) (queued (arrWord 7 []))).flag 0 (.ARR_ERR_ILLEGAL 0 0) = true := by decide +kernel

theorem test_swap_flips_staged_and_defers_loading :
    let j := loading 5
    let s := withArr { Arr.fresh with iq := [ins (arrWord 6 [])], accepted := [j], seq := 1, staged := 0x1F#32 }
    let t := after (.arrSwap 0 0 0) s
    wordIllegal (arrWord 6 []) false = false ∧ (arr0 s).feederFree = true ∧ (arr0 t).sel = 0x1F#32 ∧
      (arr0 t).staged = 0 ∧ (arr0 t).deferred 5 = [1] ∧ (arr0 t).deferred 4 = [] ∧ s.canonical = true := by decide +kernel

theorem test_wait_leaves_when_alone :
    (arr0 (after (.arrWait 0 0 0) (queued (arrWord 5 [])))).iq = [] ∧
      idles (.arrWait 0 0 0) (withArr { Arr.fresh with iq := [ins (arrWord 5 [])], accepted := [loading 0], seq := 1 }) = true := by
  decide +kernel

theorem test_ramp_words :
    (arr0 (after (.arrRamp 0 0 0) (queued (arrWord 4 [(114, 1)])))).ramp = 1 ∧
      (arr0 (after (.arrRamp 0 0 0) (withArr { Arr.fresh with iq := [ins (arrWord 4 [])], ramp := 2, cols := 32 }))).ramp = 3 ∧
      wordIllegal (arrWord 4 [(114, 1)]) false = false ∧ wordIllegal (arrWord 4 []) false = false := by decide +kernel

/-- R85: the eighth step of a ramp up ends in ON at 32 columns. -/
theorem test_last_ramp_step :
    let t := after (.rampStep 0 0 0) (withArr { Arr.fresh with ramp := 1, cols := 28 })
    (arr0 t).cols = 32 ∧ (arr0 t).ramp = 2 ∧ (withArr { Arr.fresh with ramp := 1, cols := 28 }).frozen = false := by decide +kernel

theorem test_ramp_reverses :
    let t := after (.rampStep 0 0 0) (withArr { Arr.fresh with ramp := 1, cols := 8, reverse := true })
    let u := after (.rampStep 0 0 0) (withArr { Arr.fresh with ramp := 3, cols := 24, reverse := true })
    (arr0 t).cols = 4 ∧ (arr0 t).ramp = 3 ∧ t.ctr 0 (arrCtr 0 0 4) = 1 ∧ (arr0 u).cols = 28 ∧ (arr0 u).ramp = 1 ∧
      (arr0 (after (.rampStep 0 0 0) (withArr { Arr.fresh with ramp := 3, cols := 4 }))).ramp = 0 := by decide +kernel

theorem test_idle_hold_ramps_down :
    let s := withArr { Arr.fresh with ramp := 2, cols := 32 }
    (arr0 s).onlyLoads = true ∧ (arr0 (after (.idleHoldExpiry 0 0 0) s)).ramp = 3 := by decide +kernel

/-- A load writes column 0 of its tile from sprig SRAM: byte 3 of the column is cell (3, 0) of the inactive slot. -/
theorem test_column_staged :
    let j := loading 0
    let s := (withArr { Arr.fresh with accepted := [j], seq := 1 }).setByte (sramDpa 0 0 3) 0x85
    let t := after (.stationaryColumnWrite 0 0 0) s
    (arr0 t).staged = 1 ∧ (arr0 t).cell 1 3 0 = 0x85#17 ∧ (arr0 t).cell 1 4 0 = 0 ∧ (arr0 t).sel = 0 ∧
      s.clean (sramDpa 0 0 0) 32 = true ∧
      idles (.stationaryColumnWrite 0 0 0) (withArr { Arr.fresh with accepted := [j], seq := 1, staged := 1 }) = true := by decide +kernel

theorem test_deferred_flip :
    let s := withArr { Arr.fresh with tokens := [(7, [0])], seq := 1, staged := 0x80#32 }
    let w := withArr { Arr.fresh with tokens := [(7, [1])], seq := 2, accepted := [loading 3] }
    (arr0 s).deferred 7 = [0] ∧ (arr0 (after (.passTokenFlip 0 0 0 7) s)).activeSlot 7 = 1 ∧
      (arr0 (after (.passTokenFlip 0 0 0 7) s)).deferred 7 = [] ∧ s.canonical = true ∧
      (arr0 w).loadBefore 1 7 = true ∧ idles (.passTokenFlip 0 0 0 7) w = true := by decide +kernel

/-- One streamed row [2, 0, ...] against the weight 3 at cell (0, 0) gives 6 at column 0. -/
theorem test_streamed_row :
    let j := passing
    let s := (withArr { Arr.fresh with accepted := [j], seq := 1, ramp := 2, cols := 32, cells := [(0, 3)], modes := [(0, 1)] }).setByte
      (sramDpa 0 0 (32 * 64)) 2
    let t := after (.streamedRowIssue 0 0 0) s
    s.clean (sramDpa 0 0 (32 * 64)) 32 = true ∧ ((arr0 t).results.map fun r => (r.row, r.col, r.val)).take 2 = [(0, 0, .int 6), (0, 1, .int 0)] ∧
      (arr0 t).accepted.length = 1 ∧ t.acc = [] ∧
      idles (.streamedRowIssue 0 0 0) (s.setF 0 .CLK_STATUS_FSTALL 1) = true := by decide +kernel

theorem test_watchdog_once :
    let j := loading 0
    let t := after (.operandWatchdog 0 0 0) (withArr { Arr.fresh with accepted := [j], seq := 1, staged := 1 })
    t.flag 0 (.ARR_ERR_WDOG 0 0) = true ∧ (arr0 t).wdog = true ∧ idles (.operandWatchdog 0 0 0) t = true := by decide +kernel

/-- R77: a load waits for a column that a token accepted before it has yet to pass, though nothing is staged there. -/
theorem test_load_waits_for_a_token :
    let late : AJob := { loading 0 with seq := 3 }
    let s := withArr { Arr.fresh with accepted := [late], seq := 4, tokens := [(0, [2])] }
    (arr0 s).inUse 3 0 = true ∧ (arr0 s).staged = 0 ∧ idles (.stationaryColumnWrite 0 0 0) s = true := by decide +kernel

/-- R87: DIR 0 in UP asks for the reversal and stays accepted; the step that reverses retires it. Log 97: at no columns it ends OFF. -/
theorem test_reversal_word_retires_at_its_step :
    let s := withArr { Arr.fresh with iq := [ins (arrWord 4 [])], ramp := 1, cols := 0 }
    let t := after (.arrRamp 0 0 0) s
    let u := after (.rampStep 0 0 0) t
    (arr0 s).onlyLoads = true ∧ (arr0 t).iq = [] ∧ (arr0 t).reverse = true ∧ (arr0 t).accepted.length = 1 ∧
      (arr0 u).accepted = [] ∧ (arr0 u).ramp = 0 ∧ (arr0 u).cols = 0 := by decide +kernel

/-- The accumulator words that the results, drains, loads and stores of these tests use stand in clean codewords. -/
theorem witness_accumulator_is_clean : live0.accClean 0 0 0 0 0 = true ∧ live0.accClean 0 0 0 31 255 = true := by decide +kernel

/-! Results, drains, accumulators (chapters 3 and 4). -/

def result0 (col elem : Nat) : PassRes :=
  { seq := 0, row := 0, col := col, mode := 0, init := false, slot := 0, elem := elem, val := .int 6, cause := 0, poison := false }
def accInt (s : State) (slot e : Nat) : Int := (s.elem 0 0 0 slot e).w
def tagged (n mode : Nat) : Store SlotTag :=
  (List.range n).map fun i => (i, { isOpen := true, mode := mode, wide := true, stag := 0, draining := false })

/-- 5 in the element, 6 from the pass: 11; the result of column 1 waits on. -/
theorem test_pass_result_adds :
    let s := (withArr { Arr.fresh with accepted := [passing], seq := 1, results := [result0 0 0, result0 1 1] }).setElem 0 0 0 0 0
      { Elem.empty with w := 5 }
    let t := after (.passResultWrite 0 0 0 0) s
    s.canonical = true ∧ fitsWidth (intWidth 0) 11 = true ∧ accInt t 0 0 = 11 ∧ (arr0 t).results = [result0 1 1] ∧ accInt t 0 1 = 0 := by
  decide +kernel

/-- R102: a sum outside the width leaves the element and is reported. -/
theorem test_pass_result_overflows :
    let s := (withArr { Arr.fresh with accepted := [passing], seq := 1, results := [result0 0 0] }).setElem 0 0 0 0 0
      { Elem.empty with w := 2 ^ 47 - 1 }
    let t := after (.passResultWrite 0 0 0 0) s
    fitsWidth (intWidth 0) (2 ^ 47 + 5) = false ∧ (s.elem 0 0 0 0 0).poison = false ∧ t.regs ≠ s.regs := by
  decide +kernel

theorem test_drain_completes :
    let j : AJob := { ins := ins (arrWord 3 [(110, 2), (105, 1)]), seq := 3, started := true, pos := 0, bad := false, exc := false, stag := [] }
    let s := (withArr { Arr.fresh with accepted := [j], seq := 4, tags := [(2, { isOpen := false, mode := 0, wide := true, stag := 0, draining := true })] }).setElem
      0 0 0 3 7 { Elem.empty with w := 9 }
    let t := after (.drainComplete 0 0 0) s
    s.canonical = true ∧ slotsOf j.ins.w = [2, 3] ∧ accInt s 3 7 = 9 ∧ accInt t 3 7 = 0 ∧ (arr0 t).tag 2 = SlotTag.free ∧
      (arr0 t).accepted = [] := by decide +kernel

/-- ACC_LOAD N8 converted Q8, one slot, rows of 32, from location 4 with a row stride of 1. -/
def loadQ8 (add : Nat) : BitVec 128 := arrWord 8 [(107, add), (106, 1), (64, 1), (48, 4)]

theorem witness_acc_load :
    let s := queued (loadQ8 0)
    let w := loadQ8 0
    wordIllegal w false = false ∧ tagsAccept (arr0 s) (slotsOf w) 0 (ldWide w) (ldStag w) true = true ∧ slotsOf w = [0] ∧
      (arr0 s).waits w 0 = false ∧ s.canonical = true ∧ awMode w = 0 ∧ accFmt w = 0 ∧
      ((tileElems w 1 true).all fun y => s.clean (loadAt 0 0 w 0 y.1 y.2.1) 1) = true := by decide +kernel

/-- Byte 33 of the tile is row 1, column 1: element 33. -/
theorem test_acc_load :
    let s := (queued (loadQ8 0)).setByte (sramDpa 0 0 (32 * 4 + 33)) 0xFE
    let t := after (.accLoad 0 0 0) s
    accInt t 0 33 = -2 ∧ accInt t 0 32 = 0 ∧ ((arr0 t).tag 0).isOpen = true ∧ (arr0 t).accepted = [] ∧ t.mem = s.mem := by decide +kernel

theorem test_acc_load_adds :
    let x := { Arr.fresh with iq := [ins (loadQ8 1)], tags := tagged 1 0 }
    let s := ((withArr x).setByte (sramDpa 0 0 (32 * 4 + 33)) 0xFE).setElem 0 0 0 0 33 { Elem.empty with w := 10 }
    accInt (after (.accLoad 0 0 0) s) 0 33 = 8 := by decide +kernel

/-- A pass that still uses slot 0 makes the load wait, and SLOT_ACCESS_START leaves it waiting. -/
theorem test_acc_load_waits :
    let x := { Arr.fresh with iq := [ins (loadQ8 1)], tags := tagged 4 0, accepted := [passing], seq := 1 }
    let s := (withArr x).setByte (sramDpa 0 0 (32 * 4)) 1
    let t := after (.accLoad 0 0 0) s
    (arr0 s).waits (loadQ8 1) 1 = true ∧ (arr0 t).accepted.length = 2 ∧ t.acc = [] ∧ idles (.slotAccessStart 0 0 0) t = true := by
  decide +kernel

/-- ACC_STORE spilled, one slot, to location 2: element 3 lies 48 bytes on. -/
def storeSpill (free : Nat) : BitVec 128 := arrWord 9 [(115, 1), (107, free), (48, 2)]

/-- The hypotheses of a store that frees; one that waits for a pass samples its tag and marks its slot draining. -/
theorem witness_acc_store :
    let x := { Arr.fresh with iq := [ins (storeSpill 1)], tags := tagged 1 0 }
    let s := (withArr x).setElem 0 0 0 0 3 { Elem.empty with w := 0x1234 }
    wordIllegal (storeSpill 1) true = false ∧ storeTag (arr0 s) (ins (storeSpill 1)) = false ∧ s.canonical = true ∧
      slotsOf (storeSpill 1) = [0] ∧ (arr0 s).waits (storeSpill 1) 0 = false ∧
      ((List.range 256).all fun k => s.clean (storeAt 0 0 (storeSpill 1) k 0 0) 16) = true := by decide +kernel

theorem test_acc_store_waits :
    let x := { Arr.fresh with iq := [ins (storeSpill 1)], tags := tagged 4 0, accepted := [passing], seq := 1 }
    let t := after (.accStore 0 0 0) (withArr x)
    (arr0 t).accepted.length = 2 ∧ ((arr0 t).tag 0).draining = true ∧ ((arr0 t).tag 1).draining = false ∧ t.mem = [] ∧
      idles (.slotAccessStart 0 0 0) t = true := by decide +kernel

/-- Table 4.9: an integer spill entry is the word's 127 bits; a float one holds the anchor at 116 and the sticky at 126. -/
theorem test_spill_entries :
    ({ Elem.empty with w := -1 } : Elem).spill false = 2 ^ 127 - 1 ∧
      ({ w := 3, anchor := -1, sticky := true, poison := true } : Elem).spill true = 3 + 1023 * 2 ^ 116 + 2 ^ 126 + 2 ^ 127 := by
  decide +kernel

theorem test_slot_access_start_of_a_pass :
    let j : AJob := { passing with started := false }
    let t := after (.slotAccessStart 0 0 0) (withArr { Arr.fresh with accepted := [j], seq := 1 })
    (arr0 t).accepted = [passing] := by decide +kernel

/-! The outlier side unit, the scalar core and its queues (chapters 4 and 6). -/

/-- An outlier record with COUNT 2: entry 0 has rho = 1.5 (L16 0x3FC0), entry 1 rho = -1.5; weights are Q8. The weight of column n
for k = 1 lies at byte 1 of location n. 1.5 x 3 = 4.5 rounds to 4 (even); row 9 lies in the slot after the first. -/
theorem test_outlier_side_add :
    let at0 := dpa 0 0 0
    let s := (((live0.setByte at0 2).setByte (at0 + 18) 0xC0).setByte (at0 + 19) 0x3F).setByte (sramDpa 0 0 (32 * 7 + 33)) 3
    let t := after (.outlierSideAdd 0 0 0 (BitVec.ofNat 52 at0) 0 9 4 7 1 false 1 1) s
    s.canonical = true ∧ s.jobRange at0 272 = true ∧ s.clean at0 272 = true ∧ l16Val 0x3FC0 = some (3 / 2) ∧
      accInt t 5 33 = 4 ∧ accInt t 5 32 = 0 ∧ t.acc.length = 1 ∧ t.mem = s.mem := by decide +kernel

/-- The four columns of a PK4 tile's slot (Table 4.1): row 9 of the narrow slot 4 lies at elements 16 x 9 on, of the same slot. -/
theorem test_outlier_side_add_narrow :
    let at0 := dpa 0 0 0
    let x := { Arr.fresh with tags := [(4, { isOpen := true, mode := 0, wide := false, stag := 0, draining := false })] }
    let s := ((((withArr x).setByte at0 2).setByte (at0 + 18) 0xC0).setByte (at0 + 19) 0x3F).setByte (sramDpa 0 0 (32 * 7 + 33)) 3
    let t := after (.outlierSideAdd 0 0 0 (BitVec.ofNat 52 at0) 0 9 4 7 1 false 1 1) s
    s.canonical = true ∧ accInt t 4 145 = 4 ∧ t.acc.length = 1 ∧ t.mem = s.mem ∧ s.accClean 0 0 0 4 145 = true := by decide +kernel

def withGprs (l : List (Nat × Nat)) : State := l.foldl (fun s x => s.setGpr 0 0 x.1 (BitVec.ofNat 64 x.2)) live0
def gprAfter (i : Instr) (s : State) (r : Nat) : Nat := ((after i s).gpr 0 0 r).toNat

theorem test_movi : gprAfter (.movi 0 0 3 0xFFFF) (withGprs [(3, 2 ^ 40)]) 3 = 0xFFFF := by decide +kernel
theorem test_add_wraps : gprAfter (.add 0 0 1 1 2) (withGprs [(1, 2 ^ 64 - 1), (2, 2)]) 1 = 1 := by decide +kernel
theorem test_sub_wraps : gprAfter (.sub 0 0 1 2 1) (withGprs [(1, 3), (2, 2)]) 1 = 2 ^ 64 - 1 := by decide +kernel
theorem test_and_or : gprAfter (.and 0 0 3 1 2) (withGprs [(1, 12), (2, 10)]) 3 = 8 ∧
    gprAfter (.or 0 0 3 1 2) (withGprs [(1, 12), (2, 10)]) 3 = 14 := by decide +kernel
theorem test_shifts : gprAfter (.shl 0 0 3 1 2) (withGprs [(1, 3), (2, 63)]) 3 = 2 ^ 63 ∧
    gprAfter (.shr 0 0 3 1 2) (withGprs [(1, 2 ^ 62), (2, 62)]) 3 = 1 := by decide +kernel

/-- 1.5 + 2.25 = 3.75 in binary32; 1 / 3 has no place here: 65504 + 65504 overflows binary16 (flags OF and NX). -/
theorem test_fadd : gprAfter (.fadd 0 0 3 1 2 false 0) (withGprs [(1, 0x3FC00000), (2, 0x40100000)]) 3 = 0x40700000 ∧
    gprAfter (.fadd 0 0 3 1 2 true 0) (withGprs [(1, 0x7BFF), (2, 0x7BFF)]) 3 = 0x7C00 ∧
    (after (.fadd 0 0 3 1 2 true 0) (withGprs [(1, 0x7BFF), (2, 0x7BFF)])).reg 0 (Reg.SPRG_FPSR 0) ≠ 0 := by decide +kernel
theorem test_fmul : gprAfter (.fmul 0 0 3 1 2 false 0) (withGprs [(1, 0x3FC00000), (2, 0x40100000)]) 3 = 0x40580000 := by decide +kernel
theorem test_ffma : gprAfter (.ffma 0 0 3 1 2 4 false 0) (withGprs [(1, 0x3FC00000), (2, 0x40100000), (4, 0xC0580000)]) 3 = 0 := by
  decide +kernel
/-- 1 + 2^-11 is halfway between two binary16 numbers and rounds to 1, the even one; mode 1 rounds toward zero. -/
theorem test_fcvt : gprAfter (.fcvt 0 0 3 1 true 0) (withGprs [(1, 0x3F801000)]) 3 = 0x3C00 ∧
    gprAfter (.fcvt 0 0 3 1 false 0) (withGprs [(1, 0x3C01)]) 3 = 0x3F802000 := by decide +kernel

theorem test_ld32_st32 :
    let s := withGprs [(1, 0x100), (2, 0xAABBCCDD11223344)]
    let t := after (.st32 0 0 2 1 1) s
    t.bytes (sramDpa 0 0 0x104) 4 = [0x44, 0x33, 0x22, 0x11] ∧ gprAfter (.ld32 0 0 5 1 1) t 5 = 0x11223344 ∧
      t.mem.length = 4 ∧ s.canonical = true ∧ idles (.ld32 0 0 5 1 0) (withGprs [(1, 0x102)]) = true ∧
      idles (.st32 0 0 5 1 0) (withGprs [(1, 0x400000)]) = true := by decide +kernel

theorem test_ld32_window :
    gprAfter (.ld32 0 0 5 1 0) ((withGprs [(1, 0x1000000 + Reg.SPRG_STEP 0 - sprigBase 0)]).setReg 0 (Reg.SPRG_STEP 0) 77) 5 = 77 ∧
      sramSize ≤ 0x400000 := by decide +kernel

theorem test_ldtag :
    let s := (withGprs [(1, 64), (2, 3)]).setByte (sramDpa 0 0 64) 0x5A
    let t := after (.ldtag 0 0 2 1 0) s
    t.reg 0 (stagBase 0 3) = 0x5A ∧ s.clean (sramDpa 0 0 64) 32 = true ∧
      idles (.ldtag 0 0 2 1 1) s = true := by decide +kernel

/-! Commands. -/

/-- A command of 64 bytes from bytes at their places; EPOCH and the rest zero. -/
def cmdOf (l : List (Nat × Nat)) : List Byte :=
  (List.range 64).map fun i => BitVec.ofNat 8 (((l.find? fun x => x.1 = i).map (·.2)).getD 0)
def entry (b : List Byte) : QEntry := { bytes := b, tick := 0, cmd := 0 }
/-- A command at the head of queue 2 of sprig 0. -/
def heading (b : List Byte) : State := live0.setQue 0 0 2 { Queue.fresh with entries := [entry b] }
/-- The little-endian bytes of a word, from place `o`. -/
def place (o n v : Nat) : List (Nat × Nat) := (List.range n).map fun i => (o + i, v / 256 ^ i % 256)

def arrCmd : List Byte := cmdOf ([(0, 0)] ++ place 16 16 (arrWord 5 []).toNat)
def dmaCmd : List Byte := cmdOf ([(0, 0x20), (1, 0x41)] ++ place 16 7 (dpa 0 0 0x1000) ++ place 24 7 (dpa 0 1 0x2000) ++ place 32 2 64)
def engCmd : List Byte := cmdOf [(0, 0x40)]
def sendCmd : List Byte := cmdOf ([(0, 0x60)] ++ place 16 4 (33 + 1023 * 2 ^ 18))
def barrierCmd : List Byte := cmdOf ([(0, 0x80)] ++ place 16 4 5)
def waitCmd : List Byte := cmdOf [(0, 0x81), (16, 56), (17, 1)]
def ctxCmd : List Byte := cmdOf ([(0, 0xC0), (1, 0x40)] ++ place 16 4 0x1234)
/-- MOVI r3, 0x55 as the only word of an SCL command. -/
def sclCmd : List Byte := cmdOf ([(0, 0xA0)] ++ place 16 4 (0x04000000 + 3 * 2 ^ 21 + 0x55))

def acts (b : List Byte) : Bool :=
  let s := heading b
  decide (s.pickQueue 0 0 = some 2) && (s.headDiscard 0 0 b).isNone && !s.bpMatch 0 0 b && s.canonical

/-- Every head lies in clean codewords, and the engine, event and receive queues that the dispatches use have room. -/
theorem witness_head_is_clean : [arrCmd, dmaCmd, engCmd, sendCmd, barrierCmd, waitCmd, ctxCmd, sclCmd].all (fun b =>
      (heading b).headClean 0 0 2 && (heading b).eventRoom 0 0 (56 + cmdCq b)) = true := by decide +kernel

theorem witness_heads : [arrCmd, dmaCmd, engCmd, sendCmd, barrierCmd, waitCmd, ctxCmd, sclCmd].all (fun b => acts b || cmdClass b == 4) = true ∧
    acts barrierCmd = true := by decide +kernel

/-! Dispatch, discard, breakpoint, completions (chapter 6). -/

def dispatched (i : Instr) (b : List Byte) : State := after i (heading b)
/-- It left queue 2 and flies. -/
def flown (t : State) (b : List Byte) : Bool :=
  (t.que 0 0 2).entries.isEmpty && (t.spr 0 0).last == some 2 && ((t.spr 0 0).cmds.map fun c => c.bytes) == [b]

theorem test_arr_command : (let t := dispatched (.arrCommand 0 0) arrCmd
    flown t arrCmd = true ∧ ((t.arr 0 0 0).job.map fun j => (j.a, j.b, j.cnt)) = some (some (arrWord 5 []), none, 1)) := by decide +kernel
theorem test_dma_command : (let t := dispatched (.dmaCommand 0 0) dmaCmd
    flown t dmaCmd = true ∧ ((t.que 0 0 16).entries.map fun e => e.bytes) = [dmaCmd]) := by decide +kernel
theorem test_eng_command : (let t := dispatched (.engCommand 0 0) engCmd
    flown t engCmd = true ∧ (t.que 0 0 48).entries.length = 1 ∧ ((heading engCmd).eng 0 .chv).st = .enabled) := by decide +kernel
theorem test_que_send : (let t := dispatched (.queSend 0 0) sendCmd
    flown t sendCmd = true ∧ ((t.spr 0 0).sends.map fun x => (x.qid, x.module)) = [(33, 1023)]) := by decide +kernel
theorem test_sync_barrier : (let t := dispatched (.syncBarrier 0 0) barrierCmd
    flown t barrierCmd = true ∧ (t.barriers.map fun x => (x.id, x.arrived)) = [(5, [(0, 0)])]) := by decide +kernel
theorem test_sync_waitq : (let t := dispatched (.syncWaitq 0 0) waitCmd
    (heading waitCmd).pickQueue 0 0 = some 2 ∧ flown t waitCmd = true) := by decide +kernel

/-- With an entry in event queue 56 the WAITQ removes it as it completes. -/
theorem test_sync_waitq_completes :
    let s := (heading waitCmd).setQue 0 0 56 { Queue.fresh with entries := [entry ctxCmd] }
    let t := after (.syncWaitq 0 0) s
    (t.spr 0 0).cmds = [] ∧ (t.que 0 0 2).entries = [] ∧ (t.que 0 0 56).entries = [] ∧ s.canonical = true := by decide +kernel

/-- CTX STEP writes SPRG_STEP, and its completion (Table 6.9) echoes the command's first 16 bytes, status 0. -/
theorem test_ctx_step :
    let t := dispatched (.ctxStep 0 0) ctxCmd
    t.reg 0 (Reg.SPRG_STEP 0) = 0x1234 ∧ (t.spr 0 0).cmds = [] ∧ (heading ctxCmd).eventRoom 0 0 56 = true ∧
      (t.que 0 0 56).entries.length = 1 := by decide +kernel
theorem test_scl : (let t := dispatched (.scl 0 0) sclCmd
    sclWords sclCmd = [0x04600055] ∧ t.gpr 0 0 3 = 0x55 ∧ (t.spr 0 0).cmds = [] ∧ (t.que 0 0 2).entries = []) := by decide +kernel

/-- R156: an epoch that is not the sprig's discards the command with FAULT; a reserved bit with BAD_ARG. -/
theorem test_illegal_heads :
    let stale := cmdOf [(0, 0xC0), (9, 1)]
    let odd := cmdOf [(0, 0xC0), (1, 8)]
    let t := dispatched (.ctxStep 0 0) stale
    let u := dispatched (.ctxStep 0 0) odd
    (heading stale).illegalCmd 0 0 stale = some rcFault ∧ (heading odd).illegalCmd 0 0 odd = some rcBadArg ∧
      (heading stale).pickQueue 0 0 = some 2 ∧ t.flag 0 (.SPRG_ERR_EPOCH 0) = true ∧ (t.que 0 0 56).entries.length = 1 ∧
      u.flag 0 (.SPRG_ERR_ILLEGAL 0) = true ∧ u.flag 0 (.SPRG_ERR_EPOCH 0) = false ∧ (u.que 0 0 2).entries = [] := by decide +kernel

def armed (b : List Byte) : State :=
  ((((heading b).setF 0 .DBG_BP_CTL_ARM 1).setF 0 .DBG_BP_CTL_ANY_LAYER 1).setF 0 .DBG_BP_CTL_ANY_OPER 1).setF 0 .DBG_BP_CTL_MBID 0xFFFF

theorem test_breakpoint_holds :
    let s := armed ctxCmd
    let t := after (.ctxStep 0 0) s
    s.bpMatch 0 0 ctxCmd = true ∧ s.pickQueue 0 0 = some 2 ∧ s.canonical = true ∧ t.stop.held = some (0, 0, 2) ∧
      (t.que 0 0 2).entries.length = 1 ∧ t.flag 0 .DBG_BP_CTL_ARM = false ∧ t.reg 0 (Reg.SPRG_STEP 0) = 0 := by decide +kernel

/-! DMA, SEND, fetch (chapters 6 and 10). -/

def dmaQueued : State := dispatched (.dmaCommand 0 0) dmaCmd

theorem test_dma_transfer :
    let s := dmaQueued.setByte (dpa 0 0 0x1005) 0x77
    let t := after (.dmaTransferStart 0 0) s
    let u := after (.dmaTransferComplete 0 0 0) t
    s.dmaPick 0 0 = some 16 ∧ (t.spr 0 0).dma.length = 1 ∧ u.byte (dpa 0 1 0x2005) = 0x77 ∧ (u.spr 0 0).dma = [] ∧
      (u.spr 0 0).cmds = [] ∧ (u.que 0 0 57).entries.length = 1 ∧ s.canonical = true ∧ idles (.dmaTransferStart 0 0) u = true := by
  decide +kernel

theorem witness_dma_transfer :
    let s := after (.dmaTransferStart 0 0) dmaQueued
    s.live 0 0 = true ∧ s.dmaStalled 0 0 = false ∧ s.dmaReaches 0 dmaCmd = true ∧ dmaQueued.headClean 0 0 16 = true ∧
      s.jobRange (dpa 0 0 0x1000) 64 = true ∧ s.jobRange (dpa 0 1 0x2000) 64 = true ∧ s.clean (dpa 0 0 0x1000) 64 = true ∧
      s.clean (dpa 0 1 0x2000) 64 = true ∧ s.touchesParity (dpa 0 1 0x2000) 64 = false ∧ s.eventRoom 0 0 57 = true := by decide +kernel

/-- A destination that reserves space 3 is unmapped. -/
theorem test_dma_unmapped :
    let bad := cmdOf ([(0, 0x20), (1, 0x41)] ++ place 16 7 (dpa 0 0 0x1000) ++ place 24 7 (dpa 0 3 0x2000) ++ place 32 2 64)
    let t := after (.dmaTransferComplete 0 0 0) (after (.dmaTransferStart 0 0) (dispatched (.dmaCommand 0 0) bad))
    t.flag 0 .MEM_ERR_UNMAPPED = true ∧ t.mem = [] ∧ (t.spr 0 0).cmds = [] ∧ (t.que 0 0 57).entries.length = 1 := by decide +kernel

theorem test_send_receive :
    let s := dispatched (.queSend 0 0) sendCmd
    let t := after (.sendReceive 0 0 2 true) s
    s.modIx = 1023 ∧ s.sendTarget 33 = some (0, 0, 33) ∧ (t.que 0 0 33).entries.length = 1 ∧ (t.spr 0 0).sends = [] ∧ (t.spr 0 0).cmds = [] ∧
      (s.setQue 0 0 33 { Queue.fresh with st := .disabled }).sendTarget 33 = none := by decide +kernel

/-- R162: a SEND to another module leaves for it. -/
theorem test_send_to_a_module :
    let far := cmdOf ([(0, 0x60)] ++ place 16 4 (33 + 2 ^ 18))
    let t := after (.sendReceive 0 0 2 true) (dispatched (.queSend 0 0) far)
    (t.spr 0 0).sends = [] ∧ t.outbox.length = 1 ∧ (dispatched (.queSend 0 0) far).sendWait 1 = none := by decide +kernel

/-- R177, R181: a request to an engine that is not enabled is cancelled as it would be dispatched. -/
theorem test_request_to_a_disabled_engine :
    let s := after (.drainEnd (.engine 0 .chv)) (after (.engineDisable 0 .chv) (heading engCmd))
    let t := after (.engCommand 0 0) s
    (s.eng 0 .chv).st = .disabled ∧ (t.que 0 0 2).entries = [] ∧ (t.spr 0 0).cmds = [] ∧ (t.que 0 0 48).entries = [] ∧
      (t.que 0 0 56).entries.length = 1 := by decide +kernel

/-! Faults, enables, drains (chapter 6). -/

theorem test_sprig_fault :
    let s := heading ctxCmd
    let t := after (.sprigFault 0 0) s
    s.failed 0 0 = false ∧ s.logicalOf 0 0 = some 0 ∧ t.getF 0 (.SPRG_MAP_FAILED 0) = 1 ∧ (t.que 0 0 2).entries = [] ∧
      Store.get 0 t.repair 0 = t.reg 0 (Reg.SPRG_MAP 0) ∧ s.logicalOf 0 16 = none ∧
      (after (.sprigFault 0 16) s).sprigs = s.sprigs := by decide +kernel

theorem test_enables_and_drains :
    let s := heading ctxCmd
    let a := after (.sprigDisable 0 0) s
    let b := after (.drainEnd (.sprig 0 0)) (after (.sprigDisable 0 0) live0)
    let q := after (.queueDisable 0 0 2) s
    let e := after (.engineDisable 0 .ats) s
    a.flag 0 (.SPRG_CTL_EN 0) = false ∧ (a.spr 0 0).st = .draining ∧ (b.spr 0 0).st = .disabled ∧
      ((after (.sprigEnable 0 0) b).spr 0 0).st = .enabled ∧ ((after (.sprigEnable 0 0) a).spr 0 0).st = .draining ∧
      (q.que 0 0 2).st = .draining ∧ ((after (.drainEnd (.queue 0 0 2)) q).que 0 0 2).st = .disabled ∧
      ((after (.queueEnable 0 0 2) (after (.drainEnd (.queue 0 0 2)) q)).que 0 0 2).entries = [] ∧
      (e.eng 0 .ats).st = .draining ∧ ((after (.drainEnd (.engine 0 .ats)) e).eng 0 .ats).st = .disabled ∧
      ((after (.engineEnable 0 .ats) e).eng 0 .ats).enReq = true := by decide +kernel

theorem test_drain_timeouts :
    let s := after (.sprigDisable 0 0) (dispatched (.arrCommand 0 0) arrCmd)
    let q := after (.queueDisable 0 0 16) (after (.dmaTransferStart 0 0) dmaQueued)
    let t := after (.drainTimeout (.sprig 0 0)) s
    s.sprigBusy 0 0 = true ∧ t.flag 0 (.SPRG_ERR_DRAIN_TMO 0) = true ∧ (arr0 t).accepted = [] ∧ q.queueWork 0 0 16 ≠ [] ∧
      (after (.drainTimeout (.queue 0 0 16)) q).flag 0 (.SPRG_ERR_DRAIN_TMO 0) = true := by decide +kernel

/-! Completions that wait, engines (chapters 6 and 7). -/

def full (b : List Byte) : Queue := { Queue.fresh with entries := List.replicate 64 (entry b) }
def stalledState (c : Bool) : State :=
  (live0.modSpr 0 0 fun x => { x with stalled := [{ q := 56, bytes := ctxCmd, cancelled := c }] }).setQue 0 0 56 (full waitCmd)

theorem test_stalled_completions :
    let t := after (.cancelledCompletionWrite 0 0) (stalledState true)
    let u := after (.eventQueueFullService 0 0 0) (stalledState false)
    (t.spr 0 0).stalled = [] ∧ (t.que 0 0 56).entries.length = 64 ∧ (u.spr 0 0).stalled = [] ∧
      ((u.que 0 0 56).entries.getLast?.map fun e => e.bytes) = some ctxCmd ∧ u.fwInbox.head? = some (0, waitCmd) ∧
      (stalledState true).canonical = true := by decide +kernel

/-! Engines and Fennel (chapters 7, 8 and 11). -/

/-- Nonzero bytes stored from an address. -/
def storing (s : State) (a : Nat) (l : List (Nat × Nat)) : State := l.foldl (fun s x => s.setByte (a + x.1) (BitVec.ofNat 8 x.2)) s
/-- A request with OP, its descriptor at offset 0x40 of shared SRAM, and its command in flight on sprig 0 with COMPL. -/
def reqBytes (eng op : Nat) (l : List (Nat × Nat)) : List Byte := cmdOf ([(0, 0x40 + eng), (1, 0x40), (16, op), (18, 0x40)] ++ l)
def requesting (eng op : Nat) (l desc : List (Nat × Nat)) : State :=
  let b := reqBytes eng op l
  let s := (live0.modSpr 0 0 fun x => { x with cmds := [{ id := 0, q := 2, bytes := b, step := 9, left := 1, fail := none }], nextCmd := 1 })
  storing (s.setQue 0 0 (48 + eng) { Queue.fresh with entries := [entry b] }) (dpa 0 1 0x40) desc

theorem test_idle_engines : idles (.fwd 0) live0 = true ∧ idles (.chervilRequest 0) live0 = true ∧ idles (.update 0) live0 = true ∧
    idles (.xreduce 0 [] []) live0 = true := by decide +kernel

/-- A reserved FLAGS bit makes a request malformed: BADREQ, BAD_ARG (12 decimal or as Table 6.10 has it), and nothing written. -/
theorem test_malformed_requests :
    let s := requesting 1 1 [(17, 0x80)] []
    let t := after (.fwd 0) s
    (s.nextRequest 0 .ats).isSome = true ∧ s.canonical = true ∧ t.flag 0 (.ENG_ERR_BADREQ 0) = true ∧ t.mem = s.mem ∧
      ((t.eng 0 .ats).accepted.map fun r => r.status) = [rcBadArg] ∧ (t.que 0 0 49).entries = [] ∧ (t.eng 0 .ats).last = some 0 ∧
      idles (.delta 0) s = true := by decide +kernel

theorem test_malformed_request_rows :
    (after (.rms 0) (requesting 2 1 [(17, 0x80)] [])).flag 0 (.ENG_ERR_BADREQ 1) = true ∧
      (after (.gather 0) (requesting 3 1 [(17, 0x80)] [])).flag 0 (.ENG_ERR_BADREQ 2) = true ∧
      (after (.update 0) (requesting 5 1 [(17, 0x80)] [])).flag 0 .UPD_ERR_BADREQ = true ∧
      (after (.emuMm 0 .ats) (requesting 1 16 [(17, 0x80)] [])).flag 0 (.ENG_ERR_BADREQ 0) = true := by decide +kernel

/-- MOVE of 2 x 1 x 1 Q8 elements with source stride 1 and destination stride 3 (R202). -/
def moving : State :=
  storing (requesting 4 1 (place 24 7 (dpa 0 0 0x100) ++ place 32 7 (dpa 0 0 0x200))
    ([(0, 1)] ++ place 4 4 2 ++ place 8 4 1 ++ place 12 4 1 ++ place 16 4 1 ++ place 28 4 3)) (dpa 0 0 0x100) [(0, 7), (1, 8)]

theorem test_move :
    let t := after (.move 0) moving
    moving.canonical = true ∧ t.byte (dpa 0 0 0x200) = 7 ∧ t.byte (dpa 0 0 0x203) = 8 ∧ t.byte (dpa 0 0 0x201) = 0 ∧
      ((t.eng 0 .lay).accepted.map fun r => r.status) = [rcOk] := by decide +kernel

/-- Its completion enters event queue 56 and leaves the engine. -/
theorem test_engine_completion :
    let t := after (.engineCompletion 0 .lay) (after (.move 0) moving)
    (t.eng 0 .lay).accepted = [] ∧ (t.spr 0 0).cmds = [] ∧ (t.que 0 0 56).entries.length = 1 ∧
      (moving.frozen = false) := by decide +kernel

def fnlDesc (l : List (Nat × Nat)) : List (Nat × Nat) := place 0 4 0x77 ++ [(32, 1)] ++ l

/-- CONTRIB of two Q16 elements 5 and -1 into a buffer that holds 10 and 0: 15 and -1. -/
def contributing : State :=
  storing (storing (requesting 6 1 (place 24 7 (dpa 0 0 0x100) ++ place 32 7 (dpa 0 0 0x200)) (fnlDesc [(12, 2)]))
    (dpa 0 0 0x100) [(0, 5), (2, 0xFF), (3, 0xFF)]) (dpa 0 0 0x200) [(0, 10)]

theorem test_contrib :
    let t := after (.contrib 0) contributing
    contributing.canonical = true ∧ t.bytes (dpa 0 0 0x200) 8 = [15, 0, 0, 0, 0xFF, 0xFF, 0xFF, 0xFF] ∧ (t.reduction 0x77).isSome = true ∧
      ((t.eng 0 .fnl).accepted.map fun r => r.status) = [rcOk] := by decide +kernel

theorem test_contrib_of_another_epoch :
    let s := contributing.setFnl fun f => { f with reds := [{ rid := 0x77, epoch := 3, sets := [], frames := [], due := none }] }
    let t := after (.contrib 0) s
    t.mem = s.mem ∧ t.flag 0 .FNL_ERR_EPOCH = true := by decide +kernel

/-- The request of `contributing` as it waits held poisoned; `redo`: it reruns. -/
def retrying (redo : Bool) : State :=
  match contributing.fnlNext 0 (fun o => o ≠ 2) with
  | some (s, j, _) => s.setWaits 0 [j.wait true redo]
  | none => contributing

/-- A retry completes its request; a rerun does the same and reports nothing (R329, R374). -/
theorem test_fennel_retry_and_rerun :
    let t := after (.contrib 0) (retrying false)
    let u := after (.contrib 0) (retrying true)
    (retrying true).canonical = true ∧ ((t.eng 0 .fnl).accepted.map fun r => r.status) = [rcOk] ∧ (u.eng 0 .fnl).accepted = [] ∧
      u.fnlWaits 0 = [] ∧ u.bytes (dpa 0 0 0x200) 1 = [15] ∧ u.ctr 0 (dieCtr 37) = 1 := by decide +kernel

theorem test_malformed_fennel_request :
    let s := requesting 6 2 [(17, 2)] (fnlDesc [])
    let t := after (.xreduce 0 [] []) s
    t.flag 0 .FNL_ERR_BADREQ = true ∧ ((t.eng 0 .fnl).accepted.map fun r => r.status) = [rcBadArg] ∧ s.canonical = true := by decide +kernel

theorem test_rid_hold_expiry :
    let s := live0.setFnl fun f => { f with held := [(3, 500, [])] }
    let t := after (.ridHoldExpiry 0) s
    t.edge.fnl.held = [] ∧ t.now = 100500 ∧ t.ctr 16 (dieCtr 1) = 1 ∧ idles (.ridHoldExpiry 1) s = true := by decide +kernel

/-! Parity (chapter 9). -/

theorem test_staging_delta :
    let x : Delta := { src := 2, holder := 1, row := 0, off := 64, data := [0x0F, 0xF0], layer := 4, step := 6 }
    let s := { live0 with deltas := [x] }.setByte (live0.stgAddr 2 0 64) 0xFF
    let t := after (.stagingDelta 2 1) s
    t.byte (s.stgAddr 2 0 64) = 0xF0 ∧ t.byte (s.stgAddr 2 0 65) = 0xF0 ∧ t.deltas = [] ∧ (t.part 1 2).tag = some (4, 6) ∧
      (t.part 1 2).touched = [0] ∧ s.canonical = true ∧ s.frozen = false ∧
      (after (.stagingDelta 2 1) { t with deltas := [{ x with step := 7 }] }).flag 1 .MEM_ERR_STGMIX = true := by decide +kernel

/-! Memory (chapter 9). -/

def upset1 : State := { live0 with ecc := [(dpa 0 0 0, [(3, 1)])] }

theorem test_memory_read :
    idles (.memoryRead 0 .dram 0 []) live0 = true ∧
      (after (.memoryRead 0 .dram 0 [(3, 1)]) live0).flag 0 .ECC_ERR_CE = true ∧
      (after (.memoryRead 0 .dram 0 [(3, 1)]) live0).ctr 0 (dieCtr 13) = 1 ∧
      (after (.memoryRead 0 .shared 0 [(3, 1), (5, 1), (7, 1), (9, 1)]) live0).flag 0 .ECC_ERR_CE =
        !(after (.memoryRead 0 .shared 0 [(3, 1), (5, 1), (7, 1), (9, 1)]) live0).flag 0 .ECC_ERR_UE := by decide +kernel

theorem test_partial_write :
    let t := after (.partialWrite 0 .shared 0x10 [1, 2] []) live0
    t.bytes (dpa 0 1 0x10) 2 = [1, 2] ∧ t.mem.length = 2 ∧ t.ecc = [] := by decide +kernel

def protected0 : State := (live0.setReg 0 Reg.MEM_PAR_BLOCKS 1).setReg 0 Reg.MEM_PAR_BASE 1

theorem test_scrub_off : idles (.scrubBurst 0 []) (live0.setF 0 .MEM_SCRUB_CFG_EN 0) = true ∧
    idles (.sramScrubBurst 0 []) (live0.setF 0 .MEM_SCRUB_CFG_EN 0) = true := by decide +kernel

theorem test_scrub_burst :
    let t := after (.scrubBurst 0 []) upset1
    upset1.canonical = true ∧ upset1.flag 0 .MEM_SCRUB_CFG_EN = true ∧ t.ecc = [] ∧ t.getF 0 .MEM_SCRUB_POS_POS = 1 ∧
      (after (.scrubBurst 0 []) (live0.setF 0 .MEM_SCRUB_POS_POS (live0.dramSize / 4096 - 1))).getF 0 .MEM_SCRUB_POS_POS = 0 ∧
      Store.get 0 (after (.sramScrubBurst 0 []) live0).edge.sramPos 0 = 1 := by decide +kernel

theorem test_request_urgent :
    let r : ArbReq := { requester := 5, low := true }
    let t := after (.requestUrgent (.channel 0 1) r) live0
    t.edge.arbs.map (fun x => (x.1, x.2.map fun w => (w.req, w.since, w.urgent))) = [(.channel 0 1, [(r, 0, true)])] ∧
      t.now = live0.ageLimit (.channel 0 1) := by decide +kernel

/-- A protected region of one block at 64 MiB of every die, and the staging area at 128 MiB. -/
def parity16 : State :=
  (((live0.setReg 0 Reg.MEM_PAR_BLOCKS 1).setReg 0 Reg.MEM_PAR_BASE 1).setReg 0 Reg.MEM_STG_BASE 2)

theorem witness_parity_regeneration :
    let s := parity16
    s.canonical = true ∧ 0 < s.parBlocks * s.stripe.length ∧ s.stgBase + 16 * (s.parBlocks * 4096) ≤ 2 ^ 44 ∧
      s.parBase + s.parBlocks * s.stripe.length * 4096 ≤ s.stgBase ∧
      (s.stripe.all fun d => s.clean (dpa d 0 s.parBase) 4096) = true := by decide +kernel

theorem witness_requests : moving.headClean 0 0 52 = true ∧ (moving.nextRequest 0 .lay).isSome = true ∧ contributing.headClean 0 0 54 = true ∧
    moving.clean (dpa 0 1 0x40) 64 = true := by decide +kernel

/-- R202: a block element below address 0 is refused. -/
theorem test_move_below_zero :
    let s := storing (requesting 4 1 (place 24 7 (dpa 0 0 0) ++ place 32 7 (dpa 0 0 0x200))
      ([(0, 1)] ++ place 4 4 2 ++ place 8 4 1 ++ place 12 4 1 ++ place 16 4 0xFFFFFFFF ++ place 28 4 3)) (dpa 0 0 0x100) []
    let t := after (.move 0) s
    ((t.eng 0 .lay).accepted.map fun r => r.status) = [rcBadArg] ∧ t.mem = s.mem := by decide +kernel

/-- R248: an accumulator word written through the memory window lands in the accumulator store alone. -/
theorem test_partial_write_of_an_accumulator :
    let t := after (.partialWrite 0 (.acc 0) 0x10 (5 :: List.replicate 15 0) []) live0
    t.mem = [] ∧ t.acc.length = 1 ∧ (t.elem 0 0 0 0 1).w = 5 := by decide +kernel

/-! The governor, ticks, barriers and phases (chapters 5 and 10). -/

def layer0 : LayerRec :=
  { layer := 7, floor := 1, ceil := 3, init := 2, first := false, last := false, norm := false, fh := false, rule := 0, block := 0 }
def graph0 : Graph := { nblock := 1, tensors := [], layers := [layer0], opers := [], cons := [], lr := [], crc := 0 }
def cut0 : Cut := { dp := 1, pp := 1, v := 1, tp := 1, cp := 1, mb := 1, mbtok := 1, seq := 1, group := 1, bytes := [] }
def job0 : Job :=
  { graph := graph0, cut := cut0, fabric := [], modIx := 0, seed := 0, s0 := 0, step := 5, phase := 0, running := true, started := true,
    atBoundary := false, lastDone := some 4, endReq := .none, descs := [], covered := 100, variants := 1, groupPlan := 0, plans := [], drops := [],
    dropped := 0, aborts := 0, corrupt := 0, ckpt := 0, members := [0], stepStart := 0 }
def running : State := { live0 with job := some job0 }

/-- R137: with no records the level of step 6 stays, clamped to the ceiling 3; level 9 of step 6 is held at 3 for step 7. -/
theorem test_governor_decides :
    let s := { running with gov := { Governor.fresh with decided := some 6, reduced := [(5, [])], vectors := [(6, [9])] } }
    let t := after .governorDecide s
    s.canonical = true ∧ s.frozen = false ∧ Store.get [] t.gov.vectors 7 = [3] ∧ t.gov.decided = some 7 ∧ t.reg 18 Reg.SAGE_DECIDED = 7 ∧
      idles .governorDecide (s.setF 18 .JRN_STATUS_REPLAY 1) = true := by decide +kernel

/-- The hypotheses of a tick that starts: nothing guards it; a stopped module starts none. -/
theorem witness_tick :
    running.edge.tick0 = [] ∧ running.guarded 0 1 = none ∧ running.canonical = true ∧ running.frozen = false ∧
      idles (.tick 0) (running.setF 18 .DBG_STOP_STATUS_STATE 2) = true := by decide +kernel

def bar (id : Nat) : Barrier := { id := id, arrived := [(0, 0)], remote := 0, kids := [], last := 1000, release := none, nominal := 0 }

/-- R283: an unreleased barrier of tick 1 holds that tick once. -/
theorem test_tick_is_held :
    let s := { running with barriers := [bar 1] }
    let t := after (.tick 0) s
    (s.guarded 0 1).isSome = true ∧ t.getF 0 (.SPRG_TICK_TICK 0) = 0 ∧ t.flag 0 .GLB_SCHED_STATUS_HELD = true ∧ t.ctr 0 (dieCtr 9) = 1 := by
  decide +kernel

theorem test_bank_opens :
    let t := running.openSage 0 5
    t.bank 0 1 = { SageBank.empty with step := 5 } ∧ t.flag 0 .SAGE_STATUS_OPEN = true ∧ t.getF 0 .SAGE_STATUS_BANK = 1 := by decide +kernel

/-- Die scope: LEAD is 32 ns after the last arrival, at 1000. -/
theorem test_barrier_release :
    let s := { running with barriers := [bar 1] }
    let t := after (.barrierRelease 1 ⟨0, 0⟩ ⟨0, 0⟩) s
    s.releasable job0 (bar 1) = true ∧ s.opens job0 1 = none ∧ t.barriers = [] ∧ t.now = 1032 ∧ s.edge.ckpt = none ∧
      s.canonical = true ∧ idles (.barrierRelease 2 ⟨0, 0⟩ ⟨0, 0⟩) s = true := by decide +kernel

def groupId : Nat := 2 * 2 ^ 26 + 2 ^ 24 + 9
theorem test_group_barrier_release :
    let s := { running with barriers := [bar groupId] }
    let t := after (.barrierRelease (BitVec.ofNat 28 groupId) ⟨0, 0⟩ ⟨0, 0⟩) s
    s.opens job0 groupId = none ∧ barScope groupId = 2 ∧ s.releasable job0 (bar groupId) = true ∧ t.barriers = [] ∧
      t.outbox = [Sent.barrier 1 groupId (1000 + s.getF 0 .GLB_BARRIER_TMO_GLEAD)] := by decide +kernel

/-- R319: away from the root a group barrier waits for the release frame, and a module below the root reports its subtree's arrival. -/
theorem test_group_barrier_below_the_root :
    let j := { job0 with modIx := 1, members := [0, 1] }
    let s := { running with job := some j, barriers := [bar groupId] }
    j.root = 0 ∧ s.releasable j (bar groupId) = false ∧ idles (.barrierRelease (BitVec.ofNat 28 groupId) ⟨0, 0⟩ ⟨0, 0⟩) s = true ∧
      (s.barrierUp groupId).outbox = [Sent.barrier 0 groupId 1000] := by decide +kernel

def boundId : Nat := 2 ^ 26 + 2 ^ 24 + 3
/-- A variant of the phase makes the boundary of the backward phase ready; until then it waits, shown in VARWAIT (R288). -/
theorem test_boundary_barrier :
    let s := { running with barriers := [bar boundId] }
    let r := s.placeVariant (s.variantKey job0 5 1) []
    let w := after (.barrierRelease (BitVec.ofNat 28 boundId) ⟨0, 0⟩ ⟨0, 0⟩) s
    let t := after (.barrierRelease (BitVec.ofNat 28 boundId) ⟨0, 0⟩ ⟨0, 0⟩) r
    s.opens job0 boundId = some 1 ∧ s.releasable job0 (bar boundId) = true ∧ s.boundaryReady job0 1 0 0 0 0 = false ∧
      r.boundaryReady job0 1 0 0 0 0 = true ∧ w.barriers = [bar boundId] ∧ w.flag 0 .GLB_SCHED_STATUS_VARWAIT = true ∧
      t.edge.boundary = some 1 ∧ t.barriers = [] := by decide +kernel

def desc0 : DataDesc := { step := 5, lo := 0, nm1 := 0, shard := 0, src := 0, stride := 0 }

/-- R275, R280, R283: the step-start barrier of a covered step lets tick 0 start on every die with the TICK_LEN then written. -/
theorem test_step_start_barrier :
    let j := { job0 with lastDone := none, descs := [desc0], plans := [(running.planInputs job0 5, 0, true)] }
    let j := j.formGroups
    let s := { running with job := some j, edge := { running.edge with boundary := some 0 } }
    let id := 2 * 2 ^ 26
    let s := { s.placeVariant (s.variantKey j 5 0) [] with barriers := [bar id] }
    let t := after (.barrierRelease (BitVec.ofNat 28 id) ⟨0, 0⟩ ⟨0, 0⟩) s
    job0.stepCovered 5 = false ∧ s.opens j id = some 0 ∧ s.boundaryReady j 0 0 0 0 0 = true ∧
      t.edge.tick0 = computeDies ∧ t.edge.boundary = none ∧ Store.get 0 t.edge.tickLens 3 = s.getF 3 .GLB_TICK_CFG_TICK_LEN := by
  decide +kernel

/-- R285: the barrier's tick had its nominal start at 2000, and it is not released TICKS ticks later. -/
theorem test_barrier_timeout :
    let b := { bar groupId with nominal := 2000 }
    let j := { job0 with modIx := 1, members := [0, 1] }
    let s := { running with job := some j, barriers := [b] }
    let t := after (.barrierTimeout (BitVec.ofNat 28 groupId)) s
    s.releasable j b = false ∧ s.barrierDue j b = some t.now ∧ 2000 ≤ t.now ∧ t.ctr 18 (dieCtr (64 + 0x31)) = 1 ∧
      t.edge.abortAt = some (t.now + 256) ∧ t.barriers = [b] ∧
      idles (.barrierTimeout (BitVec.ofNat 28 groupId)) { s with barriers := [bar groupId] } = true := by decide +kernel

def noPlan : ReshardPlan := { complete := false, fits := false, groupPlan := 0, groupMax := 0, groupMin := 0 }

/-- With the backward phase's variant in the cache the switch shows phase 1; without it the boundary waits. -/
theorem test_phase_switch :
    let s := { running with edge := { running.edge with boundary := some 1 } }
    let r := s.placeVariant (s.variantKey job0 5 1) []
    let t := after (.phaseSwitch ⟨noPlan, []⟩) r
    let w := after (.phaseSwitch ⟨noPlan, []⟩) s
    s.canonical = true ∧ r.variantReady job0 1 = true ∧ t.edge.boundary = none ∧ (t.job.map fun j => j.phase) = some 1 ∧
      t.getF 15 .GLB_SCHED_STATUS_PHASE = 1 ∧ w.edge.boundary = some 1 ∧ w.flag 0 .GLB_SCHED_STATUS_VARWAIT = true ∧
      idles (.phaseSwitch ⟨noPlan, []⟩) { running with edge := { running.edge with boundary := some 0 } } = true := by decide +kernel

theorem test_step_ends :
    let s := { running with job := some { job0 with phase := 3 } }
    let t := after (.phaseSwitch ⟨noPlan, []⟩) s
    t.edge.boundary = some 0 ∧ (t.job.map fun j => (j.step, j.lastDone)) = some (6, some 5) := by decide +kernel

/-- A build for the module's repair state is placed; one for another repair state is discarded (R289). -/
theorem test_variant_build :
    let key := running.variantKey job0 5 2
    let stale := natLe 12 7 ++ natLe 4 (running.repairCrc.toNat + 1) ++ List.replicate 16 0
    let t := after (.variantBuild key []) running
    running.freeEntry = some 0 ∧ running.repairFresh running.substitute key = true ∧ partsFit [] = true ∧
      running.partsAtLevel key [] = true ∧ (t.findVariant key).isSome = true ∧ idles (.variantBuild key []) t = true ∧
      running.repairFresh running.substitute stale = false ∧ idles (.variantBuild stale []) running = true := by decide +kernel

/-- A one-entry slot table whose only template holds one CTX command enters its command queue with its tick. -/
def part0 : VariantPart := ⟨0, 0, [[⟨cmdOf [(0, 0xC0)], 0⟩]], [⟨0, 3, 100, 0⟩], [], []⟩
theorem test_schedule_fetch :
    let s := { running with job := some { job0 with fetching := true } }
    let s := s.placeVariant (running.variantKey job0 5 0) [part0]
    let t := after (.scheduleFetch 0 0) s
    s.canonical = true ∧ s.runningParts = [part0] ∧ (s.spr 0 0).held = [] ∧ (expand part0 ⟨0, 3, 100, 0⟩ 0).isSome = true ∧
      (t.que 0 0 0).entries.length = 1 ∧ (t.spr 0 0).fetchPos = 1 := by decide +kernel

/-! Ports and frames (chapter 11). -/

/-- Port 0 UP in native mode; port 6 UP in Ethernet mode. -/
def linked : State := ((live0.setPortState 0 2).setPortState 6 2).setF (portDie 6) (.LNK_PORT_STATUS_GEN (portIx 6)) 2
/-- A frame of Table 11.4 from its first 16 bytes, its payload and its CRC-32, all computed outside the model. -/
def frameWith (hdr pay crc : List Byte) : List Byte := hdr ++ pay ++ List.replicate (488 - pay.length) 0 ++ crc ++ [0, 0, 0, 0]
def idleF : List Byte := frameWith [0x40, 0, 0, 0, 0, 0, 0, 0, 0, 0, 0, 0, 0, 0, 0, 0] [] [0x1D, 0xBB, 0x36, 0xAB]
def ackF : List Byte := frameWith [0x40, 0, 0, 0, 1, 0, 0, 0x85, 0, 0, 0, 0, 0, 0, 0, 0] [] [0xFA, 0x21, 0x59, 0x94]
def dataF1 : List Byte := frameWith [0x41, 0, 1, 0, 0, 0, 0, 0, 0, 0, 0, 0, 3, 0, 4, 0] [0x77, 0, 0, 0] [0xB9, 0xBF, 0xB0, 0x25]
def dataF2 : List Byte := frameWith [0x41, 0, 2, 0, 0, 0, 0, 0, 0, 0, 0, 0, 3, 0, 4, 0] [0x77, 0, 0, 0] [0xC9, 0x9F, 0xA9, 0x63]
def dataE4 : List Byte := frameWith [0x41, 0, 1, 0, 0, 0, 0, 0, 0, 0, 0, 0, 4, 0, 4, 0] [0x77, 0, 0, 0] [0x4F, 0x68, 0x23, 0x4A]
def barrierF1 : List Byte := frameWith [0x43, 0, 1, 0, 0, 0, 0, 0, 0, 0, 0, 0, 0xFF, 0xFF, 0, 0] [] [0xAA, 0x51, 0xED, 0xBC]
def barrierF2 : List Byte := frameWith [0x43, 0, 2, 0, 0, 0, 0, 0, 0, 0, 0, 0, 0xFF, 0xFF, 0, 0] [] [0xDA, 0x71, 0xF4, 0xFA]
def stopF : List Byte := frameWith [0x44, 0, 1, 0, 0, 0, 0, 0, 0, 0, 0, 0, 0xFF, 0xFF, 0, 0] [] [0xF9, 0x9A, 0x7F, 0x98]
def syncF : List Byte := frameWith [0x42, 0, 0, 0, 0, 0, 0, 0, 0, 0, 0, 0, 0xFF, 0xFF, 8, 0] [0x2B, 2, 0, 0, 0, 0, 0, 0] [0x4E, 0x15, 0xA0, 0x0B]
/-- t3 = 160 of the peer's frame, t1 = 100 and t2 = 150 of the last one it received. -/
def syncFull : List Byte := frameWith [0x42, 0, 0, 0, 0, 0, 0, 0, 0, 0, 0, 0, 0xFF, 0xFF, 24, 0]
    ([160, 0, 0, 0, 0, 0, 0, 0] ++ [100, 0, 0, 0, 0, 0, 0, 0] ++ [150, 0, 0, 0, 0, 0, 0, 0]) [0x68, 0x4D, 0x2D, 0xEF]
def repairF : List Byte := frameWith [0x45, 0, 0, 0, 0, 0, 0, 0, 0, 0, 0, 0, 0xFF, 0xFF, 0, 0] [] [0x34, 0x70, 0xB8, 0xA9]

theorem witness_links : linked.nativeUp 0 = true ∧ linked.nativeUp 6 = false ∧ linked.portUp 6 = true ∧ linked.portGen 6 = 2 ∧
    linked.canonical = true ∧ goodFrame (idleF) = true ∧ idleF.length = 512 ∧
    idles (.idleFrame 1 (idleF) true) linked = true ∧ idles (.frameSend 1 0) linked = true := by decide +kernel

/-- A queued frame leaves with SEQ 1, costs a credit of its channel, and stays in the retry buffer. -/
theorem test_frame_send :
    let s := linked.setPort 0 { PortS.fresh with queue := [(0, 0, dataF1)] }
    let t := after (.frameSend 0 0) s
    (t.port 0).queue = [] ∧ (t.port 0).txSeq = 2 ∧ ((t.port 0).retry.map fun r => (r.1, frSeq r.2)) = [(1, 1)] ∧
      (t.port 0).credits.getD 0 0 = 63 ∧ (after (.frameSend 0 0) linked).port 0 = { linked.port 0 with wire := ((after (.frameSend 0 0) linked).port 0).wire } := by
  decide +kernel

theorem test_replayed_frame :
    let s := linked.setPort 0 { PortS.fresh with resend := [4], retry := [(4, dataF1)], txSeq := 5 }
    let t := after (.frameSend 0 0) s
    (t.port 0).resend = [] ∧ (t.port 0).txSeq = 5 ∧ (t.port 0).retry.length = 1 := by decide +kernel

/-- R304: padded to 64 bytes with its FCS. -/
theorem test_ethernet_send :
    let s := linked.setPort 6 { PortS.fresh with queue := [(0, 0, [1, 2, 3])] }
    let t := after (.frameSend 6 0) s
    (t.port 6).queue = [] ∧ (t.port 6).wire = [1, 2, 3] ++ List.replicate 57 0 ++ [0xD0, 0x1C, 0x10, 0xC3] := by decide +kernel

theorem test_sync_send :
    let t := after (.thymeSyncSend 0) (linked.setPort 0 { PortS.fresh with syncAt := 700 })
    t.now = 700 ∧ (t.port 0).syncAt = 1700 ∧ idles (.thymeSyncSend 6) linked = true := by decide +kernel

/-- ACK 1 frees the retry buffer's frame 1; CR of byte 7 gives 5 frames of channel 2. -/
theorem test_idle_frame :
    let s := linked.setPort 0 { PortS.fresh with txSeq := 3, retry := [(1, []), (2, [])] }
    let t := after (.idleFrame 0 ackF true) s
    goodFrame ackF = true ∧ ((t.port 0).retry.map fun r => r.1) = [2] ∧ (t.port 0).credits.getD 2 0 = 69 := by decide +kernel

theorem test_uncorrectable_frame :
    let t := after (.idleFrame 0 (idleF) false) linked
    (t.port 0).nak = true ∧ t.flag (portDie 0) (.LNK_ERR_UNCORR (portIx 0)) = true ∧ t.ctr (portDie 0) (portCtr (portIx 0) 4) = 1 := by
  decide +kernel

/-- Payload bytes 0-3: RID 0x77; no reduction is open, so the frame is held. -/
theorem test_data_frame_held :
    let t := after (.dataFrame 0 dataF1 true 900) linked
    goodFrame dataF1 = true ∧ linked.reduction 0x77 = none ∧ t.edge.fnl.held = [(0, 900, dataF1)] ∧ (t.port 0).rxSeq = 1 ∧
      (after (.dataFrame 0 dataF2 true 900) linked).edge.fnl.held = [] := by decide +kernel

def opened : State := linked.setFnl fun f => { f with reds := [{ rid := 0x77, epoch := 3, sets := [], frames := [], due := none }] }
theorem test_data_frame_joins :
    let t := after (.dataFrame 0 dataF1 true 900) opened
    let u := after (.dataFrame 0 dataE4 true 900) opened
    ((t.reduction 0x77).map fun r => r.frames) = some [dataF1] ∧ u.edge.fnl.reds = opened.edge.fnl.reds ∧
      u.flag (portDie 0) .FNL_ERR_EPOCH = true := by decide +kernel

theorem test_barrier_frames :
    let s := { linked with barriers := [bar boundId], job := some job0 }
    let t := after (.barrierFrame 0 barrierF1 true (.arrival (BitVec.ofNat 28 boundId) 5000)) s
    let u := after (.barrierFrame 0 barrierF1 true (.release (BitVec.ofNat 28 boundId) 6000)) s
    let v := after (.barrierFrame 0 barrierF1 true (.abort 7000)) s
    frType barrierF1 = 3 ∧ (t.barriers.map fun b => b.remote) = [5000] ∧ (u.barriers.map fun b => b.release) = [some 6000] ∧
      u.outbox = [Sent.barrier 1 boundId 6000] ∧ v.edge.abortAt = some 7000 ∧
      (after (.barrierFrame 0 barrierF2 true (.abort 7000)) s).edge.abortAt = none := by decide +kernel

theorem test_captured_frame :
    let s := linked.setF 18 .DBG_STOP_STATUS_STATE 2
    let t := after (.barrierFrame 0 barrierF1 true (.abort 7000)) s
    s.frozen = true ∧ (t.port 0).capture.length = 1 ∧ (t.port 0).rxSeq = 0 := by decide +kernel

theorem test_stop_frame :
    let t := after (.stopFrame 0 stopF true 0x20003 8000) linked
    t.stop.seen = [0x20003] ∧ t.outbox = [Sent.stop 0 0x20003 8000 (some 0)] ∧ t.stop.target = 8000 := by decide +kernel

theorem test_sync_times :
    let t := after (.thymeSyncFrame 0 syncFull true (some ⟨0, 0, 0, 190⟩)) linked
    t.reg (portDie 0) (Reg.LNK_TMB_OFFSET (portIx 0)) = 10 ∧ t.reg (portDie 0) (Reg.LNK_TMB_DELAY (portIx 0)) = 40 ∧
      ((after (.thymeSyncFrame 0 syncF true none) linked).port 0).syncRx = (555, 0) := by decide +kernel

theorem test_lane_repair :
    let t := after (.laneRepairFrame 0 repairF true 3 1000) linked
    t.flag (portDie 0) (.LNK_PORT_STATUS_SPARE_USED (portIx 0)) = true ∧ t.getF (portDie 0) (.LNK_PORT_STATUS_SPARE_FOR (portIx 0)) = 3 ∧
      t.portState 0 = 2 ∧ t.ctr 18 (dieCtr (64 + 0x0A)) = 1 := by decide +kernel

theorem test_lanes :
    let w := after (.laneWeak 0 3) linked
    let f := after (.laneFail 0 3) linked
    w.getF (portDie 0) (.LNK_LANE_STATUS_WEAK (portIx 0)) = 8 ∧ w.portState 0 = 3 ∧ f.portState 0 = 1 ∧
      f.flag (portDie 0) (.LNK_PORT_STATUS_SPARE_USED (portIx 0)) = true ∧
      (after (.laneFail 0 4) (linked.setF (portDie 0) (.LNK_LANE_STATUS_FAILED (portIx 0)) 8)).portState 0 = 4 ∧
      (after (.laneFail 6 4) linked).portState 6 = 0 := by decide +kernel

theorem test_ack_timeout :
    let s := linked.setPort 0 { PortS.fresh with txSeq := 3, retry := [(1, []), (2, [])] }
    let t := after (.ackTimeout 0) s
    (t.port 0).resend = [1, 2] ∧ (t.port 0).replays = 1 ∧ t.flag (portDie 0) (.LNK_ERR_ACK_TMO (portIx 0)) = true ∧
      (after (.ackTimeout 0) (s.setPort 0 { PortS.fresh with retry := [(1, [])], replays := 4 })).portState 0 = 1 := by decide +kernel

theorem test_training :
    let s := live0.setPortState 0 1
    let t := after (.portUp 0 77 5) s
    t.portState 0 = 2 ∧ t.getF (portDie 0) (.LNK_PORT_STATUS_PEER_MOD (portIx 0)) = 77 ∧
      t.getF (portDie 0) (.LNK_PORT_STATUS_PEER_PORT (portIx 0)) = 5 ∧ (after (.retrainTimeout 0) s).portState 0 = 4 ∧
      idles (.portUp 0 77 5) linked = true ∧ (after (.portRetry 0) (live0.setPortState 0 4)).portState 0 = 1 ∧
      (after (.portRetry 0) (live0.setPortState 0 4)).now = 1000000000 ∧
      (after (.retrain 0) (linked.setF (portDie 0) (.LNK_PORT_CTL_EN (portIx 0)) 1)).portState 0 = 1 := by decide +kernel

theorem test_port_enable :
    let t := after (.portEnable 0 0x80000000#32) live0
    t.portState 0 = 1 ∧ (after (.portEnable 0 0) t).portState 0 = 0 ∧
      (after (.portEnable 0 0xC0000000#32) live0).getF (portDie 0) (.LNK_PORT_CTL_GEN (portIx 0)) = 0 := by decide +kernel

def eth (dst : List Byte) : List Byte := dst ++ List.replicate 58 0
theorem test_ethernet_frame :
    linked.macTakes 6 (eth (List.replicate 6 0xFF)) = true ∧ linked.macTakes 6 (eth [2, 0, 0, 0, 0, 9]) = false ∧
      (after (.ethernetFrame 6 (eth [2, 0, 0, 0, 0, 9]) true) linked).ctr (portDie 6) (portCtr (portIx 6) 9) = 1 ∧
      ((after (.ethernetFrame 6 (eth [2, 0, 0, 0, 0, 9]) true) linked).port 6).rx = [] ∧
      (after (.ethernetFrame 6 (eth []) false) linked).ctr (portDie 6) (portCtr (portIx 6) 10) = 1 := by decide +kernel

/-- A PAUSE frame of 2 quanta is not received, and keeps the port silent. -/
theorem test_pause_frame :
    let f : List Byte := [1, 0x80, 0xC2, 0, 0, 1] ++ List.replicate 6 0 ++ [0x88, 8, 0, 1, 0, 2] ++ List.replicate 46 0
    let t := after (.ethernetFrame 6 f true) linked
    isPause f = true ∧ 0 < pauseNs f ∧ (t.port 6).pauseTill = pauseNs f ∧ (t.port 6).rx = [] := by decide +kernel

theorem test_injection_enable :
    let t := after (.injectionEnable 0 0x80000007#32) live0
    let u := after (.injectionEnable 0 0x80000007#32) (live0.setF 18 .DBG_AUTH_STATUS_HELD 1)
    t.flag (portDie 0) (.LNK_ERR_DENIED (portIx 0)) = true ∧ t.flag (portDie 0) (.LNK_INJ_CTL_EN (portIx 0)) = false ∧
      u.flag (portDie 0) (.LNK_INJ_CTL_EN (portIx 0)) = true ∧ u.getF (portDie 0) (.LNK_INJ_CTL_RATE (portIx 0)) = 7 ∧ (u.port 0).lfsr = 1 := by
  decide +kernel

/-! Mailboxes and MCI (chapter 12). -/

/-- A state with a request FULL in command channel 3 of link 0, GO with SEQ 0x0101. -/
def asked (s : State) (ws : List Word) : State :=
  let s := s.setChan 0 3 { Channel.fresh with req := ws ++ List.replicate (16 - ws.length) 0, seq := 0x0101 }
  (s.setF 18 (.MBX_STAT_STATE 3) 1).setReg 18 (Reg.MBX_GO 3) 0x0101
def ackOf (t : State) : Nat := (t.reg 18 (Reg.MBX_ACK 3)).toNat
def resp (t : State) (n : Nat) : Nat := (t.reg 18 (Reg.MBX_RESP 3 n)).toNat
/-- The 0xC0CC0101 word: DONE and ACCEPTED with the code. -/
def codeAck (c : Nat) : Nat := 0xC0000101 + c * 65536

theorem test_go :
    let s := live0.setReg 18 (Reg.MBX_DATA 3 2) 0xABCD
    let t := after (.go 0 3 0x0101) s
    t.getF 18 (.MBX_STAT_STATE 3) = 1 ∧ (t.chan 0 3).req.getD 2 0 = 0xABCD ∧ (t.chan 0 3).seq = 0x101 ∧
      (after (.go 0 3 0x0102) t).flag 18 (.MBX_STAT_OVR 3) = true ∧ ((after (.go 0 3 0x0102) t).chan 0 3).seq = 0x101 ∧
      idles (.go 0 24 1) live0 = true := by decide +kernel

theorem test_ack :
    let s := ((live0.setF 18 (.MBX_STAT_STATE 25) 1).setReg 18 (Reg.MBX_GO 25) 9).setChan 0 25 { Channel.fresh with record := [2] }
    let t := after (.ack 0 25 0xC0000009#32) s
    t.getF 18 (.MBX_STAT_STATE 25) = 3 ∧ (t.chan 0 25).record = [] ∧
      (after (.ack 0 25 0xC0000008#32) s).flag 18 (.MBX_STAT_OVR 25) = true := by decide +kernel

theorem test_fault_and_clr :
    let t := after (.poisonedTlp 0 3) (asked live0 [1])
    t.getF 18 (.MBX_STAT_STATE 3) = 4 ∧ t.flag 18 .GLB_ERR_POISON = true ∧ (t.chan 0 3).req = [] ∧
      (after (.clr 0 3) t).getF 18 (.MBX_STAT_STATE 3) = 0 ∧ idles (.clr 0 3) live0 = true := by decide +kernel

theorem test_request_take :
    let t := after (.requestTake 0 3) (asked live0 [1])
    let u := after (.requestTake 0 3) (asked live0 [0xFF])
    t.getF 18 (.MBX_STAT_STATE 3) = 2 ∧ (t.chan 0 3).taken = true ∧ ackOf u = codeAck 4 ∧ u.getF 18 (.MBX_STAT_STATE 3) = 3 := by
  decide +kernel

theorem test_event_post :
    let s := live0.setChan 0 26 { Channel.fresh with queue := [[4, 5, 6], [7]], evSeq := 65535 }
    let t := after (.eventPost 0 26) s
    live0.linkTakes 0 1 = true ∧ t.getF 18 (.MBX_STAT_STATE 26) = 1 ∧ t.getF 18 (.MBX_GO_SEQ 26) = 0 ∧ t.reg 18 (Reg.MBX_DATA 26 1) = 5 ∧
      (t.chan 0 26).queue = [[7]] ∧ (t.chan 0 26).record = [4, 5, 6] ∧ s.canonical = true ∧ idles (.eventPost 0 27) s = true := by decide +kernel

theorem test_heartbeat :
    let t := after .heartbeat live0
    t.edge.ctl.beats = 1 ∧ t.now = 1000000 ∧ ((t.chan 0 25).queue.map isHeartbeat) = [true] ∧
      ((after .heartbeat t).chan 0 25).queue.length = 1 ∧ idles .heartbeat (live0.setF 18 .GLB_FUNC_READY_MBX 0) = true := by decide +kernel

/-- The example of chapter 12: tag 42 on SAGE_PIN of channel 3 is accepted as 0xC001_0101, and completes with DATA4 = 0x0020_002A,
DATA5 = 0x0000_0300, DATA6 = 0x0000_0101 and DATA8 = 9,002. -/
theorem test_sage_pin_example :
    let s := asked { running with nextTag := 42 } [0x20, 7 + 3 * 2 ^ 20]
    let t := after (.sagePin 0 3) s
    let u := after (.completionEvent 42) { t with longs := t.longs.map fun c => { c with result := some (0, [9002]) } }
    s.canonical = true ∧ s.unanswered 0 3 0x20 = true ∧ ackOf t = 0xC0010101 ∧ resp t 0 = 42 ∧ (t.gov.tent.map fun r => r.pins) = some [(7, 3)] ∧
      u.longs = [] ∧ (((u.chan 0 24).queue.map fun r => [r.getD 4 0, r.getD 5 0, r.getD 6 0, r.getD 8 0])) =
        [[0x0020002A, 0x300, 0x101, 9002]] := by decide +kernel

/-- R137's range of layer 7 is levels 1 to 3. -/
theorem test_sage_pin_out_of_range :
    ackOf (after (.sagePin 0 3) (asked running [0x20, 7])) = codeAck 5 ∧
      ackOf (after (.sagePin 0 3) (asked live0 [0x20, 7])) = codeAck 0x10 := by decide +kernel

theorem test_sage_unpin_and_rules :
    let t := after (.sageUnpin 0 3) (asked { running with gov := { Governor.fresh with tent := some { RuleSet.default with pins := [(7, 2)] } } } [0x21, 7])
    let r := after (.sageSetRules 0 3) (asked running [0x22, 0, 0x00020C01, 0x100, 0x3727C5AC, 0x3C23D70A])
    (t.gov.tent.map fun r => r.pins) = some [] ∧ ackOf r = codeAck 1 ∧ r.gov.tent = some RuleSet.default ∧
      ackOf (after (.freezeSet 0 3) (asked running [0x23, 0, 0, 65])) = codeAck 5 := by decide +kernel

theorem test_rules_commit :
    let s := { running with gov := { Governor.fresh with tent := some { RuleSet.default with pins := [(7, 2)] } } }
    (s.ruleOutcome 9 true).gov.rules.pins = [(7, 2)] ∧ (s.ruleOutcome 9 true).gov.tent = none ∧ (s.ruleOutcome 9 false).gov.rules.pins = [] := by
  decide +kernel

theorem test_get_info :
    let t := after (.getInfo 0 3) (asked running [1])
    ackOf t = codeAck 0 ∧ resp t 0 = 0x48200000 ∧ resp t 5 = 5 ∧ t.getF 18 (.MBX_STAT_STATE 3) = 3 := by decide +kernel

/-- R359: COMPLETION (bit 1) and READY (bit 3) cannot be suppressed. -/
theorem test_evt_mask : resp (after (.evtMask 0 3) (asked live0 [2, 0x1FE])) 0 = 0x1F4 ∧
    ackOf (after (.evtMask 0 3) (asked live0 [2, 1])) = codeAck 5 := by decide +kernel

theorem test_cancel :
    let s := after (.ckptSave 0 3) (asked running [0x30, 1, 0, 0, 8])
    let t := after (.cancel 0 3) (asked s [3, 1])
    ackOf s = codeAck 1 ∧ ackOf t = codeAck 0 ∧ resp t 0 = 1 ∧ resp (after (.cancel 0 3) (asked t [3, 1])) 0 = 0 := by decide +kernel

def loaded : State := { live0 with job := some { job0 with running := false, lastDone := none } }
theorem test_job_start :
    let t := after (.jobStart 0 3) (asked loaded [0x11, 40])
    ackOf t = codeAck 0 ∧ (t.job.map fun j => (j.running, j.step)) = some (true, 40) ∧ t.edge.boundary = some 0 ∧
      ackOf (after (.jobStart 0 3) (asked running [0x11, 40])) = codeAck 3 ∧
      ackOf (after (.jobStart 0 3) (asked { loaded with job := loaded.job.map fun j => { j with lastDone := some 9 } } [0x11, 12])) = codeAck 5 := by
  decide +kernel

theorem test_job_end_and_status :
    let t := after (.jobEnd 0 3) (asked running [0x12, 1])
    let u := after (.jobEnd 0 3) (asked running [0x12, 0])
    (t.job.map fun j => j.endReq) = some .finish ∧ ackOf t = codeAck 1 ∧ u.job = none ∧ ackOf u = codeAck 1 ∧
      resp (after (.jobStatus 0 3) (asked running [0x13])) 0 = 5 := by decide +kernel

theorem test_data_append_and_reshard :
    ackOf (after (.dataAppend 0 3) (asked running [0x15, 0, 0, 1048577, 0])) = codeAck 6 ∧
      ackOf (after (.reshard 0 3) (asked running [0x14, 1, 0, 0, 0])) ≠ codeAck 0 ∧
      ackOf (after (.jobLoad 0 3 ⟨0, 0, 0, 0, 0, false, 0, 0, 0, false, [], []⟩) (asked running [0x10])) = codeAck 0x11 := by decide +kernel

theorem test_power_cap :
    let t := after (.powerCap 0 3) (asked live0 [0x70, 1500])
    ackOf t = codeAck 0 ∧ resp t 0 = 1500 ∧ t.getF 18 .PWR_CAP_WATTS = 1500 ∧
      ackOf (after (.powerCap 0 3) (asked live0 [0x70, 1499])) = codeAck 5 ∧ ackOf (after (.powerCap 0 3) (asked live0 [0x70, 6001])) = codeAck 5 := by
  decide +kernel

/-- One descriptor: host to device, 4 bytes to DPA 0x100. -/
def desc1 (len : Nat) : List Byte := (cmdOf (place 8 7 0x100 ++ place 16 4 len ++ [(20, 1)])).take 32
theorem test_dma_command_of_mci :
    let t := after (.dma 0 3 (desc1 4) [[1, 2, 3, 4]]) (asked live0 [0x40, 0, 0, 1])
    let u := after (.dma 0 3 (desc1 5) [[1, 2, 3, 4, 5]]) (asked live0 [0x40, 0, 0, 1])
    live0.dmaDescOk (desc1 4) = true ∧ live0.dmaDescOk (desc1 5) = false ∧ t.bytes 0x100 4 = [1, 2, 3, 4] ∧ ackOf t = codeAck 1 ∧
      (t.longs.map fun c => c.result) = [some (0, [1])] ∧ (u.longs.map fun c => c.result) = [some (0x14, [0, 0])] ∧
      ackOf (after (.dma 0 3 [] []) (asked live0 [0x40, 0, 0, 0])) = codeAck 5 := by decide +kernel

theorem test_storage_commands :
    ackOf (after (.replayStep 0 3) (asked running [0x50, 3])) = codeAck 3 ∧
      ackOf (after (.jrnRead 0 3) (asked live0 [0x51, 3])) = codeAck 0x13 ∧
      ackOf (after (.fwStage 0 3) (asked (live0.setFw fun f => f) [0x80, 0, 0x100, 64])) = codeAck 5 ∧
      ackOf (after (.fwActivate 0 3 false) (asked live0 [0x81])) = codeAck 5 := by decide +kernel

def stagedFw : State := live0.setFw fun f => { f with staged := some [1] }
theorem test_fw_activate :
    let t := after (.fwActivate 0 3 false) (asked stagedFw [0x81])
    let u := after (.fwActivate 0 3 true) (asked stagedFw [0x81])
    stagedFw.flag 18 .GLB_FUNC_READY_TWIN = true ∧ t.edge.fw.stage = 1 ∧ t.flag 18 .GLB_FUNC_READY_TWIN = false ∧ ackOf t = codeAck 1 ∧
      (u.longs.map fun c => c.result) = [some (0x0E, [])] := by decide +kernel

/-! JOB_LOAD of a graph without operators, on a group of one module. -/

/-- The graph at 0x1000, the cut at 0x2000, an empty descriptor table at 0x3000, the fabric map at 0x4000. -/
def jobInMemory : State :=
  storing (storing (storing (storing live0 0x1000
    [(0, 1), (2, 4), (8, 1), (24, 1), (32, 6), (34, 2), (48, 7), (50, 1)]) 0x2000
    [(0, 1), (2, 1), (4, 1), (5, 1), (6, 1), (8, 1), (12, 1), (16, 1), (20, 1)]) 0x3000 [(0, 1)]) 0x4000 [(0, 1), (1, 1), (2, 1)]

def loadWords (flags : Word) : List Word := [0x10, 0x1000, 0, 56, 0x2000, 0, 0x3000, 0, 7, 0, 0x4000, 0, flags, 0, 0]

def loadPlan (lock : Bool) : LoadPlan :=
  { variants := 4, longestStep := 1000, groupPlan := 0, groupMax := 0, groupMin := 0, fits := true, parBase := 0, parBlocks := 0,
    stgBase := 0, groupLock := lock }

theorem test_job_load :
    jobInMemory.canonical = true ∧ (match jobInMemory.checkLoad (loadWords 0) (loadPlan true) with
      | (_, .ok x) => x.ref.isEmpty && x.tick == 1024 && x.job.cut.group == 1 && x.job.seed == 7
      | _ => false) = true := by decide +kernel

theorem test_job_load_refused :
    (State.runJobLoad (loadPlan true) jobInMemory (loadWords 0x10000) 1).2 = .done rcDenied [] ∧
      (State.runJobLoad (loadPlan false) jobInMemory (loadWords 0) 1).2 = .accept rcPending none ∧
      (match jobInMemory.checkLoad (loadWords 1) (loadPlan true) with | (_, .error e) => e.1 == rcBadArg | _ => false) = true := by
  decide +kernel

/-! Stops, authorization, counters (chapter 15). -/

/-- R433: T is 12 ns on in module scope, GLEAD in group scope. -/
theorem test_stop :
    let t := after (.stop 0 0x80000000#32) { live0 with now := 100 }
    t.stop.target = 112 ∧ t.getF 5 .DBG_STOP_STATUS_STATE = 1 ∧ t.getF 19 .DBG_STOP_STATUS_SRC = 0 ∧ t.reg 5 Reg.DBG_STOP_T_LO = 112 ∧
      t.getF 7 .DBG_STOP_ID_ID = 1023 * 65536 ∧ idles (.stop 0 0xC0000000#32) live0 = true ∧ idles (.resume 0 0xC0000000#32) live0 = true := by decide +kernel

theorem test_group_stop_by_pin :
    let s := (live0.setF 18 .DBG_STOP_CTL_PIN_EN 1).setF 18 .DBG_STOP_CTL_SCOPE 1
    let t := after .dbgStopN s
    t.getF 3 .DBG_STOP_STATUS_SRC = 2 ∧ t.stop.target = s.getF 18 .DBG_STOP_CFG_GLEAD * 1000 ∧
      t.outbox = [Sent.stop 0 (1023 * 65536) t.stop.target none] ∧ idles .dbgStopN (live0.setF 18 .DBG_STOP_CTL_PIN_EN 0) = true := by decide +kernel

def pendingStop : State := after (.stop 0 0x80000000#32) live0
def stoppedState : State := after .stopFreeze pendingStop

theorem test_freeze_and_resume :
    let m := after (.resume 0 0x40000000#32) pendingStop
    let r := after (.resume 0 0x40000000#32) stoppedState
    let u := after .resumeTime r
    stoppedState.now = 12 ∧ stoppedState.frozen = true ∧ stoppedState.getF 9 .DBG_STOP_STATUS_STATE = 2 ∧ m.ctr 18 (dieCtr 10) = 1 ∧ m.getF 18 .DBG_STOP_STATUS_STATE = 1 ∧
      r.getF 9 .DBG_STOP_STATUS_STATE = 3 ∧ r.stop.resumeAt = some 24 ∧ u.now = 24 ∧ u.getF 9 .DBG_STOP_STATUS_STATE = 0 ∧ idles .stopFreeze live0 = true ∧
      idles .resumeTime live0 = true := by decide +kernel

theorem test_gstop_and_gresume :
    let t := after (.gstop 0 3) (asked { live0 with now := 5 } [0x60])
    let u := after (.gresume 0 3) (asked stoppedState [0x61])
    ackOf t = codeAck 0 ∧ resp t 0 = 17 ∧ t.getF 0 .DBG_STOP_STATUS_SRC = 1 ∧ ackOf (after (.gstop 0 3) (asked stoppedState [0x60])) = codeAck 3 ∧
      ackOf u = codeAck 0 ∧ u.getF 18 .DBG_STOP_STATUS_STATE = 3 ∧ ackOf (after (.gresume 0 3) (asked live0 [0x61])) = codeAck 0 ∧
      ackOf (after (.gresume 0 3) (asked pendingStop [0x61])) = codeAck 3 := by decide +kernel

def authorized : State := live0.setF 18 .DBG_AUTH_STATUS_HELD 1

theorem test_authorization :
    let t := (live0.runAuthChallenge [0x63] 1).1
    let e := after (.authEnd 0 3) (asked authorized [0x65])
    t.flag 18 .DBG_AUTH_STATUS_OPEN = true ∧ (t.edge.auth.challenge.map fun c => (c.1.length, c.2)) = some (32, 60000000000) ∧
      ackOf (after (.authChallenge 0 3) (asked (live0.setF 18 .DBG_AUTH_STATUS_LOCKOUT 1) [0x63])) = codeAck 7 ∧ e.authHeld = false ∧
      ackOf (after (.authResponse 0 3) (asked live0 [0x64, 0, 0, 143])) = codeAck 5 := by decide +kernel

/-- An answer that is no valid response to the open challenge: the eighth failure starts the lockout (R430). -/
theorem test_failed_response :
    let s := asked ((live0.setF 18 .DBG_AUTH_STATUS_FAILS 7).setF 18 .DBG_AUTH_STATUS_OPEN 1) [0x64, 0, 0, 144]
    let t := after (.authResponse 0 3) s
    ackOf t = codeAck 7 ∧ t.getF 18 .DBG_AUTH_STATUS_FAILS = 8 ∧ t.flag 18 .DBG_AUTH_STATUS_LOCKOUT = true ∧ t.edge.auth.lock = 600000000000 := by
  decide +kernel

theorem test_authorization_timers :
    let s := { authorized with edge := { authorized.edge with auth := { authorized.edge.auth with until_ := 77, lock := 99, challenge := some ([], 88) } } }
    (after .authExpiry s).now = 77 ∧ (after .authExpiry s).authHeld = false ∧ (after .challengeExpiry s).now = 88 ∧
      (after .challengeExpiry s).edge.auth.challenge = none ∧ idles .authExpiry live0 = true ∧ idles .challengeExpiry live0 = true ∧ idles .lockoutExpiry live0 = true ∧
      (after .lockoutExpiry (s.setF 18 .DBG_AUTH_STATUS_LOCKOUT 1)).now = 99 := by decide +kernel

theorem test_scanout_is_refused :
    ackOf (after (.scanout 0 3 0) (asked live0 [0x62, 3])) = codeAck 7 ∧ ackOf (after (.scanout 0 3 0) (asked authorized [0x62, 3])) = codeAck 3 ∧
      (stoppedState.setF 18 .DBG_AUTH_STATUS_HELD 1).authHeld = true := by decide +kernel

theorem test_clear_and_filter :
    let s := live0.setCtr 3 (dieCtr 5) 9
    (after .clear s).ctr 3 (dieCtr 5) = 0 ∧ (after .clear running).edge.clearReq = true ∧
      (after (.filterWrite 0 (BitVec.ofNat 28 Reg.CNT_FLT_OPER) 0) running).edge.fltAt = some 10000 ∧
      idles (.filterWrite 0 (BitVec.ofNat 28 Reg.PWR_CAP) 0) live0 = true ∧
      (after (.breakpointArm 0 0x80000005#32) live0).getF 18 .DBG_BP_CTL_MBID = 5 ∧ (after (.breakpointArm 0 0x80000005#32) live0).edge.bpCopy = true := by
  decide +kernel

/-! Clocks and power (chapter 14). -/

theorem test_refclk :
    (after (.refclkSwitch false) live0).flag 4 .TMB_STATUS_HOLDOVER = true ∧ (after (.refclkSwitch true) live0).getF 4 .TMB_STATUS_REFSEL = 1 := by
  decide +kernel

theorem test_thyme_lock :
    let s := { live0 with edge := { live0.edge with dieSamples := [(4, 63)] } }
    let t := after (.thymeSyncWord 4 0) s
    let u := after (.thymeSyncWord 4 9) (s.setF 4 .TMB_STATUS_LOCKED 1)
    t.flag 4 .TMB_STATUS_LOCKED = true ∧ (after (.thymeSyncWord 4 0) live0).flag 4 .TMB_STATUS_LOCKED = false ∧
      u.flag 4 .TMB_STATUS_LOCKED = false ∧ u.flag 18 .GLB_FUNC_READY_THYME = false ∧
      Store.get 0 (after (.thymeSyncWord 4 3) s).edge.dieSamples 4 = 0 ∧
      (s.flag 4 .TMB_STATUS_MASTER || s.dieGone 4) = false ∧ s.canonical = true := by decide +kernel

theorem test_droop :
    let s := live0.setF 2 .CLK_STRETCH_CFG_EN 1
    let t := after (.droopTrip 2 true) s
    t.flag 2 .CLK_STATUS_STRETCH = true ∧ t.ctr 2 (dieCtr 5) = 1 ∧ (after (.stretchEpisodeEnd 2 true) t).flag 2 .CLK_STATUS_FSTALL = true ∧
      (after (.stretchEpisodeEnd 2 false) t).flag 2 .CLK_STATUS_FSTALL = false ∧ idles (.stretchEpisodeEnd 2 true) s = true ∧
      (after (.droopClear 2) (s.setF 2 .CLK_STATUS_FSTALL 1)).flag 2 .CLK_STATUS_FSTALL = false ∧
      (after (.droopTrip 2 false) (live0.setF 2 .CLK_STRETCH_CFG_EN 0)).flag 2 .CLK_STATUS_FSTALL = true := by decide +kernel

/-- R420: 100 W over with GAIN 40 lowers f by 3 steps; at the floor the duty falls; with headroom the duty rises before f. -/
theorem test_power_loop :
    (Loop.next ⟨165, 16⟩ 2000 2100 80 165 40 50 2) = ⟨162, 16⟩ ∧ (Loop.next ⟨80, 16⟩ 2000 2100 80 165 40 50 2) = ⟨80, 15⟩ ∧
      (Loop.next ⟨80, 15⟩ 2000 1900 80 165 40 50 2) = ⟨80, 16⟩ ∧ (Loop.next ⟨80, 16⟩ 2000 1800 80 165 40 50 2) = ⟨82, 16⟩ ∧
      (Loop.next ⟨80, 16⟩ 2000 1950 80 165 40 50 2) = ⟨80, 16⟩ := by decide +kernel

theorem test_power_iteration_and_slew :
    let s := { live0 with now := 300, edge := { live0.edge with power := { live0.edge.power with target := 0x98, at_ := 5000 } } }
    let t := after .freqSlewStep s
    t.edge.power.freq = 0x97 ∧ t.getF 11 .CLK_STATUS_FREQ = 0x97 * 10 ∧ t.now = 5000 ∧ t.edge.power.at_ = 5200 ∧ idles .freqSlewStep live0 = true ∧
      live0.inputPower = 0 ∧ (after .powerCapIteration live0).flag 18 .PWR_STATUS_FLOOR = false := by decide +kernel

theorem test_sensors :
    let t := after (.energySample 18 7 0 9 []) live0
    live0.activeK = 18 ∧ t.ctr 18 Reg.PWR_ENERGY_LO = 7 ∧ t.ctr 18 Reg.PWR_STACK_ENERGY_LO = 9 ∧
      (after (.energySample 2 7 5 9 []) live0).ctr 2 Reg.PWR_STACK_ENERGY_LO = 5 ∧
      (after (.temperatureWarnCrossing 3 90) live0).getF 3 .PWR_THERM_TEMP = 90 ∧ (after (.stackHot 3 true) live0).flag 3 .MEM_STATUS_HOT = true := by
  decide +kernel

/-! Losses (chapter 13). -/

theorem test_die_transaction_timeout :
    let s := after (.dmaTransferStart 0 0) dmaQueued
    let t := after (.dieTransactionTimeout 0 0 0 0) s
    let u := after (.dieTransactionTimeout 0 0 0 0) t
    s.canonical = true ∧ t.now = 100000 ∧ (t.spr 0 0).dma.length = 1 ∧ u.now = 200000 ∧ (u.spr 0 0).dma = [] ∧ (u.que 0 0 57).entries.length = 1 ∧
      u.edge.probes = [0] := by decide +kernel

theorem test_stack_loss_and_probe :
    let t := after (.stackLoss 3) live0
    let u := after (.dieProbeTimeout 3) t
    t.flag 3 .MEM_STATUS_READY = false ∧ t.edge.probes = [3] ∧ t.lostDies = [] ∧ u.lostDies = [3] ∧ u.now = 1000000 ∧
      (u.reg 18 Reg.GLB_FUNC_READY).getLsbD 19 = false ∧ u.ctr 18 (dieCtr (64 + 0x11)) = 1 ∧ idles (.dieProbeTimeout 3) live0 = true ∧
      idles (.stackLoss 3) u = true := by decide +kernel

/-- Without a protected region a rebuild moves no byte; the premises of a rebuild hold of a module in service. -/
theorem witness_rebuild :
    live0.stripe.contains 3 = true ∧ live0.stripe.all (fun d => decide (d < 16)) = true ∧ live0.stripe.Nodup ∧ live0.deltas = [] ∧
      live0.parBase + live0.parBlocks * live0.stripe.length * 4096 ≤ 2 ^ 44 := by decide +kernel

/-- A protected region of two rows on C0 and C3, and its staging area: the premises of a rebuild of C3 hold. -/
def parity2 : State := parity16.setF 0 .MEM_PAR_MASK_MASK 9

theorem witness_rebuild_rows : parity2.canonical = true ∧ parity2.stripe = [0, 3] ∧ parity2.parBlocks * parity2.stripe.length = 2 ∧
    parity2.deltas = [] ∧ parity2.parBase + 2 * 4096 ≤ parity2.stgBase ∧ parity2.stgBase + 16 * 4096 ≤ 2 ^ 44 ∧ parity2.ecc = [] := by
  decide +kernel

theorem test_module_and_link_losses :
    let t := after (.moduleLost ⟨0, [], []⟩) running
    let u := after (.linkDieFailure 0) linked
    t.lostMods = [0] ∧ (t.job.map fun j => j.members) = some [] ∧ t.ctr 18 (dieCtr (64 + 0x20)) = 1 ∧ idles (.moduleLost ⟨0, [], []⟩) t = true ∧
      u.dieGone 16 = true ∧ u.portState 0 = 4 ∧ u.ctr 18 (dieCtr (64 + 0x0C)) = 1 ∧ idles (.linkDieFailure 0) u = true ∧
      (after (.hostLinkError 1) live0).msix = [(64 + 33, 1)] := by decide +kernel

/-- R330: groups of nine in order; a remainder of one joins the last full group, a larger one is a group of its own. -/
theorem test_parity_groups : (groupsOfNine (List.range 19)).map List.length = [9, 10] ∧
    (groupsOfNine (List.range 20)).map List.length = [9, 9, 2] ∧ parityMember [4, 7, 9] 4 = 7 := by decide

/-- R330, R332: module 0 holds the parity of row 3 of the group 0, 1, 2; with module 2's unit it forms the lost module 1's. -/
theorem test_module_rebuild :
    let j := { job0 with members := [0, 1, 2], groups := [[0, 1, 2]] }
    let s := { running.setF 0 .MEM_PAR_MASK_MASK 0 with job := some j }
    let u : PeerUnit := { module := 2, row := 3, bytes := List.replicate 4096 0x5A }
    let t := after (.moduleLost ⟨1, [u], []⟩) s
    s.canonical = true ∧ parityMember [0, 1, 2] 3 = 0 ∧ rowUnits [0, 1, 2] 1 3 [u] = some [(2, slice u.bytes 0 4096)] ∧
      (t.edge.rebuilt.map fun x => (x.1, x.2.1)) = [(1, 3)] ∧ t.lostMods = [1] := by decide +kernel

/-- R17, R20, R21: the two worked routes, C0 to C15 and K0 to K1. -/
theorem test_routes : routeNs (baseRoute 0 15) = 124 ∧ routeNs (baseRoute 18 19) = 140 ∧
    baseRoute 0 15 = [0, 1, 2, 3, 4, 5, 6, 7, 15] := by decide

/-- Table 10.8: ADD, RELU2 of 3 and of -3, RELU2_BWD of 3 by 0.5; a reserved FUNC has none. -/
theorem test_eltwise_functions : eltFunc 1 0 0x3FC00000 0x40100000 = some 0x40700000 ∧ eltFunc 5 0 0x40400000 0 = some 0x41100000 ∧
    eltFunc 5 0 0xC0400000 0 = some 0 ∧ eltFunc 6 0 0x40400000 0x3F000000 = some 0x40400000 ∧ eltFunc 0 0 0 0 = none ∧
    xentSegLog 1024 = 10 ∧ xentSegLog 1025 = 11 := by decide +kernel

theorem test_takeover :
    let s := live0.setF 18 (.MBX_STAT_STATE 3) 1
    let t := after .mirrorHeartbeatTimeout s
    let w := s.setF 18 .GLB_FUNC_READY_TWIN 0
    s.activeK = 18 ∧ s.flag 18 .GLB_FUNC_READY_TWIN = true ∧ t.activeK = 19 ∧ t.flag 18 .GLB_FUNC_READY_HL0 = false ∧
      t.getF 18 (.MBX_STAT_STATE 3) = 0 ∧ t.ctr 18 (dieCtr (64 + 0x18)) = 1 ∧ (after (.mailboxAcceptedTimeout 0 3) s).activeK = 19 ∧
      (after .mirrorHeartbeatTimeout w).edge.ctl.takeover = some 100000 ∧ (after .failoverTimeout (after .mirrorHeartbeatTimeout w)).now = 200000 ∧
      idles .failoverTimeout live0 = true ∧ (after .mirrorHeartbeat { live0 with now := 9 }).edge.ctl.mirrorAt = 9 ∧
      idles (.mailboxAcceptedTimeout 0 4) s = true := by decide +kernel

theorem test_mirror_sync :
    let s := live0.setF 18 .GLB_FUNC_READY_TWIN 0
    let u := { s with edge := { s.edge with fw := { s.edge.fw with stage := 3, staged := some [7] } } }
    (after .mirrorSyncComplete s).flag 18 .GLB_FUNC_READY_TWIN = true ∧ (after .mirrorSyncComplete u).edge.fw.image = [7] ∧
      (after .mirrorSyncComplete { s with edge := { s.edge with fw := { s.edge.fw with stage := 1, staged := some [7] } } }).activeK = 19 := by decide +kernel

theorem test_step_timeout_and_abort :
    let t := after .stepTimeout running
    t.edge.abortAt = some 256 ∧ t.ctr 18 (dieCtr (64 + 0x32)) = 1 ∧ idles .stepTimeout live0 = true ∧ idles .stepAbort running = true := by decide +kernel

/-! Transfers (chapter 13). -/

/-- Transfer frames whose CRC-32 was computed outside the model: OP, tag, object, offset, length. -/
def ackX : List Byte := List.replicate 14 0 ++ [2, 0, 0, 0, 5, 0, 0, 0, 9, 0, 0, 0, 0, 0, 0, 0, 0, 0, 0, 0, 0, 0, 0, 0, 8, 0, 0, 0, 176, 179, 48, 86]
def dataX : List Byte := List.replicate 14 0 ++ [4, 0, 0, 0, 5, 0, 0, 0, 9, 0, 0, 0, 0, 0, 0, 0, 0, 0, 0, 0, 0, 0, 0, 0, 4, 0, 0, 0, 92, 53, 248, 47, 1, 2, 3, 4]
def nackX : List Byte := List.replicate 14 0 ++ [5, 0, 0, 0, 5, 0, 0, 0, 9, 0, 0, 0, 0, 0, 0, 0, 0, 0, 0, 0, 0, 0, 0, 0, 0, 0, 0, 0, 12, 104, 141, 151]

def xfer (w : Bool) : Xfer :=
  { tag := 1, write := w, obj := 9, addr := 0, len := 8, port := 6, tried := [], at_ := 0, out := [{ off := 0, len := 8, tag := 5, tries := 0 }],
    next := 8, got := [], store := [] }
def xferring (x : Xfer) : State := { linked with edge := { linked.edge with xfers := [x] } }

theorem test_write_ack :
    let t := after (.writeAck 6 ackX) { xferring (xfer true) with edge := { (xferring (xfer true)).edge with ckpt := some ⟨1, true, 0, 5, true⟩ } }
    linked.ethUp 6 = true ∧ xfGood ackX = true ∧ t.edge.xfers = [] ∧ t.edge.ckpt = none ∧ idles (.writeAck 6 []) (xferring (xfer true)) = true := by decide +kernel

theorem test_transfer_data :
    let t := after (.data 6 dataX) (xferring (xfer false))
    (t.edge.xfers.map fun x => x.got) = [[(0, [1, 2, 3, 4])]] ∧ (t.edge.xfers.map fun x => x.out.length) = [1] := by decide +kernel

theorem test_nack_and_timeout :
    let s := xferring (xfer false)
    let l := xferring { xfer false with out := [{ off := 0, len := 8, tag := 5, tries := 8 }] }
    (after (.nack 6 nackX) s).edge.xfers = [] ∧ (after .transferTimeout s).now = 1000000 ∧ (after .transferTimeout s).outbox.length = 1 ∧
      ((after .transferTimeout s).edge.xfers.map fun x => x.out.map fun g => g.tries) = [[1]] ∧ (after .transferTimeout l).edge.xfers = [] ∧
      ((after .transferTimeout (l.setPortState 7 2 |>.setF (portDie 7) (.LNK_PORT_STATUS_GEN (portIx 7)) 2)).edge.xfers.map fun x => (x.port, x.tried)) = [(7, [6])] := by
  decide +kernel

/-! Resets and the release (chapter 14). -/

def used : State := (running.setByte 0x100 7).setReg 4 Reg.CLK_STRETCH_CFG 0

theorem test_full_reset :
    let t := after (.por false) { used with pending := [.getTid], now := 9 }
    t.mem = [] ∧ t.job = none ∧ t.now = 0 ∧ t.pending = [.getTid] ∧ t.reg 4 Reg.CLK_STRETCH_CFG = 0x80000082#32 ∧
      (t.getF 4 .RST_STATUS_HOLD).testBit 0 = true ∧ t.edge.release = none := by decide +kernel

theorem test_full_reset_release :
    let t := after (.modrst true) used
    let u := after (.modrst false) t
    t.reg 4 Reg.RST_CAUSE = used.reg 4 Reg.RST_CAUSE ||| 2 ∧ u.edge.release = some { step := 1, trims := true, dramLost := true } ∧
      (after (.therm true) used).edge.pins.regulators = false ∧ (after (.therm false) (after (.therm true) used)).edge.pins.regulators = true := by decide +kernel

theorem test_warm_reset :
    let t := after (.warm 0) (used.setF 18 .RST_WARM_KEEP 1)
    let u := after (.warmReset 0 3) (asked used [0x71, 0])
    t.byte 0x100 = 7 ∧ t.job = none ∧ t.edge.release = some { step := 2, trims := false, dramLost := false } ∧ t.reg 18 Reg.GLB_FUNC_READY = 0xD ∧
      t.reg 4 Reg.RST_CAUSE = used.reg 4 Reg.RST_CAUSE ||| 8 ∧ u.byte 0x100 = 0 ∧ ackOf u = codeAck 0 ∧ (after .modwdog used).byte 0x100 = 7 ∧
      (after .modwdog used).reg 4 Reg.RST_CAUSE = used.reg 4 Reg.RST_CAUSE ||| 16 := by decide +kernel

theorem test_watchdogs :
    let k := after (.ctlwdog 1 false) used
    let d := after (.dswdog 4 false) used
    let p := after (.perst 0) (asked used [1])
    (k.getF 19 .RST_STATUS_HOLD).testBit 5 = true ∧ k.flag 18 .GLB_FUNC_READY_TWIN = false ∧ k.byte 0x100 = 7 ∧
      ((after (.ctlwdog 1 true) k).getF 19 .RST_STATUS_HOLD).testBit 5 = false ∧ (d.getF 4 .RST_STATUS_HOLD).testBit 6 = true ∧
      ((after (.dswdog 4 true) d).getF 4 .RST_STATUS_HOLD).testBit 6 = false ∧ p.getF 18 (.MBX_STAT_STATE 3) = 0 ∧
      p.flag 18 .GLB_FUNC_READY_HL0 = false ∧ (after (.perstRelease 0) p).flag 18 .GLB_FUNC_READY_HL0 = true := by decide +kernel

theorem test_software_resets :
    let l := after (.softwareReset 16 0x1000) linked
    let z := after (.softwareReset 19 0x800000) live0
    idles (.softwareReset 3 0) live0 = true ∧ l.port 0 = PortS.fresh ∧ l.portState 0 = 0 ∧ z.flag 19 .RST_STATUS_DENIED = true ∧
      (after (.softwareReset 3 0x20) live0).flag 3 .TMB_STATUS_LOCKED = false ∧ srstOn 12 3 = false ∧ idles (.softwareReset 3 0x1000) live0 = true := by
  decide +kernel

theorem test_engine_software_reset :
    let b := (List.range 25).filter fun b => srstEngine b = some .ats
    let one : BitVec 25 := BitVec.ofNat 25 (2 ^ (b.getD 0 0))
    let s := live0.setEng 2 .ats { Engine.fresh with st := .disabled, last := some 4 }
    b.length = 1 ∧ (after (.softwareReset 2 one) s).eng 2 .ats = Engine.fresh ∧ ((after (.softwareReset 2 one) live0).eng 2 .ats).st = .draining := by
  decide +kernel

def releasing (n : Nat) : State := { State.reset with edge := { Edge.fresh with release := some { step := n, trims := true, dramLost := true } } }
def at_ (t : State) : Option Nat := t.edge.release.map fun r => r.step

theorem test_release_steps :
    at_ (after (.releaseStep 0) State.reset) = some 2 ∧ at_ (after (.releaseStep 0) (releasing 2)) = some 3 ∧
      (after (.releaseStep 0) (releasing 2)).activeK = 18 ∧ at_ (after (.releaseStep 0) (releasing 3)) = some 4 ∧
      (after (.releaseStep 0) (releasing 4)).flag 18 .GLB_FUNC_READY_MBX = true ∧ (after (.releaseStep 0) (releasing 5)).flag 18 .GLB_FUNC_READY_THYME = true ∧
      at_ (after (.releaseStep 0x7FFF) (releasing 6)) = some 6 ∧ at_ (after (.releaseStep 0xFFFF) (releasing 6)) = some 7 ∧
      at_ (after (.releaseStep 0) (releasing 8)) = none ∧ (after (.releaseStep 0) (releasing 8)).flag 18 .GLB_FUNC_READY_PLACER = true := by decide +kernel

theorem test_stack_train_timeout :
    let t := after (.stackTrainTimeout 4) (releasing 6)
    let u := after (.stackTrainTimeout 4) (after (.stackTrainTimeout 4) t)
    Store.get 0 t.edge.trainTries 4 = 1 ∧ t.now = 1000000000 ∧ t.lostDies = [] ∧ u.lostDies = [4] := by decide +kernel

/-! Management and TAP (chapter 16). -/

theorem test_management :
    (after .getMessageTypeSupport live0).edge.mgmt.out = [mcOk, 3, 0, 1, 5] ∧ (after (.setTid 9) live0).edge.mgmt.tid = 9 ∧
      (after .getTid (after (.setTid 9) live0)).edge.mgmt.out = [mcOk, 9] ∧ (after (.setEndpointId 8) live0).edge.mgmt.eid = 8 ∧
      idles .getTid State.reset = true ∧ (after (.i3cDynamicAddress 0x30) live0).edge.mgmt.i3c = some 0x30 := by decide +kernel

theorem test_pldm_update :
    let a := after .requestUpdate live0
    let b := after (.passComponentTable []) a
    let c := after (.updateComponent 4) b
    let d := after (.firmwareDataResponse 0 [1, 2]) c
    a.edge.mgmt.update = 1 ∧ b.edge.mgmt.update = 2 ∧ c.edge.mgmt.size = 4 ∧ d.edge.mgmt.image = [1, 2] ∧
      idles (.firmwareDataResponse 1 [1]) d = true ∧ (after .cancelUpdate d).edge.mgmt.update = 0 ∧
      (after .requestUpdate a).edge.mgmt.out = [mcInUpdate] ∧ (after (.updateComponent 4) live0).edge.mgmt.out = [mcNotInUpdate] := by decide +kernel

/-- Table 16.5: VERSION, PART 0x4820, manufacturer and 1. -/
theorem test_tap :
    (after .idcode live0).edge.tap.dr = 0x04820573#32 ∧ (after .extest live0).edge.tap.ir = .bypass ∧
      (after .extest (after (.modrst true) live0)).edge.tap.ir = .extest ∧ (after .testLogicReset live0).edge.tap.ir = .idcode := by decide +kernel

/-! States that meet the hypotheses of the wider statements. -/

/-- R12: between the host's two reads another agent reads the same counter. -/
theorem witness_counter_pair :
    let lo := Reg.PWR_ENERGY_LO
    let s := live0.setCtr 3 lo 0x100000005#64
    let between := [Instr.counterLowerRead (.ctl 0 0) 3 (BitVec.ofNat 28 lo), Instr.counterUpperRead (.ctl 0 0) 3 (BitVec.ofNat 28 (lo + 4))]
    let t := (after (.counterLowerRead (.host 0) 3 (BitVec.ofNat 28 lo)) s).after between
    counterPair 3 (lo + 4) = some lo ∧ between.all (readByOther (.host 0)) = true ∧ t.edge.answer = .data [1, 0, 0, 0] ∧
      (after (.counterUpperRead (.host 0) 3 (BitVec.ofNat 28 (lo + 4))) t).edge.answer = .data [1, 0, 0, 0] ∧
      (after (.counterUpperRead (.host 0) 3 (BitVec.ofNat 28 (lo + 4))) t).holds = [] := by decide +kernel

/-- R235: past the end of shared SRAM an access moves no data. -/
theorem witness_unpopulated :
    let t := after (.partialWrite 0 .shared 0x4000000 [1] []) live0
    t = live0.setF 0 .MEM_ERR_UNMAPPED 1 ∧ (after (.memoryRead 0 .shared 0x4000000 []) live0).flag 0 .MEM_ERR_UNMAPPED = true ∧
      (after (.partialWrite 0 .shared 0x3FFFFFF [1] []) live0).byte (dpa 0 1 0x3FFFFFF) = 1 := by decide +kernel

/-- R158: B's first word waits while A's is not yet placed. -/
theorem witness_word_waits :
    let b : IssueJob := { cmd := 4, a := none, b := some mmN8, cnt := 1, da := 0, db := 0, initFirst := false, next := 0 }
    let s := (live0.setArr 0 0 0 { Arr.fresh with job := some { b with a := some ldsN8, b := none } }).setArr 0 0 1 { Arr.fresh with job := some b }
    idles (.issueUnitPlace 0 0 1) s = true ∧ ((after (.issueUnitPlace 0 0 1) (after (.issueUnitPlace 0 0 0) s)).arr 0 0 1).iq.length = 1 := by
  decide +kernel

/-- R336: at the boundary after a step, with the fence clear, a reshard is due; one that does not fit ends NO_RESOURCE. -/
theorem witness_reshard_due :
    let q : ReshardReq := { tag := 3, cut := List.replicate 64 1, fabric := [] }
    let s := { running with edge := { running.edge with boundary := some 0, reshard := some q } }
    let t := after (.phaseSwitch ⟨⟨true, false, 9, 9, 9⟩, []⟩) s
    s.canonical = true ∧ s.frozen = false ∧ s.reshardDue = true ∧ t.edge.reshard = none ∧ t.flag 3 .FNL_STATUS_FENCE = false ∧
      t.getF 0 .FNL_EPOCH_EPOCH = s.getF 0 .FNL_EPOCH_EPOCH := by decide +kernel

/-- R334: a contribution to an incomplete reduction holds the fence; a complete reduction does not. -/
theorem witness_fence :
    let r : Reduction := { rid := 7, epoch := 0, sets := [(0, [1])], frames := [], due := some 5 }
    let s (r : Reduction) : State := { running with edge := { running.edge with fnl := { running.edge.fnl with reds := [r] } } }
    (s r).fenceClear = false ∧ (s r).inFlight r = true ∧ (s { r with done := true }).fenceClear = true := by decide +kernel

/-- R302: lane 8 carries data only once it is the spare, and the lane that it replaced carries none. -/
theorem witness_lanes :
    let s := (linked.setF (portDie 0) (.LNK_PORT_STATUS_SPARE_USED (portIx 0)) 1).setF (portDie 0) (.LNK_PORT_STATUS_SPARE_FOR (portIx 0)) 3
    linked.laneCarries 0 8 = false ∧ s.laneCarries 0 8 = true ∧ s.laneCarries 0 3 = false ∧ (after (.laneFail 0 3) s).portState 0 = 2 ∧
      (after (.laneFail 0 8) s).portState 0 = 1 ∧ (after (.laneFail 0 8) s).flag (portDie 0) (.LNK_PORT_STATUS_SPARE_USED (portIx 0)) = false := by
  decide +kernel

/-- R304: a frame of 59 bytes, 63 with its FCS, is too short. -/
theorem witness_short_frame : idles (.ethernetFrame 6 (List.replicate 59 0xFF) true) linked = true ∧
    isPause (pauseFrame [2, 0, 0, 0, 0, 9] 0xFFFF) = true ∧ (withFcs (pauseFrame [2, 0, 0, 0, 0, 9] 0xFFFF)).length = 64 := by decide +kernel

/-- Table 13.6: a SEND to another die lapses, is retried once, and then completes with TIMEOUT and probes the die. -/
theorem witness_lapsing_send :
    let s := dispatched (.queSend 0 0) (cmdOf ([(0, 0x60)] ++ place 16 4 (3 * 2 ^ 14 + 33 + 1023 * 2 ^ 18)))
    let t := after (.dieTransactionTimeout 0 0 2 3) s
    let u := after (.dieTransactionTimeout 0 0 2 3) t
    (s.spr 0 0).sends.length = 1 ∧ (s.lapsing 0 0 2 3).isSome = true ∧ s.lapsing 0 0 2 4 = none ∧ t.edge.retried.length = 1 ∧
      (t.spr 0 0).sends.length = 1 ∧ (u.spr 0 0).sends = [] ∧ u.edge.probes = [3] := by decide +kernel

/-- R381, R382: an abort in the forward phase waits at the step-start barrier; one in the update phase waits for its variant. -/
theorem witness_step_abort :
    let s := { running with edge := { running.edge with abortAt := some 900 } }
    let t := after .stepAbort s
    let u := after .stepAbort { s with job := some { job0 with phase := 3 } }
    s.canonical = true ∧ t.edge.boundary = some 0 ∧ t.now = 900 ∧ t.barriers = [Barrier.new barStart 900] ∧
      (t.job.map fun j => (j.aborts, j.step, j.fetching)) = some (1, 5, false) ∧ u.edge.boundary = some 3 ∧ u.edge.rerun = true ∧
      (u.job.map fun j => (j.phase, j.fetching)) = some (2, false) := by decide +kernel

/-- R358, R380: completions that wait on the failed link go to the other; with no twin the module is lost. -/
theorem witness_failover :
    let r : List Word := [1, 2, 3]
    let s := live0.setChan 0 24 { Channel.fresh with queue := [r] }
    let t := after .mirrorHeartbeatTimeout s
    let w := after .failoverTimeout (after .mirrorHeartbeatTimeout (running.setF 18 .GLB_FUNC_READY_TWIN 0))
    s.canonical = true ∧ (s.chan 0 24).queue = [r] ∧ (t.chan 0 24).queue = [] ∧ (t.chan 1 24).queue.contains r = true ∧
      w.lostMods = [running.modIx] := by decide +kernel

/-- Log 117: a whole data unit of the current epoch enters the group parity, and is not held; another epoch's is discarded. -/
theorem witness_form_frame :
    let b := natLe 4 formRid ++ natLe 4 0 ++ natLe 8 0 ++ [0x5A]
    let f (e : Nat) := frameOf 1 0 true 5 3 e b
    let s := linked.takeData 0 (f 0)
    let u := linked.takeData 0 (f 7)
    linked.getF 0 .FNL_EPOCH_EPOCH = 0 ∧ frEpoch (f 7) = 7 ∧ s.edge.fnl.held = [] ∧ s.edge.fnl.parity.isEmpty = false ∧
      u.edge.fnl.parity = [] ∧ u.flag (portDie 0) .FNL_ERR_EPOCH = true := by decide +kernel

/-- Where the placer rebuilds the rows of C3 in a survivor's placer area, the premises of a rebuild hold. -/
theorem witness_rescue (h : ∀ r, Config.rescue 0 3 r = some (1, 0x10000 + r)) :
    ∀ r, r < 2 → parity2.rescueAt 3 r = some (dpa 1 0 (4096 * (0x10000 + r))) := by
  intro r hr
  have hj : parity2.job = none := by decide +kernel
  have hl : parity2.lostDies = [] := by decide +kernel
  have hp : parity2.isProtected 1 (4096 * (0x10000 + r)) = false := by
    match r, hr with
    | 0, _ => decide +kernel
    | 1, _ => decide +kernel
  have ht : 4096 * (0x10000 + r) + 4096 ≤ parity2.placerTop := by
    have : 4096 * 0x10002 ≤ parity2.placerTop := by decide +kernel
    omega
  have h0 := h r
  unfold State.rescueAt
  simp only [hj, h0, hl, hp, ht]
  rfl

end Sys2Proof.Tests
end

section
/-! SUPPORT. Host accesses of BAR0 and configuration requests: what each says of the state that it leaves, and the two
statements about them (R235, R339-R343, R468). -/

namespace Sys2Proof.Machine

/-! Answers. -/

@[simp] theorem State.answered_getF (s : State) (a : Answer) (d : Nat) (f : Fld) : (s.answered a).getF d f = s.getF d f := rfl
@[simp] theorem State.answered_reg (s : State) (a : Answer) (d off : Nat) : (s.answered a).reg d off = s.reg d off := rfl

/-! One word as bytes. -/

/-- A slice of a whole list is the list. -/
theorem slice_whole (bs : List Byte) : slice bs 0 bs.length = bs := by simp [slice]

/-- Four bytes are one little-endian word. -/
theorem wordsOf_one {bs : List Byte} (h : bs.length = 4) : wordsOf 1 bs = [BitVec.ofNat 32 (leNat bs)] := by
  simp only [wordsOf, fld, ← h, slice_whole]

theorem bytesOf_singleton (w : Word) : bytesOf [w] = natLe 4 w.toNat := by simp [bytesOf]

/-! Fields. -/

/-- A one-bit field that is set reads 1. -/
theorem State.getF_setF_one {s : State} (d : Nat) {f : Fld} (h : s.canonical = true) (hf : f.hi = f.lo) (hn : f.hi < 32) :
    (s.setF d f 1).getF d f = 1 := by
  rw [State.getF_setF_self d f 1 (State.sorted_regs h) hf.ge hn, hf, Nat.add_sub_cancel_left, pow_one, Nat.one_mod]

/-- A write of a field is a write of its register. -/
theorem State.setF_eq_setReg {s : State} (d : Nat) (f : Fld) (v : Nat) (h : s.canonical = true) :
    s.setF d f v = s.setReg d f.off ((s.setF d f v).reg d f.off) := by
  have hr : (s.setF d f v).reg d f.off = setBits (s.reg d f.off) f.hi f.lo v := State.reg_setReg_self d f.off _ h
  rw [hr]
  rfl

/-! Register reads (R9, R12): only the holding registers change. -/

theorem State.readAs_form (s : State) (ag : Agent) (d off : Nat) : ∃ hs, (s.readAs ag d off).1 = { s with holds := hs } := by
  unfold State.readAs
  split
  · exact ⟨s.holds, rfl⟩
  · dsimp only
    split
    · exact ⟨_, rfl⟩
    · split
      · exact ⟨_, rfl⟩
      · exact ⟨s.holds, rfl⟩

theorem State.regRead_form (s : State) (ag : Agent) (d off : Nat) : ∃ hs, (s.regRead ag d off).1 = { s with holds := hs } := by
  unfold State.regRead
  split
  · split
    · exact ⟨s.holds, rfl⟩
    · exact ⟨s.holds, rfl⟩
  · exact State.readAs_form s ag d off

/-! The register that a BAR0 offset reaches (R342, R343). -/

/-- The die whose register a BAR0 offset reaches. -/
def State.bar0Die (s : State) (l x : Nat) : Nat := if x < 0x1000000 then 18 + l else s.getF 18 .GLB_BAR0_WIN_DIE

/-- The offset of the register that a BAR0 offset reaches. -/
def State.bar0Off (s : State) (x : Nat) : Nat :=
  if x < 0x1000000 then x else s.getF 18 .GLB_BAR0_WIN_BASE * 2 ^ 24 + (x - 0x1000000)

theorem State.bar0Reg_of_lt (s : State) (l : Nat) {x : Nat} (hx : x < 0x2000000) :
    s.bar0Reg l x = some (s.bar0Die l x, s.bar0Off x, decide (¬ x < 0x1000000)) := by
  unfold State.bar0Reg State.bar0Die State.bar0Off
  by_cases ho : x < 0x1000000
  · simp only [ho, if_true, not_true, decide_false]
  · simp only [ho, hx, if_true, if_false, not_false_iff, decide_true]

/-- A write to the own die, through the window to a control die, or with debug authorization reaches the register. -/
theorem State.bar0Write_reaches (s : State) (l : KDie) {x : Nat} (v : Word) (hx : x < 0x2000000)
    (h : x < 0x1000000 ∨ 18 ≤ s.bar0Die l.val x ∨ s.authHeld = true) :
    s.bar0Write l.val x v = s.regWrite (.host l) (s.bar0Die l.val x) (s.bar0Off x) v 0 0 := by
  have hl : Fin.ofNat 2 l.val = l := Fin.ofNat_val_eq_self l
  have hc : (decide (¬ x < 0x1000000) && decide (s.bar0Die l.val x < 18) && !s.authHeld) = false := by
    rcases h with h | h | h
    · simp [h]
    · simp [Nat.not_lt.mpr h]
    · simp [h]
  simp only [State.bar0Write, State.bar0Reg_of_lt s l.val hx, hc, hl, Bool.false_eq_true, if_false]

/-- A write through the window to another die without debug authorization is discarded (R343). -/
theorem State.bar0Write_denied (s : State) (l : Nat) {x : Nat} (v : Word) (hx : x < 0x2000000) (ho : ¬ x < 0x1000000)
    (hd : s.bar0Die l x < 18) (ha : s.authHeld = false) : s.bar0Write l x v = s.setF 18 .GLB_ERR_DENIED 1 := by
  simp only [State.bar0Write, State.bar0Reg_of_lt s l hx, ho, hd, ha, not_false_iff, decide_true, Bool.not_false, Bool.and_self,
    if_true]

theorem State.bar0Read_of_lt (s : State) (l : KDie) {x : Nat} (hx : x < 0x2000000) :
    s.bar0Read l x = s.regRead (.host l) (s.bar0Die l.val x) (s.bar0Off x) := by
  simp only [State.bar0Read, State.bar0Reg_of_lt s l.val hx]

/-- The length of a host access: of a write, that of its data. -/
def accessLen (wr : Option (List Byte)) (len : Nat) : Nat := match wr with | some bs => bs.length | none => len

/-! What an unmapped request leaves (R235). -/

theorem State.unmapped_flag {s : State} (l : Nat) (isWrite : Bool) (h : s.canonical = true) :
    (s.unmapped l isWrite).getF (18 + l) .MEM_ERR_UNMAPPED = 1 := by
  rw [State.unmapped, State.answered_getF]
  exact State.getF_setF_one (f := .MEM_ERR_UNMAPPED) (18 + l) h rfl (by decide)

/-- MEM_ERR of the control die and the answer, and nothing else. -/
theorem State.unmapped_form {s : State} (l : Nat) (isWrite : Bool) (h : s.canonical = true) :
    s.unmapped l isWrite = (s.setReg (18 + l) Reg.MEM_ERR ((s.unmapped l isWrite).reg (18 + l) Reg.MEM_ERR)).answered
      (if isWrite then .none else .unsupported) := by
  rw [State.unmapped, State.answered_reg]
  exact congrArg (State.answered · _) (State.setF_eq_setReg (18 + l) .MEM_ERR_UNMAPPED 1 h)

/-! BAR0_ACCESS, while the link is up and its function not in D3hot. -/

section
variable {l : KDie} {off : BitVec 26} {s : State} (hup : s.linkUp l.val = true) (hd3 : s.d3.contains l.val = false)
include hup hd3

/-- A write of one aligned word. -/
theorem exec_bar0Access_writeWord {bs : List Byte} (n : Nat) (hal : off.toNat % 4 = 0) (hlen : bs.length = 4) :
    exec (.bar0Access l off (some bs) n true) s =
      .next ((s.bar0Write l.val off.toNat (BitVec.ofNat 32 (leNat bs))).answered .none) := by
  have hmem : l.val ∉ s.d3 := by simpa using hd3
  show execBar0Access l off (some bs) n true s = _
  simp [execBar0Access, hup, hmem, hal, hlen, wordsOf_one hlen, State.bar0Writes]

/-- A read of one aligned word. -/
theorem exec_bar0Access_readWord (hal : off.toNat % 4 = 0) :
    exec (.bar0Access l off none 4 true) s =
      .next ((s.bar0Read l off.toNat).1.answered (.data (natLe 4 (s.bar0Read l off.toNat).2.toNat))) := by
  have hmem : l.val ∉ s.d3 := by simpa using hd3
  show execBar0Access l off none 4 true s = _
  simp [execBar0Access, hup, hmem, hal, State.bar0Reads, bytesOf_singleton]

/-- An access that is not whole aligned words with every byte enabled (R468). -/
theorem exec_bar0Access_unmapped {wr : Option (List Byte)} {len : Nat} {allBytes : Bool}
    (h : allBytes = false ∨ off.toNat % 4 ≠ 0 ∨ accessLen wr len % 4 ≠ 0) :
    exec (.bar0Access l off wr len allBytes) s = .next (s.unmapped l.val wr.isSome) := by
  have hbad : (!allBytes || off.toNat % 4 != 0 || accessLen wr len % 4 != 0 || accessLen wr len == 0) = true := by
    rcases h with h | h | h
    · simp [h]
    · simp [h]
    · simp [h]
  exact congrArg _ ((if_neg (by simp [hup])).trans ((if_neg (by rw [hd3]; decide)).trans (if_pos hbad)))

end

/-- Settles O9: the one-word accesses by the register that the offset reaches, the others by the check of R468. -/
theorem bar0ReachesRegistersOrIsUnmapped : Obligations.Bar0ReachesRegistersOrIsUnmapped := by
  refine ⟨fun l off bs n s hup hd3 hal hx hlen => ⟨fun hreach => ?_, fun hown hdie hauth hc => ?_, ?_⟩,
    fun l off wr len allBytes s hc hup hd3 hbad => ?_⟩
  · refine ⟨_, exec_bar0Access_writeWord hup hd3 n hal hlen, ?_⟩
    rw [State.bar0Write_reaches s l _ hx hreach]
    rfl
  · refine ⟨_, exec_bar0Access_writeWord hup hd3 n hal hlen, ?_⟩
    rw [State.bar0Write_denied s l.val _ hx hown hdie hauth]
    exact ⟨State.getF_setF_one 18 hc rfl (by decide), rfl⟩
  · refine ⟨_, exec_bar0Access_readWord hup hd3 hal, ?_⟩
    rw [State.bar0Read_of_lt s l hx]
    obtain ⟨hs, hform⟩ := State.regRead_form s (.host l) (s.bar0Die l.val off.toNat) (s.bar0Off off.toNat)
    refine ⟨rfl, ?_⟩
    rw [hform]
    rfl
  · exact ⟨_, exec_bar0Access_unmapped hup hd3 hbad, State.unmapped_flag l.val _ hc, rfl, State.unmapped_form l.val _ hc⟩

/-! CONFIG_REQUEST (R339-R341). -/

theorem State.sorted_aer {s : State} (h : s.canonical = true) : Store.sorted s.edge.aer = true := by
  simp only [State.canonical, State.edgeCanonical, Bool.and_eq_true] at h
  obtain ⟨_, ⟨_, haer⟩, _⟩ := h
  exact haer

/-- A request whose arm, past the check of the link's HL bit, leaves `t`: with the link up it completes with what holds of `t`. -/
theorem configRequest_completes {l : KDie} {req : CfgReq} {s t : State} {P : State → Prop} (hup : s.linkUp l.val = true)
    (hexec : exec (.configRequest l req) s = .next (if !s.linkUp l.val then s.answered .retry else t)) (hP : P t) :
    Completes (.configRequest l req) s P :=
  ⟨t, by rw [hexec, hup]; rfl, hP⟩

theorem configRequest_retries {l : KDie} (req : CfgReq) {s : State} (hup : s.linkUp l.val = false) :
    exec (.configRequest l req) s = .next (s.answered .retry) := by
  show execConfigRequest l req s = _
  simp [execConfigRequest, hup]

/-- The functions in D3hot after link `k`'s is asked to enter it, and after it is asked to leave. -/
theorem contains_enterD3 (m : List Nat) (k : Nat) : (if m.contains k then m else m ++ [k]).contains k = true := by
  split
  · assumption
  · simp

theorem contains_leaveD3 (m : List Nat) (k : Nat) : (m.filter (· ≠ k)).contains k = false := by simp

/-- GLB_ROLE.LINK is the number of the link (R340). -/
theorem reset_role_link (l : KDie) : State.reset.getF (18 + l.val) .GLB_ROLE_LINK = l.val := by
  revert l
  decide +kernel

/-- Settles O11: the answer of each request once the link is up, and Request Retry Status before. -/
theorem configRequestsAnswer : Obligations.ConfigRequestsAnswer := by
  refine fun l req s => ⟨fun hdown => ⟨_, configRequest_retries req hdown, rfl⟩, fun hup => ?_, reset_role_link l⟩
  refine ⟨?deviceId, ?classCode, ?serial, ?enterD3, ?leaveD3, ?payload, ?msix, ?extCaps, ?aer, fun m hc => ?clearAer⟩
  case enterD3 => exact configRequest_completes hup rfl (contains_enterD3 s.d3 l.val)
  case leaveD3 => exact configRequest_completes hup rfl (contains_leaveD3 s.d3 l.val)
  case extCaps => exact configRequest_completes hup rfl ⟨_, rfl, rfl, rfl⟩
  case clearAer => exact configRequest_completes hup rfl (Store.get_set_self 0 l.val _ (State.sorted_aer hc))
  all_goals exact configRequest_completes hup rfl ⟨rfl, rfl⟩

end Sys2Proof.Machine
end

section
/-! SUPPORT. Debug authorization and scan-out: what an event, a closed challenge, a failed and a granted response, the end of an
authorization and a capture leave of registers, counters and stores, and the statement about them (R429-R431, R443). -/

namespace Sys2Proof.Machine

/-! What a read of a field depends on. -/

theorem State.getF_congr {s t : State} (h : t.regs = s.regs) (d : Nat) (f : Fld) : t.getF d f = s.getF d f := by
  simp only [State.getF, State.reg, h]

theorem State.flag_eq_false {s : State} {d : Nat} {f : Fld} (h : s.getF d f = 0) : s.flag d f = false := by simp [State.flag, h]

theorem State.flag_eq_true {s : State} {d : Nat} {f : Fld} (h : s.getF d f = 1) : s.flag d f = true := by simp [State.flag, h]

/-- A field that is cleared reads 0. -/
theorem State.getF_setF_zero {s : State} (d : Nat) (f : Fld) (hs : Store.sorted s.regs = true) (hl : f.lo ≤ f.hi) (hn : f.hi < 32) :
    (s.setF d f 0).getF d f = 0 := by
  rw [State.getF_setF_self d f 0 hs hl hn, Nat.zero_mod]

theorem State.sorted_regs_setF {s : State} (d : Nat) (f : Fld) (v : Nat) (hs : Store.sorted s.regs = true) :
    Store.sorted (s.setF d f v).regs = true := Store.sorted_set _ _ _ hs

theorem SameStores.of_eq {s t : State} (hm : t.mem = s.mem) (ha : t.acc = s.acc) (he : t.ecc = s.ecc) : SameStores s t :=
  ⟨hm, ha, fun _ _ => by rw [he]⟩

/-! An event leaves registers, Thyme, the edge and the stores alone, and of the counters those below 128 (R355). -/

section
variable (s : State) (cls code : Nat) (p : List Word)

@[simp] theorem State.event_regs : (s.event cls code p).regs = s.regs := by
  obtain ⟨ch, c, h⟩ := State.event_form s cls code p; rw [h]

@[simp] theorem State.event_now : (s.event cls code p).now = s.now := by
  obtain ⟨ch, c, h⟩ := State.event_form s cls code p; rw [h]

@[simp] theorem State.event_edge : (s.event cls code p).edge = s.edge := by
  obtain ⟨ch, c, h⟩ := State.event_form s cls code p; rw [h]

@[simp] theorem State.event_mem : (s.event cls code p).mem = s.mem := by
  obtain ⟨ch, c, h⟩ := State.event_form s cls code p; rw [h]

@[simp] theorem State.event_acc : (s.event cls code p).acc = s.acc := by
  obtain ⟨ch, c, h⟩ := State.event_form s cls code p; rw [h]

@[simp] theorem State.event_ecc : (s.event cls code p).ecc = s.ecc := by
  obtain ⟨ch, c, h⟩ := State.event_form s cls code p; rw [h]

@[simp] theorem State.event_getF (d : Nat) (f : Fld) : (s.event cls code p).getF d f = s.getF d f :=
  State.getF_congr (State.event_regs s cls code p) d f

@[simp] theorem State.event_flag (d : Nat) (f : Fld) : (s.event cls code p).flag d f = s.flag d f := by simp [State.flag]

@[simp] theorem State.event_authHeld : (s.event cls code p).authHeld = s.authHeld := State.event_flag s cls code p 18 _

end

/-- The control-die counters of Table 15.4 have keys of their own. -/
theorem regKey_dieCtr_ne {j k : Nat} (h : j ≠ k) : regKey 18 (dieCtr j) ≠ regKey 18 (dieCtr k) := by
  simp [regKey, regHome, dieCtr, h]

theorem State.enqueue_dieCtr {s : State} (l : Nat) (r : List Word) {k : Nat} (hk : k < 128) (h : s.canonical = true) :
    (s.enqueue l r).ctr 18 (dieCtr k) = s.ctr 18 (dieCtr k) := by
  unfold State.enqueue
  extract_lets c ch qs
  split
  · rfl
  · exact State.ctr_setCtr_ne _ (State.setChan_canonical _ _ _ h) (regKey_dieCtr_ne (by omega))

theorem State.event_dieCtr {s : State} (cls code : Nat) (p : List Word) {k : Nat} (hk : k < 128) (h : s.canonical = true) :
    (s.event cls code p).ctr 18 (dieCtr k) = s.ctr 18 (dieCtr k) := by
  have step (u : State) (l : Nat) (r : List Word) (hu : u.canonical = true) :
      (if u.linkTakes l cls then u.enqueue l r else u).ctr 18 (dieCtr k) = u.ctr 18 (dieCtr k) ∧
        (if u.linkTakes l cls then u.enqueue l r else u).canonical = true := by
    split
    · exact ⟨State.enqueue_dieCtr l r hk hu, State.enqueue_canonical l r hu⟩
    · exact ⟨rfl, hu⟩
  obtain ⟨hctr, hcanon⟩ := step s 0 (s.record cls code p) h
  exact (step _ 1 _ hcanon).1.trans hctr

/-! What an update of debug authorization's own state leaves. -/

/-- The state of debug authorization beside DBG_AUTH_STATUS is updated. -/
def State.setAuth (s : State) (f : Auth → Auth) : State := s.setEdge fun e => { e with auth := f e.auth }

section
variable (s : State) (f : Auth → Auth)

@[simp] theorem State.setAuth_getF (d : Nat) (g : Fld) : (s.setAuth f).getF d g = s.getF d g := rfl
@[simp] theorem State.setAuth_flag (d : Nat) (g : Fld) : (s.setAuth f).flag d g = s.flag d g := rfl

end

theorem State.setAuth_canonical {s : State} (f : Auth → Auth) (h : s.canonical = true) : (s.setAuth f).canonical = true :=
  State.canonical_of_eq h rfl rfl rfl rfl rfl rfl rfl rfl rfl rfl rfl rfl rfl rfl rfl rfl rfl

/-! The challenge (R429). -/

theorem State.closeChallenge_eq (s : State) :
    s.closeChallenge = (s.setF 18 .DBG_AUTH_STATUS_OPEN 0).setAuth fun a => { a with challenge := none } := rfl


theorem State.closeChallenge_canonical {s : State} (h : s.canonical = true) : s.closeChallenge.canonical = true := by
  rw [State.closeChallenge_eq]
  exact State.setAuth_canonical _ (State.setF_canonical 18 .DBG_AUTH_STATUS_OPEN 0 h)

theorem State.closeChallenge_open {s : State} (h : s.canonical = true) : s.closeChallenge.flag 18 .DBG_AUTH_STATUS_OPEN = false := by
  rw [State.closeChallenge_eq, State.setAuth_flag]
  exact State.flag_eq_false (State.getF_setF_zero 18 .DBG_AUTH_STATUS_OPEN (State.sorted_regs h) (by decide) (by decide))

/-- The fields of DBG_AUTH_STATUS other than OPEN stay. -/
theorem State.closeChallenge_getF {s : State} {g : Fld} (h : s.canonical = true) (ho : g.off = Reg.DBG_AUTH_STATUS)
    (hn : g.hi < 32) (ha : 30 < g.lo ∨ g.hi < 30) : s.closeChallenge.getF 18 g = s.getF 18 g := by
  rw [State.closeChallenge_eq, State.setAuth_getF]
  exact State.getF_setF_apart (f := .DBG_AUTH_STATUS_OPEN) 0 (State.sorted_regs h) ho (by decide) hn ha

/-- A challenge is opened unless a lockout stands. -/
theorem State.runAuthChallenge_opens {s : State} (req : List Word) (tag : Nat) (h : s.flag 18 .DBG_AUTH_STATUS_LOCKOUT = false) :
    s.runAuthChallenge req tag =
      (((s.freeBytes 32).1.setF 18 .DBG_AUTH_STATUS_OPEN 1).setAuth fun a =>
        { a with challenge := some ((s.freeBytes 32).2, s.now + 60000000000) },
       .done rcOk (wordsOf 8 (s.freeBytes 32).2)) := by
  unfold State.runAuthChallenge
  rw [h]
  rfl

/-! A granted response (R430). -/

theorem State.authGranted_eq (s : State) (secs : Nat) : s.authGranted secs =
    ((((s.closeChallenge.setF 18 .DBG_AUTH_STATUS_FAILS 0).setF 18 .DBG_AUTH_STATUS_HELD 1).setF 18 .DBG_AUTH_STATUS_REMAIN
      secs).setAuth fun a => { a with until_ := s.now + secs * 1000000000 }).event 7 4
        [BitVec.ofNat 32 secs] := rfl

theorem State.authGranted_held {s : State} (secs : Nat) (h : s.canonical = true) : (s.authGranted secs).authHeld = true := by
  have hc := State.setF_canonical 18 .DBG_AUTH_STATUS_FAILS 0 (State.closeChallenge_canonical h)
  rw [State.authGranted_eq, State.event_authHeld, State.authHeld, State.setAuth_flag]
  exact State.flag_eq_true
    ((State.getF_setF_apart (f := .DBG_AUTH_STATUS_REMAIN) (g := .DBG_AUTH_STATUS_HELD) secs
      (State.sorted_regs (State.setF_canonical _ _ _ hc)) rfl (by decide) (by decide) (by decide)).trans
    (State.getF_setF_one 18 hc rfl (by decide)))

theorem State.authGranted_fails {s : State} (secs : Nat) (h : s.canonical = true) :
    (s.authGranted secs).getF 18 .DBG_AUTH_STATUS_FAILS = 0 := by
  have hs := State.sorted_regs (State.closeChallenge_canonical h)
  have hf := State.sorted_regs_setF 18 .DBG_AUTH_STATUS_FAILS 0 hs
  rw [State.authGranted_eq, State.event_getF, State.setAuth_getF]
  calc
    _ = ((s.closeChallenge.setF 18 .DBG_AUTH_STATUS_FAILS 0).setF 18 .DBG_AUTH_STATUS_HELD 1).getF 18 .DBG_AUTH_STATUS_FAILS :=
      State.getF_setF_apart (f := .DBG_AUTH_STATUS_REMAIN) secs (State.sorted_regs_setF 18 .DBG_AUTH_STATUS_HELD 1 hf) rfl
        (by decide) (by decide) (by decide)
    _ = (s.closeChallenge.setF 18 .DBG_AUTH_STATUS_FAILS 0).getF 18 .DBG_AUTH_STATUS_FAILS :=
      State.getF_setF_apart (f := .DBG_AUTH_STATUS_HELD) 1 hf rfl (by decide) (by decide) (by decide)
    _ = 0 := State.getF_setF_zero 18 .DBG_AUTH_STATUS_FAILS hs (by decide) (by decide)

/-! A failed response (R430). -/

/-- A failed response is counted: the challenge closes, and FAILS advances to 8 at most. -/
def State.failCounted (s : State) : State :=
  (s.closeChallenge.countK 12 1).setF 18 .DBG_AUTH_STATUS_FAILS (min 8 (s.getF 18 .DBG_AUTH_STATUS_FAILS + 1))

/-- The lockout starts. -/
def State.lockOut (s : State) : State :=
  (s.setF 18 .DBG_AUTH_STATUS_LOCKOUT 1).setAuth fun a => { a with lock := s.now + 600000000000 }

/-- A failed response is counted, the eighth starts the lockout, and an event reports it. -/
theorem State.authFailed_eq (s : State) : s.authFailed =
    (if s.getF 18 .DBG_AUTH_STATUS_FAILS = 7 then s.failCounted.lockOut else s.failCounted).event 7 6
      [BitVec.ofNat 32 (min 8 (s.getF 18 .DBG_AUTH_STATUS_FAILS + 1))] := rfl

section
variable {s : State} (h : s.canonical = true)
include h

theorem State.failCounted_sorted : Store.sorted (s.closeChallenge.countK 12 1).regs = true :=
  State.sorted_regs (State.countK_canonical 12 1 (State.closeChallenge_canonical h))

theorem State.failCounted_canonical : s.failCounted.canonical = true :=
  State.setF_canonical _ _ _ (State.countK_canonical _ _ (State.closeChallenge_canonical h))

/-- FAILS alone is written after the challenge has closed. -/
theorem State.failCounted_getF_closed {g : Fld} (ho : g.off = Reg.DBG_AUTH_STATUS) (hn : g.hi < 32)
    (hfails : 20 < g.lo ∨ g.hi < 17) : s.failCounted.getF 18 g = s.closeChallenge.getF 18 g :=
  (State.getF_setF_apart (f := .DBG_AUTH_STATUS_FAILS) _ (State.failCounted_sorted h) ho (by decide) hn hfails).trans
    (State.getF_congr (State.countK_regs _ _ _) 18 g)

/-- The fields of DBG_AUTH_STATUS other than OPEN and FAILS stay. -/
theorem State.failCounted_getF {g : Fld} (ho : g.off = Reg.DBG_AUTH_STATUS) (hn : g.hi < 32) (hopen : 30 < g.lo ∨ g.hi < 30)
    (hfails : 20 < g.lo ∨ g.hi < 17) : s.failCounted.getF 18 g = s.getF 18 g :=
  (State.failCounted_getF_closed h ho hn hfails).trans (State.closeChallenge_getF h ho hn hopen)

theorem State.failCounted_open : s.failCounted.flag 18 .DBG_AUTH_STATUS_OPEN = false := by
  rw [State.flag, State.failCounted_getF_closed h rfl (by decide) (by decide)]
  exact State.closeChallenge_open h

theorem State.failCounted_fails (hn : s.getF 18 .DBG_AUTH_STATUS_FAILS < 8) :
    s.failCounted.getF 18 .DBG_AUTH_STATUS_FAILS = s.getF 18 .DBG_AUTH_STATUS_FAILS + 1 := by
  have hmin : min 8 (s.getF 18 .DBG_AUTH_STATUS_FAILS + 1) = s.getF 18 .DBG_AUTH_STATUS_FAILS + 1 := by omega
  have hself : s.failCounted.getF 18 .DBG_AUTH_STATUS_FAILS = min 8 (s.getF 18 .DBG_AUTH_STATUS_FAILS + 1) % 2 ^ 4 :=
    State.getF_setF_self 18 .DBG_AUTH_STATUS_FAILS _ (State.failCounted_sorted h) (by decide) (by decide)
  rw [hself, hmin, Nat.mod_eq_of_lt (by omega)]

theorem State.failCounted_dieCtr : s.failCounted.ctr 18 (dieCtr 12) = s.ctr 18 (dieCtr 12) + 1 :=
  State.ctr_setCtr_self 18 (dieCtr 12) (s.ctr 18 (dieCtr 12) + 1) (State.closeChallenge_canonical h)

/-- The lockout shows in LOCKOUT alone of the fields of DBG_AUTH_STATUS. -/
theorem State.lockOut_getF {g : Fld} (ho : g.off = Reg.DBG_AUTH_STATUS) (hn : g.hi < 32) (ha : 29 < g.lo ∨ g.hi < 29) :
    s.lockOut.getF 18 g = s.getF 18 g := by
  rw [State.lockOut, State.setAuth_getF]
  exact State.getF_setF_apart (f := .DBG_AUTH_STATUS_LOCKOUT) 1 (State.sorted_regs h) ho (by decide) hn ha

theorem State.lockOut_canonical : s.lockOut.canonical = true :=
  State.setAuth_canonical _ (State.setF_canonical _ _ _ h)

theorem State.lockOut_flag : s.lockOut.flag 18 .DBG_AUTH_STATUS_LOCKOUT = true := by
  rw [State.lockOut, State.setAuth_flag]
  exact State.flag_eq_true (State.getF_setF_one 18 h rfl (by decide))

/-- Of the fields of DBG_AUTH_STATUS, a failure shows in OPEN, FAILS and LOCKOUT alone. -/
theorem State.authFailed_getF {g : Fld} (ho : g.off = Reg.DBG_AUTH_STATUS) (hn : g.hi < 32) (ha : 29 < g.lo ∨ g.hi < 29) :
    s.authFailed.getF 18 g = s.failCounted.getF 18 g := by
  rw [State.authFailed_eq, State.event_getF]
  split
  · exact State.lockOut_getF (State.failCounted_canonical h) ho hn ha
  · rfl

theorem State.authFailed_held : s.authFailed.authHeld = s.authHeld := by
  have hheld : s.authFailed.getF 18 .DBG_AUTH_STATUS_HELD = s.getF 18 .DBG_AUTH_STATUS_HELD :=
    (State.authFailed_getF h rfl (by decide) (by decide)).trans
      (State.failCounted_getF h rfl (by decide) (by decide) (by decide))
  simp only [State.authHeld, State.flag, hheld]

theorem State.authFailed_open : s.authFailed.flag 18 .DBG_AUTH_STATUS_OPEN = false := by
  rw [State.flag, State.authFailed_getF h rfl (by decide) (by decide)]
  exact State.failCounted_open h

theorem State.authFailed_dieCtr : s.authFailed.ctr 18 (dieCtr 12) = s.ctr 18 (dieCtr 12) + 1 := by
  have hc := State.failCounted_canonical h
  rw [State.authFailed_eq]
  split
  · exact (State.event_dieCtr _ _ _ (by decide) (State.lockOut_canonical hc)).trans
      (State.failCounted_dieCtr h)
  · exact (State.event_dieCtr _ _ _ (by decide) hc).trans (State.failCounted_dieCtr h)

/-- The eighth failure starts a lockout of 600 s. -/
theorem State.authFailed_eighth (hn : s.getF 18 .DBG_AUTH_STATUS_FAILS = 7) :
    s.authFailed.flag 18 .DBG_AUTH_STATUS_LOCKOUT = true ∧ s.authFailed.edge.auth.lock = s.now + 600000000000 := by
  rw [State.authFailed_eq, if_pos hn, State.event_flag, State.event_edge]
  exact ⟨State.lockOut_flag (State.failCounted_canonical h), rfl⟩

end

theorem State.authFailed_challenge (s : State) : s.authFailed.edge.auth.challenge = none := by
  rw [State.authFailed_eq, State.event_edge]
  split <;> rfl

/-! The end of an authorization (R431, R337). -/

/-- Injection stops on a list of ports. -/
def State.stopInjection (s : State) (pts : List Nat) : State :=
  pts.foldl (fun s pt => s.setF (portDie pt) (.LNK_INJ_CTL_EN (portIx pt)) 0) s

theorem regKey_injCtl (pt : Nat) :
    regKey (portDie pt) (Reg.LNK_INJ_CTL (portIx pt)) = (16 + pt / 8) * 2 ^ 28 + (0xB0020 + 0x400 * (pt % 8)) := by
  have hown : twinShared (Reg.LNK_INJ_CTL (portIx pt)) = false :=
    decide_eq_false (by simp only [Reg.LNK_INJ_CTL, portBase, portIx]; omega)
  have hhome : regHome (portDie pt) (Reg.LNK_INJ_CTL (portIx pt)) = portDie pt := if_neg (by simp [hown])
  rw [regKey, hhome]
  simp only [Reg.LNK_INJ_CTL, portBase, portDie, portIx]
  omega

theorem regKey_authStatus_ne_injCtl (pt : Nat) :
    regKey 18 Reg.DBG_AUTH_STATUS ≠ regKey (portDie pt) (Reg.LNK_INJ_CTL (portIx pt)) := by
  have hk : regKey 18 Reg.DBG_AUTH_STATUS = 18 * 2 ^ 28 + 0x150030 := by decide
  rw [hk, regKey_injCtl]
  omega

theorem regKey_injCtl_ne {pt pt' : Nat} (h : pt' ≠ pt) :
    regKey (portDie pt') (Reg.LNK_INJ_CTL (portIx pt')) ≠ regKey (portDie pt) (Reg.LNK_INJ_CTL (portIx pt)) := by
  rw [regKey_injCtl, regKey_injCtl]
  omega

theorem State.injCtlEn_cleared {s : State} (pt : Nat) (hs : Store.sorted s.regs = true) :
    (s.setF (portDie pt) (.LNK_INJ_CTL_EN (portIx pt)) 0).getF (portDie pt) (.LNK_INJ_CTL_EN (portIx pt)) = 0 :=
  State.getF_setF_zero (portDie pt) (.LNK_INJ_CTL_EN (portIx pt)) hs (by simp [Fld.LNK_INJ_CTL_EN]) (by simp [Fld.LNK_INJ_CTL_EN])

theorem State.stopInjection_form (pts : List Nat) : ∀ s : State, ∃ rg, s.stopInjection pts = { s with regs := rg } := by
  induction pts with
  | nil => exact fun s => ⟨s.regs, rfl⟩
  | cons p ps ih =>
    intro s
    obtain ⟨rg, h⟩ := ih (s.setF (portDie p) (.LNK_INJ_CTL_EN (portIx p)) 0)
    exact ⟨rg, h⟩

theorem State.stopInjection_authHeld (pts : List Nat) : ∀ {s : State}, Store.sorted s.regs = true →
    (s.stopInjection pts).getF 18 .DBG_AUTH_STATUS_HELD = s.getF 18 .DBG_AUTH_STATUS_HELD := by
  induction pts with
  | nil => exact fun _ => rfl
  | cons p ps ih =>
    exact fun hs => (ih (State.sorted_regs_setF _ _ _ hs)).trans
      (State.getF_setF_ne (f := .LNK_INJ_CTL_EN (portIx p)) 0 hs (regKey_authStatus_ne_injCtl p))

/-- Injection that is off on a port stays off as it stops on others. -/
theorem State.stopInjection_keepsOff {pt : Nat} (pts : List Nat) : ∀ {s : State}, Store.sorted s.regs = true →
    s.getF (portDie pt) (.LNK_INJ_CTL_EN (portIx pt)) = 0 →
    (s.stopInjection pts).getF (portDie pt) (.LNK_INJ_CTL_EN (portIx pt)) = 0 := by
  induction pts with
  | nil => exact fun _ h => h
  | cons p ps ih =>
    refine fun {s} hs hoff => ih (State.sorted_regs_setF _ _ _ hs) ?_
    by_cases hp : pt = p
    · subst hp
      exact State.injCtlEn_cleared pt hs
    · exact (State.getF_setF_ne (f := .LNK_INJ_CTL_EN (portIx p)) (g := .LNK_INJ_CTL_EN (portIx pt)) 0 hs
        (regKey_injCtl_ne hp)).trans hoff

theorem State.stopInjection_off {pt : Nat} (pts : List Nat) : ∀ {s : State}, Store.sorted s.regs = true → pt ∈ pts →
    (s.stopInjection pts).getF (portDie pt) (.LNK_INJ_CTL_EN (portIx pt)) = 0 := by
  induction pts with
  | nil => exact fun _ h => nomatch h
  | cons p ps ih =>
    intro s hs hmem
    have hs' := State.sorted_regs_setF (portDie p) (.LNK_INJ_CTL_EN (portIx p)) 0 hs
    rcases List.mem_cons.mp hmem with rfl | hmem
    · exact State.stopInjection_keepsOff ps hs' (State.injCtlEn_cleared pt hs)
    · exact ih hs' hmem

/-- HELD and the time of expiry are cleared. -/
def State.dropHeld (s : State) : State :=
  (s.setF 18 .DBG_AUTH_STATUS_HELD 0).setAuth fun a => { a with until_ := 0 }

theorem State.endAuth_of_held {s : State} (why : Nat) (h : s.authHeld = true) :
    s.endAuth why = (s.dropHeld.stopInjection (List.range 16)).event 7 5 [BitVec.ofNat 32 why] := by
  unfold State.endAuth
  rw [h]
  rfl

theorem State.endAuth_of_not_held {s : State} (why : Nat) (h : s.authHeld = false) : s.endAuth why = s := by
  unfold State.endAuth
  rw [h]
  rfl

/-- What holds once an authorization that was held has ended: HELD is clear, injection is off on every port, and Thyme and the
stores are as before. -/
theorem State.endAuth_ends {s : State} (why : Nat) (hc : s.canonical = true) (h : s.authHeld = true) :
    (s.endAuth why).now = s.now ∧ (s.endAuth why).authHeld = false ∧ SameStores s (s.endAuth why) ∧
      ∀ pt : Port, (s.endAuth why).flag (portDie pt) (.LNK_INJ_CTL_EN (portIx pt)) = false := by
  have hs : Store.sorted s.dropHeld.regs = true := State.sorted_regs_setF 18 .DBG_AUTH_STATUS_HELD 0 (State.sorted_regs hc)
  obtain ⟨rg, hform⟩ := State.stopInjection_form (List.range 16) s.dropHeld
  rw [State.endAuth_of_held why h]
  refine ⟨?now, ?held, SameStores.of_eq ?mem ?acc ?ecc, fun pt => ?inj⟩
  case held =>
    rw [State.event_authHeld]
    exact State.flag_eq_false ((State.stopInjection_authHeld _ hs).trans
      (State.getF_setF_zero 18 .DBG_AUTH_STATUS_HELD (State.sorted_regs hc) (by decide) (by decide)))
  case inj =>
    rw [State.event_flag]
    exact State.flag_eq_false (State.stopInjection_off _ hs (List.mem_range.mpr pt.isLt))
  case now => rw [State.event_now, hform]; rfl
  case mem => rw [State.event_mem, hform]; rfl
  case acc => rw [State.event_acc, hform]; rfl
  case ecc => rw [State.event_ecc, hform]; rfl

/-! A capture leaves the registers alone (R443). -/

theorem State.foldl_regs {α : Type} {f : State → α → State} (hf : ∀ s a, (f s a).regs = s.regs) (l : List α) :
    ∀ s : State, (l.foldl f s).regs = s.regs := by
  induction l with
  | nil => exact fun _ => rfl
  | cons a l ih => exact fun s => (ih (f s a)).trans (hf s a)

@[simp] theorem State.poke_regs (bs : List Byte) : ∀ (s : State) (a : Nat), (s.poke a bs).regs = s.regs := by
  induction bs with
  | nil => exact fun _ _ => rfl
  | cons b bs ih => exact fun s a => ih (s.setByte a b) (a + 1)

@[simp] theorem State.scramble_regs (s : State) (a n : Nat) : (s.scramble a n).regs = s.regs := State.poke_regs _ _ _

theorem State.captureQueue_regs (s : State) (d p q base : Nat) : (s.captureQueue d p q base).regs = s.regs := by
  unfold State.captureQueue
  refine State.foldl_regs (fun s i => ?_) _ s
  split
  · exact State.poke_regs _ _ _
  · rfl

theorem State.captureSprig_regs (s : State) (d p base : Nat) : (s.captureSprig d p base).regs = s.regs := by
  simp only [State.captureSprig, State.foldl_regs, State.poke_regs, State.captureQueue_regs, implies_true]

theorem State.capturePorts_regs (s : State) (d base : Nat) : (s.capturePorts d base).regs = s.regs := by
  unfold State.capturePorts
  refine State.foldl_regs (fun s k => State.foldl_regs (fun s i => ?_) _ s) _ s
  split
  · exact State.poke_regs _ _ _
  · rfl

theorem State.captureDie_regs (s : State) (d tscan : Nat) : (s.captureDie d tscan).regs = s.regs := by
  simp only [State.captureDie, apply_ite State.regs, State.poke_regs, State.scramble_regs, State.foldl_regs,
    State.captureSprig_regs, State.capturePorts_regs, implies_true, ite_self]

/-! The dies of a scan (R443). -/

/-- A mask of some of the twenty dies fits DBG_SCAN_STATUS.DONE. -/
theorem dieMask_lt (v : Nat) (q : Nat → Bool) : (((setBitsOf 20 v).filter q).map (2 ^ ·)).foldl (· + ·) 0 < 2 ^ 20 := by
  have hsub : ((setBitsOf 20 v).filter q).Sublist (List.range 20) := List.filter_sublist.trans List.filter_sublist
  have hle : (((setBitsOf 20 v).filter q).map (2 ^ ·)).sum ≤ ((List.range 20).map (2 ^ ·)).sum :=
    (hsub.map (2 ^ ·)).sum_le_sum fun _ _ => Nat.zero_le _
  have htop : ((List.range 20).map (2 ^ ·)).sum < 2 ^ 20 := by decide
  rw [← List.sum_eq_foldl]
  exact hle.trans_lt htop

/-- What SCANOUT leaves once `good` dies have been captured, `m` their mask. -/
def State.scanned (s : State) (good : List Nat) (m : Nat) : State :=
  (((good.foldl (fun u d => u.captureDie d s.now) s).setF 18 .DBG_SCAN_STATUS_DONE m).countK 11 1).event 7 3 [BitVec.ofNat 32 m]

theorem State.capture_regs (s : State) (good : List Nat) (t : Nat) :
    (good.foldl (fun u d => u.captureDie d t) s).regs = s.regs :=
  State.foldl_regs (fun u d => State.captureDie_regs u d t) good s

theorem State.scanned_done {s : State} (good : List Nat) {m : Nat} (h : s.canonical = true) (hm : m < 2 ^ 20) :
    (s.scanned good m).getF 18 .DBG_SCAN_STATUS_DONE = m := by
  have hs : Store.sorted (good.foldl (fun u d => u.captureDie d s.now) s).regs = true := by
    rw [State.capture_regs]; exact State.sorted_regs h
  rw [State.scanned, State.event_getF]
  exact (State.getF_setF_self 18 .DBG_SCAN_STATUS_DONE m hs (by decide) (by decide)).trans (Nat.mod_eq_of_lt hm)

theorem State.scanned_stopState {s : State} (good : List Nat) (m : Nat) (h : s.canonical = true) :
    (s.scanned good m).getF 18 .DBG_STOP_STATUS_STATE = s.getF 18 .DBG_STOP_STATUS_STATE := by
  have hs : Store.sorted (good.foldl (fun u d => u.captureDie d s.now) s).regs = true := by
    rw [State.capture_regs]; exact State.sorted_regs h
  rw [State.scanned, State.event_getF]
  exact (State.getF_setF_ne (f := .DBG_SCAN_STATUS_DONE) (g := .DBG_STOP_STATUS_STATE) m hs (by decide)).trans
    (State.getF_congr (State.capture_regs s good s.now) 18 _)

/-- With authorization, of a stopped module, the named dies that do not fail are captured. -/
theorem State.runScanout_captures {s : State} (failed : BitVec 20) (req : List Word) (tag : Nat) (ha : s.authHeld = true)
    (hstop : s.getF 18 .DBG_STOP_STATUS_STATE = 2) {named good : List Nat} {m : Nat}
    (hnamed : named = setBitsOf 20 (bits (req.getD 1 0) 19 0))
    (hgood : good = named.filter fun d => !failed.getLsbD d && !s.dieGone d) (hm : m = (good.map (2 ^ ·)).foldl (· + ·) 0) :
    State.runScanout failed s req tag = (s.scanned good m,
      .accept rcPending (some (if good.length = named.length then rcOk else rcPartial, [BitVec.ofNat 32 m]))) := by
  subst hm hgood hnamed
  unfold State.runScanout
  rw [if_neg (by simp [ha]), if_neg (by simp [hstop])]
  rfl

/-! The responses. -/

section
variable {s s1 : State} {req : List Word} {b : List Byte} (tag : Nat) (hlen : argW req 3 = 144)
  (hread : s.readArg (argDpa req 1) 144 = (s1, .ok b))
include hlen hread

theorem State.runAuthResponse_grants (hv : s1.authValid b = true) :
    s.runAuthResponse req tag = (s1.authGranted (fld b 40 4), .done rcOk [BitVec.ofNat 32 (fld b 40 4)]) := by
  simp [State.runAuthResponse, hlen, hread, hv]

theorem State.runAuthResponse_fails (hv : s1.authValid b = false) :
    s.runAuthResponse req tag = (s1.authFailed, .done rcDenied []) := by
  simp [State.runAuthResponse, hlen, hread, hv]

end

/-! The timers: AUTH_EXPIRY, CHALLENGE_EXPIRY, LOCKOUT_EXPIRY. -/

theorem exec_authExpiry (s : State) :
    exec .authExpiry s = .next (if s.authHeld then (s.advanceTo s.edge.auth.until_).endAuth 1 else s) := rfl

theorem exec_challengeExpiry_open {s : State} {c : List Byte} {n : Nat} (h : s.edge.auth.challenge = some (c, n)) :
    exec .challengeExpiry s = .next (s.advanceTo n).closeChallenge := by
  show execChallengeExpiry s = _
  simp [execChallengeExpiry, h]

theorem exec_challengeExpiry_none {s : State} (h : s.edge.auth.challenge = none) : exec .challengeExpiry s = .next s := by
  show execChallengeExpiry s = _
  simp [execChallengeExpiry, h]

/-- LOCKOUT and FAILS are cleared. -/
def State.unlocked (s : State) : State := (s.setF 18 .DBG_AUTH_STATUS_LOCKOUT 0).setF 18 .DBG_AUTH_STATUS_FAILS 0

theorem exec_lockoutExpiry (s : State) : exec .lockoutExpiry s =
    .next (if s.flag 18 .DBG_AUTH_STATUS_LOCKOUT then (s.advanceTo s.edge.auth.lock).unlocked else s) := rfl

theorem State.unlocked_fails {s : State} (h : s.canonical = true) : s.unlocked.getF 18 .DBG_AUTH_STATUS_FAILS = 0 :=
  State.getF_setF_zero 18 .DBG_AUTH_STATUS_FAILS (State.sorted_regs_setF 18 .DBG_AUTH_STATUS_LOCKOUT 0 (State.sorted_regs h))
    (by decide) (by decide)

theorem State.unlocked_lockout {s : State} (h : s.canonical = true) : s.unlocked.flag 18 .DBG_AUTH_STATUS_LOCKOUT = false :=
  State.flag_eq_false
    ((State.getF_setF_apart (f := .DBG_AUTH_STATUS_FAILS) (g := .DBG_AUTH_STATUS_LOCKOUT) 0
      (State.sorted_regs_setF 18 .DBG_AUTH_STATUS_LOCKOUT 0 (State.sorted_regs h)) rfl (by decide) (by decide) (by decide)).trans
    (State.getF_setF_zero 18 .DBG_AUTH_STATUS_LOCKOUT (State.sorted_regs h) (by decide) (by decide)))

/-- Settles O49: the commands of authorization, then its timers and scan-out, each by what its operation leaves. -/
theorem debugAuthorizationIsGrantedAndEnds : Obligations.DebugAuthorizationIsGrantedAndEnds := by
  refine ⟨fun req tag s hc => ⟨fun hlock => ?locked, fun hlock => ?challenge, fun hlen => ?badLength,
      fun s1 b hlen hread hv h1 => ?granted, fun s1 b hlen hread hv h1 => ?failed, rfl, State.endAuth_of_not_held 0,
      fun ha => (State.endAuth_ends 0 hc ha).2⟩,
    fun req tag failed s hc => ⟨fun ha => ?expiry, fun ha => ?noExpiry, fun c n hopen => ?closes, exec_challengeExpiry_none,
      fun hlock => ?unlocks, fun hlock => ?noLockout, fun ha => ?scanDenied, fun ha hrun => ?scanBusy, fun ha hstop => ?scan⟩⟩
  case locked => exact if_pos hlock
  case challenge =>
    refine ⟨(s.freeBytes 32).2, by simp [State.freeBytes], ?_⟩
    rw [State.runAuthChallenge_opens req tag hlock]
    have hc' : (s.freeBytes 32).1.canonical = true := hc
    exact ⟨rfl, State.flag_eq_true (State.getF_setF_one 18 hc' rfl (by decide)), rfl⟩
  case badLength => exact if_pos hlen
  case granted =>
    intro r
    have hr : r = _ := State.runAuthResponse_grants tag hlen hread hv
    rw [hr]
    refine ⟨rfl, State.authGranted_held _ h1, State.authGranted_fails _ h1, ?_, ?_⟩
    · rw [State.authGranted_eq, State.event_edge]; rfl
    · rw [State.authGranted_eq, State.event_edge]; rfl
  case failed =>
    intro r n
    have hr : r = _ := State.runAuthResponse_fails tag hlen hread hv
    rw [hr]
    exact ⟨rfl, State.authFailed_challenge s1, State.authFailed_held h1, State.authFailed_open h1,
      fun hn => (State.authFailed_getF h1 rfl (by decide) (by decide)).trans (State.failCounted_fails h1 hn),
      State.authFailed_dieCtr h1, State.authFailed_eighth h1⟩
  case expiry =>
    exact ⟨_, by rw [exec_authExpiry, if_pos ha], State.endAuth_ends 1 (State.advanceTo_canonical _ hc) ha⟩
  case noExpiry => rw [exec_authExpiry, ha]; rfl
  case closes => exact ⟨_, exec_challengeExpiry_open hopen, rfl, rfl, State.closeChallenge_open (State.advanceTo_canonical n hc)⟩
  case unlocks =>
    have hc' := State.advanceTo_canonical s.edge.auth.lock hc
    exact ⟨_, by rw [exec_lockoutExpiry, if_pos hlock], rfl, State.unlocked_lockout hc', State.unlocked_fails hc'⟩
  case noLockout => rw [exec_lockoutExpiry, hlock]; rfl
  case scanDenied => exact if_pos (by simp [ha])
  case scanBusy => exact (if_neg (by simp [ha])).trans (if_pos hrun)
  case scan =>
    intro m r
    have hr : r = _ := State.runScanout_captures failed req tag ha hstop rfl rfl rfl
    rw [hr]
    exact ⟨rfl, State.scanned_done _ hc (dieMask_lt _ _), (State.scanned_stopState _ _ hc).trans hstop⟩

end Sys2Proof.Machine
end

section
/-! SUPPORT. The management bus and the TAP: what an answer, an update message, a piece of an image and a loaded TAP instruction
leave, how a reset reaches the TAP, and the statement about them (R454-R459). -/

namespace Sys2Proof.Machine

/-! Answers and effects once the management block is ready, and nothing before (R454). -/

section
variable {s : State} {i : Instr} {bs : List Byte} {f : Mgmt → Mgmt}

theorem State.reply_ready (h : s.flag 18 .GLB_FUNC_READY_MGT = true) :
    s.reply bs = s.setMgmt fun m => { m with out := bs } := if_pos h

theorem State.reply_notReady (h : s.flag 18 .GLB_FUNC_READY_MGT = false) : s.reply bs = s := if_neg (by simp [h])

theorem State.act_ready (h : s.flag 18 .GLB_FUNC_READY_MGT = true) :
    s.act f bs = s.setMgmt fun m => { f m with out := bs } := if_pos h

/-- A row that answers changes nothing but the answer. -/
theorem reply_completes (h : s.flag 18 .GLB_FUNC_READY_MGT = true) (hexec : exec i s = .next (s.reply bs)) :
    Completes i s fun t => t = { s with edge := { s.edge with mgmt := { s.edge.mgmt with out := bs } } } :=
  ⟨_, hexec, State.reply_ready h⟩

/-- A row with an effect has it and answers. -/
theorem act_completes {m : Mgmt} (h : s.flag 18 .GLB_FUNC_READY_MGT = true) (hexec : exec i s = .next (s.act f bs))
    (hm : { f s.edge.mgmt with out := bs } = m) : Completes i s fun t => t = { s with edge := { s.edge with mgmt := m } } :=
  ⟨_, hexec, by rw [State.act_ready h, ← hm]; rfl⟩

/-- A row whose meaning is an answer answers it once the block is ready, and idles before. -/
theorem answers_of_reply (hexec : exec i s = .next (s.reply bs)) :
    (s.flag 18 .GLB_FUNC_READY_MGT = true → Completes i s fun t =>
      t = { s with edge := { s.edge with mgmt := { s.edge.mgmt with out := bs } } }) ∧
    (s.flag 18 .GLB_FUNC_READY_MGT = false → exec i s = .next s) :=
  ⟨fun h => reply_completes h hexec, fun h => by rw [hexec, State.reply_notReady h]⟩

end

theorem exec_getNumericEffecterValue (x : BitVec 16) (s : State) : exec (.getNumericEffecterValue x) s =
    .next (s.reply (if x = Config.capEffecter then bodyOf mcOk 0x0232 (natLe 4 (s.getF 18 .PWR_CAP_WATTS))
      else [mcInvalidEffecter])) :=
  congrArg _ (apply_ite s.reply _ _ _).symm

/-! GETSENSORREADING draws the bytes of the sensors that no row brings (log 13). -/

theorem exec_getSensorReading_ready {s : State} (x : BitVec 16) (h : s.flag 18 .GLB_FUNC_READY_MGT = true) :
    exec (.getSensorReading x) s = .next ((s.freeBytes 4).1.reply
      (bodyOf mcOk 0x0211 (natLe 2 x.toNat ++ (s.freeBytes 4).1.sensors ++ (s.freeBytes 4).2))) := by
  show execGetSensorReading x s = _
  simp [execGetSensorReading, h]

theorem getSensorReading_completes {s : State} (x : BitVec 16) (h : s.flag 18 .GLB_FUNC_READY_MGT = true) :
    Completes (.getSensorReading x) s fun t =>
      t = { s with fresh := s.fresh + 4, edge := { s.edge with mgmt := { s.edge.mgmt with
        out := bodyOf mcOk 0x0211 (natLe 2 x.toNat ++ s.sensors ++ (s.freeBytes 4).2) } } } :=
  have hdrawn : (s.freeBytes 4).1.flag 18 .GLB_FUNC_READY_MGT = true := h
  ⟨_, exec_getSensorReading_ready x h, State.reply_ready hdrawn⟩

theorem exec_getSensorReading_notReady {s : State} (x : BitVec 16) (h : s.flag 18 .GLB_FUNC_READY_MGT = false) :
    exec (.getSensorReading x) s = .next s := by
  show execGetSensorReading x s = _
  simp [execGetSensorReading, h]

/-! The numeric effecter sets the power cap (R456). -/

theorem State.setCap_inRange (s : State) {w : Nat} (hlo : 1500 ≤ w) (hhi : w ≤ 6000) :
    s.setCap w = (s.setF 18 .PWR_CAP_WATTS w, rcOk) := if_neg (by omega)

theorem State.setCap_outOfRange (s : State) {w : Nat} (h : w < 1500 ∨ 6000 < w) : s.setCap w = (s, rcBadArg) := if_pos h

/-- PWR_CAP is no register of readiness. -/
theorem State.setCap_flag_ready {s : State} (w : Nat) (hc : s.canonical = true) :
    (s.setF 18 .PWR_CAP_WATTS w).flag 18 .GLB_FUNC_READY_MGT = s.flag 18 .GLB_FUNC_READY_MGT := by
  have hget := State.getF_setF_ne (f := .PWR_CAP_WATTS) (g := .GLB_FUNC_READY_MGT) (d := 18) (d' := 18) w
    (State.sorted_regs hc) (by decide)
  simp only [State.flag, hget]

section
variable {s : State} {v : Word} (h : s.flag 18 .GLB_FUNC_READY_MGT = true)
include h

theorem exec_setNumericEffecterValue_cap : exec (.setNumericEffecterValue Config.capEffecter v) s =
    .next ((s.setCap v.toNat).1.reply [if (s.setCap v.toNat).2 = rcOk then mcOk else mcInvalidData]) :=
  congrArg _ ((if_neg (by simp [h])).trans (if_neg (by simp)))

theorem setNumericEffecterValue_setsCap (hc : s.canonical = true) (hlo : 1500 ≤ v.toNat) (hhi : v.toNat ≤ 6000) :
    Completes (.setNumericEffecterValue Config.capEffecter v) s fun t =>
      t.getF 18 .PWR_CAP_WATTS = v.toNat ∧ t.edge.mgmt.out = [mcOk] := by
  have hready := (State.setCap_flag_ready v.toNat hc).trans h
  refine ⟨_, exec_setNumericEffecterValue_cap h, ?_⟩
  rw [State.setCap_inRange s hlo hhi, State.reply_ready hready]
  refine ⟨?_, rfl⟩
  calc (s.setF 18 .PWR_CAP_WATTS v.toNat).getF 18 .PWR_CAP_WATTS
      = v.toNat % 2 ^ 13 := State.getF_setF_self 18 .PWR_CAP_WATTS _ (State.sorted_regs hc) (by decide) (by decide)
    _ = v.toNat := Nat.mod_eq_of_lt (by omega)

theorem setNumericEffecterValue_refuses (hv : v.toNat < 1500 ∨ 6000 < v.toNat) :
    Completes (.setNumericEffecterValue Config.capEffecter v) s fun t =>
      t = { s with edge := { s.edge with mgmt := { s.edge.mgmt with out := [mcInvalidData] } } } :=
  reply_completes h (by rw [exec_setNumericEffecterValue_cap h, State.setCap_outOfRange s hv]; rfl)

end

/-! A message that an update takes in some of its states (R456, DSP0267). -/

section
variable {s : State} {ok : Nat → Bool} {f : Mgmt → Mgmt}

theorem State.inUpdate_idle (h : s.edge.mgmt.update = 0) : s.inUpdate ok f = s.reply [mcNotInUpdate] := if_pos h

theorem State.inUpdate_taken (h : s.edge.mgmt.update ≠ 0) (hok : ok s.edge.mgmt.update = true) :
    s.inUpdate ok f = s.act f [mcOk] := (if_neg h).trans (if_pos hok)

theorem State.inUpdate_refused (h : s.edge.mgmt.update ≠ 0) (hok : ok s.edge.mgmt.update = false) :
    s.inUpdate ok f = s.reply [mcInvalidState] := (if_neg h).trans (if_neg (by simp [hok]))

end

section
variable {s : State} {i : Instr} {ok : Nat → Bool} {f : Mgmt → Mgmt} (hexec : exec i s = .next (s.inUpdate ok f))
  (h : s.flag 18 .GLB_FUNC_READY_MGT = true)
include hexec h

theorem inUpdate_taken_completes {m : Mgmt} (hup : s.edge.mgmt.update ≠ 0) (hok : ok s.edge.mgmt.update = true)
    (hm : { f s.edge.mgmt with out := [mcOk] } = m) :
    Completes i s fun t => t = { s with edge := { s.edge with mgmt := m } } :=
  act_completes h (hexec.trans (congrArg _ (State.inUpdate_taken hup hok))) hm

theorem inUpdate_idle_completes (hup : s.edge.mgmt.update = 0) :
    Completes i s fun t => t = { s with edge := { s.edge with mgmt := { s.edge.mgmt with out := [mcNotInUpdate] } } } :=
  reply_completes h (hexec.trans (congrArg _ (State.inUpdate_idle hup)))

theorem inUpdate_refused_completes (hup : s.edge.mgmt.update ≠ 0) (hok : ok s.edge.mgmt.update = false) :
    Completes i s fun t => t = { s with edge := { s.edge with mgmt := { s.edge.mgmt with out := [mcInvalidState] } } } :=
  reply_completes h (hexec.trans (congrArg _ (State.inUpdate_refused hup hok)))

end

/-! REQUESTUPDATE. -/

theorem exec_requestUpdate_free {s : State} (hup : s.edge.mgmt.update = 0) (hfw : s.firmwareBusy = false) :
    exec .requestUpdate s = .next (s.act (fun m => { m with update := 1, image := [], size := 0 }) [mcOk]) :=
  congrArg _ (if_neg (by simp [State.pldmBusy, hup, hfw]))

theorem exec_requestUpdate_busy {s : State} (h : s.edge.mgmt.update ≠ 0 ∨ s.firmwareBusy = true) :
    exec .requestUpdate s = .next (s.reply [mcInUpdate]) :=
  congrArg _ (if_pos (by simpa [State.pldmBusy, or_comm] using h))

/-! A piece of the image (R456). -/

section
variable {s : State} {n : Nat} {bs : List Byte}

theorem State.takePiece_outOfOrder (h : n ≠ s.edge.mgmt.image.length) : s.takePiece n bs = s := if_pos (.inr h)

/-- A piece in order that does not run past the end joins the image; the image is judged once it is complete. -/
theorem State.takePiece_inOrder (hup : s.edge.mgmt.update = 3)
    (hlen : s.edge.mgmt.image.length + bs.length ≤ s.edge.mgmt.size) :
    s.takePiece s.edge.mgmt.image.length bs =
      if (s.edge.mgmt.image ++ bs).length < s.edge.mgmt.size then s.setMgmt fun m => { m with image := s.edge.mgmt.image ++ bs }
      else if s.imageGood (s.edge.mgmt.image ++ bs) then
        (s.setMgmt fun m => { m with image := [], update := 4, lastResult := 0 }).setFw fun f =>
          { f with staged := some (s.edge.mgmt.image ++ bs) }
      else s.setMgmt fun m => { m with image := [], update := 2, lastResult := 1 } := by
  have hwhole : (s.edge.mgmt.image ++ bs).take s.edge.mgmt.size = s.edge.mgmt.image ++ bs :=
    List.take_of_length_le (by simpa using hlen)
  refine (if_neg (by simp [hup])).trans ?_
  rw [hwhole]

variable (h : s.flag 18 .GLB_FUNC_READY_MGT = true)
include h

theorem exec_firmwareDataResponse : exec (.firmwareDataResponse n bs) s = .next (s.takePiece n bs) := congrArg _ (if_pos h)

variable (hup : s.edge.mgmt.update = 3)
include hup

theorem firmwareDataResponse_partial (hlen : s.edge.mgmt.image.length + bs.length < s.edge.mgmt.size) :
    Completes (.firmwareDataResponse s.edge.mgmt.image.length bs) s fun t =>
      t = { s with edge := { s.edge with mgmt := { s.edge.mgmt with image := s.edge.mgmt.image ++ bs } } } :=
  ⟨_, exec_firmwareDataResponse h, (State.takePiece_inOrder hup hlen.le).trans (if_pos (by simpa using hlen))⟩

variable (hlen : s.edge.mgmt.image.length + bs.length = s.edge.mgmt.size)
include hlen

theorem firmwareDataResponse_good (hgood : s.imageGood (s.edge.mgmt.image ++ bs) = true) :
    Completes (.firmwareDataResponse s.edge.mgmt.image.length bs) s fun t =>
      t.edge.fw.staged = some (s.edge.mgmt.image ++ bs) ∧ t.edge.mgmt.update = 4 ∧ t.edge.mgmt.lastResult = 0 := by
  refine ⟨_, exec_firmwareDataResponse h, ?_⟩
  rw [State.takePiece_inOrder hup hlen.le, if_neg (by simp [hlen]), if_pos hgood]
  exact ⟨rfl, rfl, rfl⟩

theorem firmwareDataResponse_bad (hbad : s.imageGood (s.edge.mgmt.image ++ bs) = false) :
    Completes (.firmwareDataResponse s.edge.mgmt.image.length bs) s fun t =>
      t = { s with edge := { s.edge with mgmt := { s.edge.mgmt with image := [], update := 2, lastResult := 1 } } } := by
  refine ⟨_, exec_firmwareDataResponse h, ?_⟩
  rw [State.takePiece_inOrder hup hlen.le, if_neg (by simp [hlen]), if_neg (by simp [hbad])]
  rfl

end

/-! ACTIVATEFIRMWARE (R456, Table 13.5). -/

theorem State.setReady_reg {s : State} (w hi : Word) (hc : s.canonical = true) :
    (s.setReady w hi).reg 18 Reg.GLB_FUNC_READY = w := by
  unfold State.setReady
  extract_lets w0 h0 s1 s2
  split
  case isTrue heq => exact heq.1.symm
  case isFalse =>
    have hregs : (s2.event 3 0 [w, hi, w ^^^ w0, hi ^^^ h0]).regs = s1.regs := State.event_regs s2 _ _ _
    have hset : s1.reg 18 Reg.GLB_FUNC_READY = w :=
      (State.reg_setReg_ne hi (State.setReg_canonical 18 Reg.GLB_FUNC_READY w hc) (by decide)).trans
        (State.reg_setReg_self 18 Reg.GLB_FUNC_READY w hc)
    exact (congrArg (Store.get _ · _) hregs).trans hset

/-- TWIN shows the value that its readiness bit is given. -/
theorem State.setReadyBit_twin {s : State} (v : Bool) (hc : s.canonical = true) :
    (s.setReadyBit 7 v).flag 18 .GLB_FUNC_READY_TWIN = v := by
  have hget : (s.setReadyBit 7 v).getF 18 .GLB_FUNC_READY_TWIN = v.toNat % 2 ^ 1 :=
    (congrArg (bits · 7 7) (State.setReady_reg _ _ hc)).trans (bits_setBits_self _ _ (le_refl 7) (by decide))
  cases v
  · exact State.flag_eq_false hget
  · exact State.flag_eq_true hget

@[simp] theorem State.setReadyBit_edge (s : State) (i : Nat) (v : Bool) : (s.setReadyBit i v).edge = s.edge := by
  obtain ⟨rg, c, ch, m, hform⟩ := State.setReadyBit_form s i v
  rw [hform]

theorem State.setMgmt_canonical {s : State} (f : Mgmt → Mgmt) (hc : s.canonical = true) : (s.setMgmt f).canonical = true := hc

theorem State.setFw_canonical {s : State} (f : Firmware → Firmware) (hc : s.canonical = true) : (s.setFw f).canonical = true := hc

section
variable {s : State} (h : s.flag 18 .GLB_FUNC_READY_MGT = true)
include h

theorem exec_activateFirmware_idle (fault : Bool) (hup : s.edge.mgmt.update = 0) :
    exec (.activateFirmware fault) s = .next (s.reply [mcNotInUpdate]) :=
  congrArg _ ((if_neg (by simp [h])).trans (if_pos hup))

theorem exec_activateFirmware_refused (fault : Bool) (hup : s.edge.mgmt.update ≠ 0) (hnot : s.edge.mgmt.update ≠ 4) :
    exec (.activateFirmware fault) s = .next (s.reply [mcInvalidState]) :=
  congrArg _ ((if_neg (by simp [h])).trans ((if_neg hup).trans (if_pos (.inl hnot))))

variable (hup : s.edge.mgmt.update = 4) (htwin : s.flag 18 .GLB_FUNC_READY_TWIN = true)
include hup htwin

theorem exec_activateFirmware_ready (fault : Bool) : exec (.activateFirmware fault) s =
    .next (if fault then s.act (fun m => { m with update := 0, lastResult := 2 }) [mcOk]
      else (s.act (fun m => { m with update := 5 }) [mcOk]).beginActivation 0) :=
  congrArg _ ((if_neg (by simp [h])).trans ((if_neg (by simp [hup])).trans (if_neg (by simp [hup, htwin]))))

theorem activateFirmware_begins (hc : s.canonical = true) : Completes (.activateFirmware false) s fun t =>
    t.edge.mgmt = { s.edge.mgmt with update := 5, out := [mcOk] } ∧ t.edge.fw.stage = 1 ∧
      t.flag 18 .GLB_FUNC_READY_TWIN = false := by
  refine ⟨_, exec_activateFirmware_ready h hup htwin false, ?_⟩
  rw [if_neg Bool.false_ne_true, State.act_ready h, State.beginActivation]
  beta_reduce
  rw [State.setReadyBit_edge]
  exact ⟨rfl, rfl, State.setReadyBit_twin false (State.setFw_canonical _ (State.setMgmt_canonical _ hc))⟩

end

/-! A message that needs an update in progress: refused without one, and while one activates. -/

section
variable {s : State} (h : s.flag 18 .GLB_FUNC_READY_MGT = true) (bs : List Byte) (n : Nat)
include h

theorem updateMessages_idle (hup : s.edge.mgmt.update = 0) :
    ∀ i ∈ [Instr.passComponentTable bs, .updateComponent n, .activateFirmware false, .cancelUpdateComponent, .cancelUpdate],
      Completes i s fun t => t = { s with edge := { s.edge with mgmt := { s.edge.mgmt with out := [mcNotInUpdate] } } } := by
  simp only [List.forall_mem_cons]
  exact ⟨inUpdate_idle_completes rfl h hup, inUpdate_idle_completes rfl h hup,
    reply_completes h (exec_activateFirmware_idle h false hup), inUpdate_idle_completes rfl h hup,
    inUpdate_idle_completes rfl h hup, List.forall_mem_nil _⟩

theorem updateMessages_activating (hup : s.edge.mgmt.update = 5) :
    ∀ i ∈ [Instr.passComponentTable bs, .updateComponent n, .activateFirmware false, .cancelUpdateComponent, .cancelUpdate],
      Completes i s fun t => t = { s with edge := { s.edge with mgmt := { s.edge.mgmt with out := [mcInvalidState] } } } := by
  have hne : s.edge.mgmt.update ≠ 0 := by omega
  simp only [List.forall_mem_cons]
  exact ⟨inUpdate_refused_completes rfl h hne (by rw [hup]; rfl), inUpdate_refused_completes rfl h hne (by rw [hup]; rfl),
    reply_completes h (exec_activateFirmware_refused h false hne (by omega)),
    inUpdate_refused_completes rfl h hne (by rw [hup]; rfl), inUpdate_refused_completes rfl h hne (by rw [hup]; rfl),
    List.forall_mem_nil _⟩

end

/-! The TAP (R458, R459). -/

/-- The fields of IDCODE (Table 16.5), of which VERSION is the stepping's four low bits. -/
theorem State.idcodeWord_eq (s : State) :
    s.idcodeWord = BitVec.ofNat 4 s.inv.stepping ++ 0x4820#16 ++ 0x2B9#11 ++ 1#1 := by
  have hfields : ∀ x : BitVec 4, BitVec.ofNat 32 (x.toNat * 2 ^ 28 + 0x4820 * 2 ^ 12 + 0x2B9 * 2 + 1) =
      x ++ 0x4820#16 ++ 0x2B9#11 ++ 1#1 := by decide
  have hx := hfields (BitVec.ofNat 4 s.inv.stepping)
  rw [BitVec.toNat_ofNat] at hx
  exact hx

/-- The instructions that reach the boundary register, each with the row that loads it. -/
def boundaryRows : List (Instr × TapInstr) :=
  [(.samplePreload, .samplePreload), (.extest, .extest), (.clamp, .clamp), (.highz, .highz)]

section
variable {s : State} {x : TapInstr}

theorem boundaryRow_loads {i : Instr} (s : State) (hi : (i, x) ∈ boundaryRows) :
    x ≠ .bypass ∧ x ≠ .idcode ∧ exec i s = .next (s.loadTap x) := by
  simp only [boundaryRows, List.mem_cons, Prod.mk.injEq, List.not_mem_nil, or_false] at hi
  rcases hi with ⟨rfl, rfl⟩ | ⟨rfl, rfl⟩ | ⟨rfl, rfl⟩ | ⟨rfl, rfl⟩ <;> exact ⟨by decide, by decide, rfl⟩

/-- The lands are the TAP's while MOD_RESET_N is low and the regulators are on. -/
theorem State.loadTap_open (hb : x ≠ .bypass) (hi : x ≠ .idcode) (hreset : s.edge.pins.modResetN = false)
    (hreg : s.edge.pins.regulators = true) :
    s.loadTap x = s.setEdge fun e => { e with tap := { e.tap with ir := x, reset := false, dr := 0 } } := by
  cases x <;> simp [State.loadTap, hreset, hreg] at hb hi ⊢

theorem State.loadTap_shut (hi : x ≠ .idcode) (hshut : s.edge.pins.modResetN = true ∨ s.edge.pins.regulators = false) :
    s.loadTap x = s.setEdge fun e => { e with tap := { e.tap with ir := .bypass, reset := false, dr := 0 } } := by
  have hclosed : (!s.edge.pins.modResetN && s.edge.pins.regulators) = false := by
    rcases hshut with h | h <;> simp [h]
  cases x <;> simp [State.loadTap, hclosed] at hi ⊢

theorem State.loadTap_idcode (s : State) : s.loadTap .idcode = s.setEdge fun e => { e with tap := { e.tap with
    ir := .idcode, reset := false, dr := BitVec.ofNat 4 s.inv.stepping ++ 0x4820#16 ++ 0x2B9#11 ++ 1#1 } } := by
  rw [← State.idcodeWord_eq]
  rfl

end

/-! A reset reaches the TAP through its reset input alone. -/

theorem State.foldl_edge {α : Type} {f : State → α → State} (hf : ∀ s a, (f s a).edge = s.edge) (l : List α) :
    ∀ s : State, (l.foldl f s).edge = s.edge := by
  induction l with
  | nil => exact fun _ => rfl
  | cons a l ih => exact fun s => (ih (f s a)).trans (hf s a)

section
variable (s t : State) (ds : List Nat) (c : Nat) (v : Bool)

@[simp] theorem State.setCause_edge : (s.setCause ds c).edge = s.edge := by
  unfold State.setCause
  refine State.foldl_edge (fun _ _ => ?_) ds s
  rfl

@[simp] theorem State.setHold_edge : (s.setHold ds c v).edge = s.edge := by
  unfold State.setHold
  refine State.foldl_edge (fun _ _ => ?_) ds s
  rfl

@[simp] theorem State.countRestart_edge : (s.countRestart ds).edge = s.edge := by
  unfold State.countRestart
  refine State.foldl_edge (fun _ _ => ?_) ds s
  rfl

@[simp] theorem State.keepRst_edge : (s.keepRst t).edge = s.edge := by
  unfold State.keepRst
  refine State.foldl_edge (fun _ _ => ?_) allDies s
  rfl

@[simp] theorem State.reinstate_edge : s.reinstate.edge = s.edge := by
  unfold State.reinstate
  refine State.foldl_edge (fun _ _ => ?_) _ s
  rfl

theorem State.resetFull_tap : s.resetFull.edge.tap = s.edge.tap := by simp [State.resetFull, State.nonVolatile]

/-- Of the full resets a POR alone resets the TAP. -/
theorem State.assertFull_tap : (s.assertFull c).edge.tap = s.edge.tap.toReset (c = 0) := by
  have hfull := (State.resetFull_tap (s.countRestart s.loading)).trans (by rw [State.countRestart_edge])
  unfold State.assertFull
  dsimp only
  split
  · refine (congrArg Edge.tap (State.foldl_edge (fun _ _ => ?_) allDies _)).trans ?_
    · rfl
    simp [hfull]
  · simp [hfull]

theorem State.releaseFull_tap : (s.releaseFull c).edge.tap = s.edge.tap := by
  unfold State.releaseFull
  dsimp only
  split
  · rfl
  · split <;> simp

end

/-- A rise of MOD_RESET_N resets the TAP before the release begins. -/
theorem modrst_resetsTap (s : State) : Completes (.modrst false) s fun t =>
    t.edge.tap = { s.edge.tap with ir := .idcode, reset := true } := by
  refine ⟨_, rfl, ?_⟩
  beta_reduce
  exact State.releaseFull_tap _ 1

theorem por_resetsTap (s : State) : Completes (.por false) s fun t =>
    t.edge.tap = { s.edge.tap with ir := .idcode, reset := true } := by
  refine ⟨_, rfl, ?_⟩
  beta_reduce
  rw [if_neg Bool.false_ne_true, State.assertFull_tap]
  rfl

/-- Settles O59: each answer by what the module knows, each effect by the state of the update, each TAP instruction by the lands'
condition, and the resets by what they leave of the TAP. -/
theorem managementAndTapAnswer : Obligations.ManagementAndTapAnswer := by
  refine ⟨fun a b w x y bs s _ => ?answers, fun a addr v bs n s hc => ⟨⟨_, rfl, rfl⟩, fun h => ?effects⟩, fun i x s hi => ?tap⟩
  case answers =>
    intro answers body staged
    refine ⟨?eid, ?uuid, ?versions, ?types, ?tid, ?pldmVersion, ?pldmTypes, ?commands, ?repository, ?pdr,
      getSensorReading_completes x, exec_getSensorReading_notReady x, ?stateSensors, ?effecter, ?fruMeta, ?fru, ?ids, ?parameters,
      ?status, ?spdmVersion, ?capabilities, ?algorithms, ?digests, ?certificate, ?challenge, ?measurements, ?unsupported⟩
    case effecter => exact answers_of_reply (exec_getNumericEffecterValue x s)
    all_goals exact answers_of_reply rfl
  case effects =>
    refine ⟨act_completes h rfl rfl, act_completes h rfl rfl, act_completes h rfl rfl, setNumericEffecterValue_setsCap h hc,
      setNumericEffecterValue_refuses h, fun hup hfw => act_completes h (exec_requestUpdate_free hup hfw) rfl,
      fun hbusy => reply_completes h (exec_requestUpdate_busy hbusy), fun hup => ?table, fun hup => ?component,
      firmwareDataResponse_partial h, firmwareDataResponse_good h, firmwareDataResponse_bad h, fun hn => ?outOfOrder,
      fun hup htwin => activateFirmware_begins h hup htwin hc,
      fun hup htwin => act_completes h (exec_activateFirmware_ready h hup htwin true) rfl, fun hup => ?cancelComponent,
      fun hup hnot => ?cancel, updateMessages_idle h bs n, updateMessages_activating h bs n⟩
    case table => exact inUpdate_taken_completes rfl h (by omega) (by rw [hup]; rfl) rfl
    case component => exact inUpdate_taken_completes rfl h (by omega) (by rw [hup]; rfl) rfl
    case outOfOrder => rw [exec_firmwareDataResponse h, State.takePiece_outOfOrder hn]
    case cancelComponent => exact inUpdate_taken_completes rfl h (by omega) (by rcases hup with hup | hup <;> rw [hup] <;> rfl) rfl
    case cancel => exact inUpdate_taken_completes rfl h hup (by simpa using hnot) rfl
  case tap =>
    obtain ⟨hbypass, hidcode, hexec⟩ := boundaryRow_loads s (List.contains_iff_mem.mp hi)
    exact ⟨⟨s.loadTap .idcode, rfl, State.loadTap_idcode s⟩, ⟨_, rfl, rfl⟩,
      fun hreset hreg => ⟨_, hexec, State.loadTap_open hbypass hidcode hreset hreg⟩,
      fun hshut => ⟨_, hexec, State.loadTap_shut hidcode hshut⟩, ⟨_, rfl, rfl⟩, modrst_resetsTap s, por_resetsTap s⟩

end Sys2Proof.Machine
end
